-- ==== Sys2Proof/Word.lean ====
section
/-!
DEFINITION. The plain words of the block: bytes, half-words, words, double words (R8) and the index types
whose range is a power of two, so that no command can name a unit that does not exist (R13).
-/

namespace Sys2Proof

/-- 8 bits (R8). -/
abbrev Byte := BitVec 8
/-- 16 bits (R8). -/
abbrev Half := BitVec 16
/-- 32 bits (R8); also the bits of an FP32 value. -/
abbrev Word := BitVec 32
/-- 64 bits (R8). -/
abbrev DWord := BitVec 64

/-- Partition number 0–31 (R13). -/
abbrev PartId := BitVec 5
/-- Tile number 16y + x, 0–127 (R13). -/
abbrev TileId := BitVec 7
/-- Granule number 0–31 (R13). -/
abbrev GranId := BitVec 5
/-- Matrix Array A0–A3 (R13). -/
abbrev ArrId := BitVec 2
/-- HBM stack 0–7 (R13). -/
abbrev StackId := BitVec 3
/-- HBM channel 0–255 (R13). -/
abbrev ChanId := BitVec 8
/-- Port: 0–5 are P0–P5, 6 is TP; 7 names no port and is ill formed (R13). -/
abbrev PortId := BitVec 3
/-- Physical slab; 768–1,023 name no slab and are ill formed (R216). -/
abbrev SlabId := BitVec 10
/-- Filling Table descriptor index 0–16,383 (R181). -/
abbrev FillId := BitVec 14
/-- Host queue pair 0–63 (R355). -/
abbrev QueueId := BitVec 6
/-- s-register number 0–63 (R104). -/
abbrev SReg := BitVec 6

end Sys2Proof
end

