-- ==== Sys2Proof/Syntax.lean ====
section
/-!
DEFINITION. The commands of the block: one constructor of `Instr` for each row of the operation and event table, with
the operands the row's rule names. A slot of the bundle (R99) is a structure with the fields of its field map. What the
outside world brings with an event (a measured temperature, the symbols of a line that arrive in error, the verdict of a
signature check made by the standards of R378) is an operand of the command that is that event.
-/

namespace Sys2Proof

/-- Pass tag of a slot (R120): 00 none, 01 forward, 10 backward, 11 update. -/
abbrev PassTag := BitVec 2

/-- CTL slot (R100). -/
structure CtlSlot where
  cop : BitVec 4
  hold : BitVec 9
  gate : BitVec 4
  gsel : Byte
  ra : Bool
  gdst : SReg
  gprs : SReg
  creg : SReg
  target : BitVec 19
  deriving DecidableEq, Repr

/-- SCL slot (R104). -/
structure SclSlot where
  sopc : BitVec 6
  d : SReg
  a : SReg
  b : SReg
  imm : BitVec 40
  deriving DecidableEq, Repr

/-- ARR slot (R47). -/
structure ArrSlot where
  pt : PassTag
  op : BitVec 4
  fmt : BitVec 4
  flip : Bool
  accw : Bool
  accb : BitVec 10
  accstep : BitVec 2
  lba : BitVec 12
  win : BitVec 3
  xpb : Bool
  spa : BitVec 17
  wt : Bool
  spstr : BitVec 4
  kv : BitVec 7
  nv : BitVec 6
  deriving DecidableEq, Repr

/-- VEC slot (R66). -/
structure VecSlot where
  pt : PassTag
  op : BitVec 3
  ch : BitVec 4
  asrc : BitVec 3
  aarr : BitVec 2
  aent : BitVec 10
  astep : BitVec 2
  aspa : BitVec 17
  afmt : BitVec 4
  bsrc : BitVec 2
  bspa : BitVec 17
  bfmt : BitVec 4
  dst : BitVec 2
  dfmt : BitVec 4
  dspa : BitVec 17
  dlba : BitVec 12
  msk : BitVec 3
  mstr : BitVec 2
  mspa : BitVec 17
  sbase : SReg
  tsl : BitVec 3
  rdir : Bool
  rgrp : BitVec 3
  vb0 : BitVec 4
  vb1 : BitVec 4
  rpos : BitVec 2
  deriving DecidableEq, Repr

/-- UPD slot (R147). -/
structure UpdSlot where
  pt : PassTag
  op : BitVec 4
  gd : BitVec 4
  gspa : BitVec 17
  rspa : BitVec 17
  wspa : BitVec 17
  sbase : SReg
  vn : BitVec 6
  deriving DecidableEq, Repr

/-- MOV slot (R107). -/
structure MovSlot where
  pt : PassTag
  op : BitVec 3
  desc : BitVec 5
  src : BitVec 17
  dst : BitVec 17
  tok : BitVec 4
  deriving DecidableEq, Repr

/-- MEM slot (R113). -/
structure MemSlot where
  pt : PassTag
  op : BitVec 3
  desc : BitVec 5
  addr : BitVec 26
  spa : BitVec 17
  tok : Byte
  deriving DecidableEq, Repr

/-- XCH slot (R118). -/
structure XchSlot where
  op : BitVec 4
  tag : Half
  desc : BitVec 5
  spa : BitVec 17
  bslot : Byte
  deriving DecidableEq, Repr

/-- A bundle: every slot of R99. -/
structure Bundle where
  ctl : CtlSlot
  scl : SclSlot
  arr : List ArrSlot
  vec : VecSlot
  upd : UpdSlot
  mov : List MovSlot
  mem : MemSlot
  xch : XchSlot
  deriving DecidableEq, Repr

/-- What every submission entry carries beside its body (R358): the queue it was taken from, NOTIFY and CID. -/
structure EntryHead where
  q : QueueId
  notify : Bool
  cid : Word
  deriving DecidableEq, Repr

/-- Body of PROGRAM_RUN (R364). -/
structure RunBody where
  ctxB : Bool
  srcPart : Bool
  tgtv : Bool
  target : FillId
  idx : BitVec 19
  srca : DWord
  deriving DecidableEq, Repr

/-- Body of TOKEN_STEP (R366). The 16 PARAM bytes are not read by the device but stand in the delivery slot (R368). -/
structure StepBody where
  ctx : Half
  rows : Half
  bind : Bool
  release : Bool
  none_ : Bool
  cv : Bool
  fidx : FillId
  ina : DWord
  inlen : Word
  outa : DWord
  outmax : Word
  param : List Byte
  deriving DecidableEq, Repr

/-- Body of FILLING_STAGE (R368). -/
structure StageBody where
  src : BitVec 2
  port : PortId
  fidx : FillId
  srca : DWord
  wloc : BitVec 34
  oloc : BitVec 34
  olen : BitVec 34
  deriving DecidableEq, Repr

/-- Body of DATA_MOVE (R368). -/
structure MoveBody where
  toHost : Bool
  haddr : DWord
  pline : BitVec 34
  nlines : BitVec 25
  deriving DecidableEq, Repr

/-- Source of an SIU_FEED (R370). -/
structure FeedSrc where
  src : BitVec 2
  port : PortId
  srca : DWord
  len : DWord
  deriving DecidableEq, Repr

/-- A control flit as it was received, its 256 bits (R276, R279). -/
abbrev Flit := BitVec 256

/-- Head of a PCL frame as it was received (R278). `fecOk` says that no codeword of it was uncorrectable. -/
structure Frame where
  vc : BitVec 3
  last : Bool
  fmt : BitVec 2
  src : BitVec 24
  dst : BitVec 24
  hop : Half
  tag : Half
  job : Half
  step : Half
  offset : Word
  seq : Half
  attempt : BitVec 3
  sat : Bool
  cval : Bool
  cvc : BitVec 3
  ccnt : BitVec 12
  ack : Half
  nak : Bool
  empty : Bool
  nflit : BitVec 6
  fcrc : Word
  fecOk : Bool
  payload : List Byte
  deriving DecidableEq, Repr

/-- A management command's envelope (R396) with the verdict of the ECDSA check of its SIG (R397). -/
structure Env where
  anchor : BitVec 2
  serial : BitVec 128
  counter : DWord
  sigOk : Bool
  deriving DecidableEq, Repr

/-- The verdicts of the checks that start-up makes by the standards named in R378–R384, and what HBM training found. -/
structure BootVerdict where
  fwSigA : Bool
  fwSigB : Bool
  fwDigA : Bool
  fwDigB : Bool
  cfgSigA : Bool
  cfgSigB : Bool
  sfdp8D : Bool
  trainFail : List ChanId
  deriving DecidableEq, Repr

/-- A measurement of every value that R429 refreshes. -/
structure Telemetry where
  vin : Half
  iin : Half
  pin : Half
  pkg : Half
  host : Half
  temps : List Byte
  deriving DecidableEq, Repr

/-- One line symbol that arrives in error: its number (0–63 ciphertext, 64–69 check, 70–71 metadata; R248) and the bits
that differ. -/
abbrev SymErr := Nat × Byte

/-- Which key slot a key operation names (R262). -/
inductive KeySlot where
  | part (p : PartId)
  | shared (k : BitVec 3)
  | glaze
  deriving DecidableEq, Repr

/-- The commands, in the table's order. -/
inductive Instr where
  -- the instruction stream (R96–R137)
  | bundleIssue (p : PartId)
  | gateEventArrival (p : PartId)
  | undoComplete (p : PartId)
  | commitQueueRelease (p : PartId)
  | ctlNext (p : PartId) (hold : BitVec 9)
  | ctlJmp (p : PartId) (hold : BitVec 9) (target : BitVec 19)
  | ctlBnz (p : PartId) (hold : BitVec 9) (creg : SReg) (target : BitVec 19)
  | ctlBz (p : PartId) (hold : BitVec 9) (creg : SReg) (target : BitVec 19)
  | ctlLoop (p : PartId) (hold : BitVec 9) (creg : SReg) (target : BitVec 19)
  | ctlCall (p : PartId) (hold : BitVec 9) (target : BitVec 19)
  | ctlRet (p : PartId) (hold : BitVec 9)
  | ctlEnd (p : PartId) (hold : BitVec 9)
  -- the SCL slot (R104–R106)
  | sclMovi (p : PartId) (d : SReg) (imm : BitVec 40)
  | sclAdd (p : PartId) (d a b : SReg)
  | sclSub (p : PartId) (d a b : SReg)
  | sclAddi (p : PartId) (d a : SReg) (imm : BitVec 40)
  | sclMul (p : PartId) (d a b : SReg)
  | sclAnd (p : PartId) (d a b : SReg)
  | sclOr (p : PartId) (d a b : SReg)
  | sclXor (p : PartId) (d a b : SReg)
  | sclShl (p : PartId) (d a b : SReg)
  | sclShr (p : PartId) (d a b : SReg)
  | sclSra (p : PartId) (d a b : SReg)
  | sclCmplt (p : PartId) (d a b : SReg)
  | sclCmpltu (p : PartId) (d a b : SReg)
  | sclCmpeq (p : PartId) (d a b : SReg)
  | sclMin (p : PartId) (d a b : SReg)
  | sclMax (p : PartId) (d a b : SReg)
  | sclFadd (p : PartId) (d a b : SReg)
  | sclFmul (p : PartId) (d a b : SReg)
  | sclFfma (p : PartId) (d a b : SReg)
  | sclRrd (p : PartId) (d : SReg) (addr : Half)
  | sclRwr (p : PartId) (a : SReg) (addr : Half)
  | sclSld (p : PartId) (d : SReg) (t : TileId) (line : BitVec 17) (word : BitVec 3)
  | sclSld8 (p : PartId) (d : SReg) (t : TileId) (line : BitVec 17)
  | sclSst (p : PartId) (a : SReg) (t : TileId) (line : BitVec 17) (word : BitVec 3)
  | sclCvuf (p : PartId) (a : SReg) (size : BitVec 2)
  -- the Check-Value Unit (R407–R410)
  | cvuFeedProcess (p : PartId)
  | cvuInit (p : PartId) (alg : BitVec 2) (halt : Bool)
  | cvuCheck (p : PartId) (alg : BitVec 2) (halt init : Bool)
  -- contexts (R135–R137)
  | contextSwitchToB (p : PartId)
  | preemptionOfB (p : PartId)
  -- Matrix Arrays (R21–R60)
  | arrMac (p : PartId) (a : ArrId) (sl : ArrSlot) (hold : BitVec 9)
  | arrLoad (p : PartId) (a : ArrId) (sl : ArrSlot)
  | arrMacload (p : PartId) (a : ArrId) (sl : ArrSlot) (hold : BitVec 9)
  | arrAclr (p : PartId) (a : ArrId) (sl : ArrSlot) (hold : BitVec 9)
  | arrAccStore (p : PartId) (a : ArrId) (sl : ArrSlot) (hold : BitVec 9)
  | arrAccLoad (p : PartId) (a : ArrId) (sl : ArrSlot) (hold : BitVec 9)
  | arrFclr (p : PartId) (a : ArrId)
  | arrFlip (p : PartId) (mask : BitVec 4)
  | arrLoadDeferredStart (p : PartId) (a : ArrId)
  | shadowPlaneReady (p : PartId) (a : ArrId)
  | flipHeldRelease (p : PartId)
  -- Vector Engine (R61–R95)
  | vecRun (p : PartId) (sl : VecSlot) (hold : BitVec 9)
  | vecTclr (p : PartId) (tsl : BitVec 3)
  | vecTdrain (p : PartId) (sl : VecSlot)
  | vecVload (p : PartId) (sl : VecSlot) (hold : BitVec 9)
  | vecMload (p : PartId) (sl : VecSlot)
  -- Update Unit (R145–R176)
  | updStep (p : PartId) (sl : UpdSlot) (hold : BitVec 9)
  | updCopy (p : PartId) (sl : UpdSlot) (hold : BitVec 9)
  | updSwap (p : PartId) (k : BitVec 3) (stepEnd : Bool)
  | updFclr (p : PartId)
  -- Movers and the MEM slot (R107–R117)
  | movRun (p : PartId) (m : BitVec 1) (sl : MovSlot) (hold : BitVec 9)
  | moverLineArrival (p : PartId) (n : Nat)
  | memRead (p : PartId) (sl : MemSlot)
  | memWrite (p : PartId) (sl : MemSlot)
  | memCrumb (p : PartId) (sl : MemSlot)
  | memReadx (p : PartId) (sl : MemSlot)
  | crumbIndexIssue (p : PartId) (t : TileId)
  | memLineArrival (p : PartId) (n : Nat)
  | memWriteAccept (p : PartId) (n : Nat)
  -- the XCH slot (R118, R291, R310)
  | xchSend (p : PartId) (sl : XchSlot)
  | xchOpen (p : PartId) (sl : XchSlot)
  | xchContrib (p : PartId) (sl : XchSlot)
  -- the Checkpoint Engine (R162, R443–R447)
  | checkpointCaptureEnd (p : PartId)
  | checkpointUnitDrain (p : PartId)
  | checkpointHeldLineRead (p : PartId)
  -- Fillings and Crusts (R177–R212)
  | fillingStage (p : PartId) (h : EntryHead) (b : StageBody)
  | fillingEvict (p : PartId) (h : EntryHead) (fidx : FillId)
  | fillingEvictForce (p : PartId) (h : EntryHead) (fidx : FillId)
  | stagingBegin (fidx : FillId)
  | stagingPoisonLine (fidx : FillId)
  | stagingEnd (fidx : FillId)
  | staleWalk
  | staleWalkEnd
  | orderTableWritten (p : PartId)
  | unitCopyStart (p : PartId)
  | unitCopyEnd (p : PartId)
  | stagingBufferRelease (p : PartId)
  | crustAbsent (v : BitVec 1)
  -- HBM (R213–R260)
  | lineSlotGrant (c : ChanId) (pc : BitVec 1) (errs : List SymErr)
  | writeBatchForm (c : ChanId) (pc : BitVec 1)
  | refresh (c : ChanId) (pc : BitVec 1)
  | crumbLineAccess (s : StackId) (errs : List SymErr)
  | writeBack (s : StackId)
  | rowRepairCopy (s : StackId)
  | rowRepairCopyEnd (s : StackId)
  | patrolScrubRead (errs : List SymErr)
  | stackTempReadout (s : StackId) (celsius : Byte)
  | thermalLevelApply (s : StackId)
  | periodicRetrain (c : ChanId)
  | laneRepair (c : ChanId) (pc : BitVec 1)
  | retrainHoldEnd (c : ChanId) (ok : Bool) (hclk : BitVec 12)
  -- keys (R261–R268)
  | keyLoadInEffect (k : KeySlot)
  | epochFlip (k : KeySlot)
  | sweepLine (k : KeySlot) (errs : List SymErr)
  | keyRotateDeferredStart (k : KeySlot)
  -- the collective link (R275–R316)
  | credit (q : PortId) (w : Flit)
  | creditReturn (q : PortId) (vc : BitVec 3)
  | bready (q : PortId) (w : Flit)
  | breadyRepeat (p : PartId) (slot : Byte)
  | halt (q : PortId) (w : Flit)
  | hello (q : PortId) (w : Flit)
  | echo (q : PortId) (w : Flit)
  | echoReply (q : PortId) (w : Flit)
  | vcreset (q : PortId) (w : Flit)
  | waketol (q : PortId) (w : Flit)
  | lpi (q : PortId) (w : Flit)
  | rxSend (q : PortId) (f : Frame)
  | rxOpen (q : PortId) (f : Frame)
  | rxContrib (q : PortId) (f : Frame)
  | rxGather (q : PortId) (f : Frame)
  | rxTrailer (q : PortId) (f : Frame)
  | stragglerWindowClose (p : PartId) (slot : Byte)
  | ledgerCopyDone (p : PartId) (slot : Byte)
  | swr (q : PortId) (stream : Half) (unit : Word) (data : List Byte)
  | srd (q : PortId) (stream : Half) (unit : Word) (count : DWord)
  | srsp (q : PortId) (f : Frame)
  | linkBringUp (q : PortId)
  | portDown (q : PortId)
  -- partitions (R317–R343)
  | grantGran (env : Env) (p : PartId) (mask : Word) (slabs : List (SlabId × BitVec 11))
  | reclaimGran (env : Env) (p : PartId) (mask : Word) (slabs : List SlabId)
  | moveGran (env : Env) (p q : PartId) (mask : Word) (slabs : List (SlabId × BitVec 11))
  | grantSlab (env : Env) (p : PartId) (slab : SlabId) (pslot : BitVec 11)
  | reclaimSlab (env : Env) (p : PartId) (slab : SlabId)
  | moveSlab (env : Env) (p q : PartId) (slab : SlabId) (pslot : BitVec 11)
  | grantShared (env : Env) (p : PartId) (v : Byte)
  | revokeShared (env : Env) (p : PartId) (v : Byte)
  | setShare (env : Env) (p : PartId) (weight : Byte)
  | dissolve (env : Env) (p : PartId)
  | ownershipActionEffect (p : PartId)
  | resizeQuiesceEnd (p : PartId)
  | resizeResume (p : PartId)
  | glazeOverwriteLine (slab : SlabId)
  | slabGlazeEnd (slab : SlabId)
  | granuleClearEnd (g : GranId)
  | partReset (p : PartId) (h : EntryHead)
  | resetComplete (p : PartId)
  | evtClampClr (p : PartId)
  -- the host link (R344–R377)
  | wwr (off : DWord) (data : List Byte)
  | wrd (off : DWord) (len : BitVec 13) (tag : BitVec 10)
  | mcpl (tag : BitVec 10) (data : List Byte)
  | merr (tag : BitVec 10)
  | crd (posted nonposted : Half)
  | registerWrite (off : BitVec 24) (value : DWord)
  | hostLinkDown
  | hostLinkUp (mods : BitVec 4) (posted nonposted : Half)
  | ucieModuleFail (m : BitVec 2)
  | sqTailDoorbell (p : PartId) (q : QueueId) (tail : Half)
  | cqHeadDoorbell (p : PartId) (q : QueueId) (head : Half)
  | queueEnable (p : PartId) (q : QueueId)
  | queueDisable (p : PartId) (q : QueueId)
  | sqEntryFetch (p : PartId) (q : QueueId)
  | programRun (p : PartId) (h : EntryHead) (b : RunBody)
  | programStart (p : PartId) (ctxB : Bool)
  | tokenStep (p : PartId) (h : EntryHead) (b : StepBody)
  | tokenStepPreparation (p : PartId) (q : QueueId)
  | completionStore (p : PartId) (slot : Half)
  | dataMove (p : PartId) (h : EntryHead) (b : MoveBody)
  | dataMoveEnd (p : PartId)
  | checkpointNow (p : PartId) (h : EntryHead)
  | keyRotate (p : PartId) (h : EntryHead)
  | attest (p : PartId) (h : EntryHead) (haddr : DWord) (maxlen : Word) (nonce : List Byte)
  | recipeWritten
  | siuFeedData (p : PartId) (h : EntryHead) (f : FeedSrc)
  | siuFeedEpoch (p : PartId) (h : EntryHead) (seed : DWord) (k : BitVec 5)
  | siuFeedDict (p : PartId) (h : EntryHead) (f : FeedSrc) (dslot : Bool) (dictId : Word)
  | siuFeedEnd (p : PartId) (h : EntryHead)
  | siuFeedResume (p : PartId) (h : EntryHead) (f : FeedSrc) (foff : DWord) (skip : Word)
  | siuFrameDecode (p : PartId)
  | siuRecordEmit (p : PartId)
  | siuConsumerReread (p : PartId)
  -- start-up and management (R378–R411)
  | ready
  | tlsConnectionAccept
  | readReg (counter : DWord) (off : BitVec 24) (count : Half)
  | resetPart (env : Env) (p : PartId)
  | crustLoad (env : Env) (v : Byte) (hostSrc : Bool) (port : PortId) (stream : Half) (addr : DWord)
  | crustLoadImageEnd (v : BitVec 1)
  | crustRetire (env : Env) (v : Byte)
  | sharedRotate (env : Env) (k : Byte)
  | attestDev (env : Env) (nonce : List Byte)
  | flashWrite (env : Env) (copyB erase : Bool) (off : Word) (data : List Byte) (otherSigs : Bool)
  | commit (env : Env)
  | moduleReset (env : Env)
  | enroll (env : Env) (slot : BitVec 2) (revoke : Bool) (hash cert : List Byte) (certSig : Bool)
  -- clocks and power (R412–R429)
  | aonTrim
  | refclkLoss
  | wakeEvent
  | permittedStateRecompute
  | powerStateEntryBegin
  | powerStateEntryEnd
  | powerStateExitEnd
  | pwrWakeWrite (p : PartId) (value : DWord)
  | waketolRepeat
  | linkWake (q : PortId)
  | ucieL1ExitRequest
  | limiterSample (avg100us : Half)
  | dieTempRead (temps : List Byte)
  | hostSiteSwitchOff
  | telemetryRefresh (m : Telemetry)
  | lidTempRead (celsius : Byte)
  -- the event log (R434–R439)
  | eventLogIntake
  | evtRdAdvance (rd : BitVec 11)
  | evtCtlFrclr
  -- the twin (R453–R462)
  | heartbeatSend
  | heartbeat (f : Frame)
  | heartbeatLoss
  | attach (f : Frame)
  | attachWaitExpiry
  | heldSenseTimeout
  | handover (f : Frame)
  | fail (f : Frame)
  | syncdone (f : Frame)
  | fdesc (f : Frame)
  | fimg (f : Frame)
  | twinCtx (f : Frame)
  | prog (f : Frame)
  | preset (f : Frame)
  | ckpt (f : Frame)
  | detachDrainTimeout
  -- the module's pins and the I3C sideband (R468–R485)
  | menAssert
  | menDeassert
  | vinUndervoltage
  | vinOvervoltage
  | mrstNAssert
  | mrstNRelease (slotId : BitVec 3) (v : BootVerdict)
  | pwrModCauseClear (mask : BitVec 7)
  | status
  | recBegin (len : Word)
  | recData (off : Word) (data : List Byte) (hdrOk : Bool)
  | recEnd
  | setdasa (addr : BitVec 7)
  | entdaa (addr : BitVec 7)
  | rstdaa
  | getpid
  | getbcr
  | getdcr
  | getstatus
  | enec
  | disec
  -- the rows that close the table
  | checkpointIntervalExpiry (p : PartId)
  | controlStoreParityFailure (unit : Byte)
  | twsInChange (asserted : Bool)
  | mirrorDrainTimeout (p : PartId)
  | contextSwitchEnd (p : PartId)
  | tcWorkComplete (ok : Bool)
  | mpRequest (code : DWord) (addr : Word) (data : List Byte)
  | limiterTargetSet (watts : BitVec 12)
  deriving DecidableEq, Repr

end Sys2Proof
end

