-- ==== Sys2Proof/Decode.lean ====
section
/-!
DEFINITION. Words of the operation and event table. The table gives no row any bits: its rows are operations and events, not
encodings (log entry 43). The one encoding the spec has for operations, the bundle of R99, is decoded in
`Sys2Proof.Machine.decodeBundle`.
-/

namespace Sys2Proof

/-- The command that a word of the table spells: none. -/
def decodeTableWord (_nbits _w : Nat) : Option Instr := none

end Sys2Proof
end

