-- ==== Sys2Proof/Config.lean ====
section
/-!
DEFINITION. What the spec leaves free, and what it hands to a published standard. Each constant is opaque: nothing can
evaluate it, so a statement about it holds whatever its values are. Free values drawn one after another are
`freeBits` applied to the counter `State.freeCtr`.
-/

namespace Sys2Proof.Config

/-- The n-th free value: used wherever the spec leaves a value open (log entry 2). -/
opaque freeBits : Nat → Nat

/-- The AES-256 block cipher and its inverse (R261), a published standard the spec does not define: key, block, byte 0 lowest
(log entry 3). -/
opaque aesEnc : BitVec 256 → BitVec 128 → BitVec 128
opaque aesDec : BitVec 256 → BitVec 128 → BitVec 128

/-- The n-th key that the TC's random bit generator gives (R263): Key1, and by what Key2 differs from it, less 1 (log entry 3). -/
opaque drawKey : Nat → BitVec 256
opaque drawDiff : Nat → Nat

/-- What the cells of a line that nothing has written since start-up hold (R393): the count of start-ups, the device byte address;
ciphertext bytes, metadata, and whether (when odd) the line fails the code (log entry 1). -/
opaque coldByte : Nat → Nat → Byte
opaque coldMeta : Nat → Nat → BitVec 16
opaque coldFails : Nat → Nat → Nat

/-- SHA-384 of a byte string (R378), a published standard the spec does not define (log entry 4). -/
opaque sha384 : List Byte → List Byte

/-- Zstandard's decompression (R372), a published format the spec does not define: dictionary (empty for none) and frame; the
content, and whether the frame decoded to its end. And the XXH64 of a content (log entry 126). -/
opaque zstdData : List Byte → List Byte → List Byte × Bool
opaque xxh64 : List Byte → BitVec 64

/-- Elliptic-curve operations on brainpoolP384r1 (R378, R380, R401), published standards: the public key of a scalar, the ECDSA
signature of a byte string under a scalar, the x-coordinate that a scalar and a public key agree on (log entry 4). -/
opaque ecPub : Nat → List Byte
opaque ecSign : Nat → List Byte → List Byte
opaque ecdhX : Nat → List Byte → List Byte

/-- X.509 v3 (R381, R382), a published standard: the public key of a DER certificate; the bytes to be signed of the management
certificate with a subject key, a serial number and a validity (log entry 4). -/
opaque certKey : List Byte → List Byte
opaque x509Tbs : List Byte → List Byte → List Byte → List Byte → List Byte

/-- The word that a stage function whose result R75 bounds and does not fix would give, opcode and operand: taken where it lies
within the bound (log entry 5). -/
opaque vecApprox : Nat → Word → Word

/-- Which line-cache set a line takes: R230 says "chosen by bits of its device address above the channel selection" and
not which (log entry 6); taken mod 8,192. -/
opaque crumbSet : Nat → Nat

/-- The order of additions within a vector that SCANADD's fixed tree over the lane positions gives: R79 fixes that there is one
and not which. The running value and the lanes up to the position, `none` where a lane is inactive or of an earlier segment (log
entry 7). -/
opaque scanTree : List (Option Word) → Word

/-- The SLVL, PID, BCR and DCR constants that I3C answers carry and the spec does not give (R481; log entry 8). -/
opaque i3cPid : BitVec 48
opaque i3cBcr : Byte
opaque i3cDcr : Byte

/-- ROM version of the TC (R404). -/
opaque romVersion : Word

end Sys2Proof.Config
end

