-- ==== Sys2Proof/Machine/Bits.lean ====
section
/-!
DEFINITION. Bit fields of a number (R10: bit 0 least significant, a range written msb down to lsb).
-/

namespace Sys2Proof.Machine

/-- Bits `lo` upward, `w` of them, of a number. -/
def fld (x lo w : Nat) : Nat := x / 2 ^ lo % 2 ^ w

/-- One bit of a number. -/
def bit (x i : Nat) : Bool := x / 2 ^ i % 2 == 1

/-- A bit as a number. -/
def b2n (b : Bool) : Nat := if b then 1 else 0

/-- A field placed at its position. -/
def put (v lo w : Nat) : Nat := v % 2 ^ w * 2 ^ lo

/-- Replace a field. -/
def setFld (x lo w v : Nat) : Nat := x - fld x lo w * 2 ^ lo + put v lo w

/-- A field of `w` bits read as two's complement. -/
def sfld (x lo w : Nat) : Int :=
  let v := fld x lo w
  if v < 2 ^ (w - 1) then (v : Int) else (v : Int) - (2 : Int) ^ w

/-- Clamp a number into a range. -/
def clampNat (lo hi v : Nat) : Nat := Nat.max lo (Nat.min hi v)

/-- ⌈a / b⌉. -/
def cdiv (a b : Nat) : Nat := (a + b - 1) / b

/-- Sum of a list. -/
def sumL (l : List Nat) : Nat := l.foldl (· + ·) 0

/-- The largest of a list, 0 for none. -/
def maxL (l : List Nat) : Nat := l.foldl Nat.max 0

end Sys2Proof.Machine
end

