-- ==== Sys2Proof/Machine/Map.lean ====
section
/-!
DEFINITION. Sparse tables: a list of key and value pairs with strictly rising keys and no entry equal to what an unlisted
key reads as, so that equal tables are equal lists. Byte memories are tables of bytes (`Host.Cell` is a pair of a key and
a byte), read and written here.
-/

namespace Sys2Proof.Machine

/-- A sparse table. -/
abbrev Map (α : Type) := List (Nat × α)

/-- The value at a key; `d` is what an unlisted key reads as. -/
def mget {α : Type} (d : α) : Map α → Nat → α
  | [], _ => d
  | (k', v) :: m, k => if k = k' then v else mget d m k

/-- Insert or replace, keeping the keys rising. -/
def mput {α : Type} : Map α → Nat → α → Map α
  | [], k, v => [(k, v)]
  | (k', v') :: m, k, v =>
    if k < k' then (k, v) :: (k', v') :: m
    else if k = k' then (k, v) :: m
    else (k', v') :: mput m k v

/-- Remove a key. -/
def mdel {α : Type} : Map α → Nat → Map α
  | [], _ => []
  | (k', v') :: m, k => if k = k' then mdel m k else (k', v') :: mdel m k

/-- Write a value; writing what an unlisted key reads as removes the entry. -/
def mset {α : Type} [DecidableEq α] (d : α) (m : Map α) (k : Nat) (v : α) : Map α :=
  if v = d then mdel m k else mput m k v

/-- Change the value at a key. -/
def mmod {α : Type} [DecidableEq α] (d : α) (m : Map α) (k : Nat) (f : α → α) : Map α :=
  mset d m k (f (mget d m k))

/-- Keys strictly rising from a bound, no entry equal to the default: the canonical form. -/
def mwfFrom {α : Type} [DecidableEq α] (d : α) : Nat → Map α → Bool
  | _, [] => true
  | b, (k, v) :: m => decide (b ≤ k) && decide (v ≠ d) && mwfFrom d (k + 1) m

/-- The canonical form of a table. -/
def mwf {α : Type} [DecidableEq α] (d : α) (m : Map α) : Bool := mwfFrom d 0 m

/-- Keep the entries whose key passes. -/
def mfilter {α : Type} (f : Nat → Bool) (m : Map α) : Map α := m.filter (fun e => f e.1)

/-- A byte memory: unlisted addresses read as 0 (log entry 44). -/
abbrev Mem := List (Nat × Byte)

/-- The canonical form of a byte memory. -/
def Mem.wf (m : Mem) : Bool := mwf (0 : Byte) m

/-- One byte. -/
def rd8 (m : Mem) (a : Nat) : Byte := mget 0 m a

/-- Write one byte. -/
def wr8 (m : Mem) (a : Nat) (v : Byte) : Mem := mset 0 m a v

/-- `n` bytes from an address, lowest first. -/
def rdBytes (m : Mem) (a : Nat) : Nat → List Byte
  | 0 => []
  | n + 1 => rd8 m a :: rdBytes m (a + 1) n

/-- Write bytes from an address upward. -/
def wrBytes (m : Mem) (a : Nat) : List Byte → Mem
  | [] => m
  | b :: bs => wrBytes (wr8 m a b) (a + 1) bs

/-- Write those bytes whose mask bit is set. -/
def wrMasked (m : Mem) (a : Nat) : List (Bool × Byte) → Mem
  | [] => m
  | (k, b) :: bs => wrMasked (if k then wr8 m a b else m) (a + 1) bs

/-- Zero `n` bytes from an address. -/
def zeroRange (m : Mem) (lo n : Nat) : Mem := mfilter (fun k => decide (k < lo) || decide (lo + n ≤ k)) m

/-- A little-endian number of bytes (R10). -/
def leNat : List Byte → Nat
  | [] => 0
  | b :: bs => b.toNat + 256 * leNat bs

/-- The `n` little-endian bytes of a number (R10). -/
def leBytes : Nat → Nat → List Byte
  | 0, _ => []
  | n + 1, v => BitVec.ofNat 8 v :: leBytes n (v / 256)

/-- A little-endian number in memory. -/
def rdLe (m : Mem) (a n : Nat) : Nat := leNat (rdBytes m a n)

/-- Element `i` of a list, or `d`. -/
def nth {α : Type} (d : α) (l : List α) (i : Nat) : α := l.getD i d

/-- The numbers 0 to n − 1. -/
def upTo (n : Nat) : List Nat := List.range n

end Sys2Proof.Machine
end

