-- ==== Sys2Proof/Machine/Code.lean ====
section
/-!
DEFINITION. The codes the spec defines in full: the CRCs of R407, the RS(70,64) line code of R247 with its decoder
(R249), the XTS mode of R261 over AES-256, the mixing function of R156 and the shuffle permutation of R374.
-/

namespace Sys2Proof.Machine

/-- One reflected CRC step per bit. -/
def crcBitsR (poly : Nat) : Nat → Nat → Nat
  | 0, c => c
  | n + 1, c => crcBitsR poly n (if c % 2 = 1 then Nat.xor (c / 2) poly else c / 2)

/-- One byte into a reflected CRC. -/
def crcByteR (poly c : Nat) (b : Byte) : Nat := crcBitsR poly 8 (Nat.xor c b.toNat)

/-- One unreflected CRC-64 step per bit. -/
def crcBits64 (poly : Nat) : Nat → Nat → Nat
  | 0, c => c
  | n + 1, c =>
    crcBits64 poly n (if bit c 63 then Nat.xor (c * 2 % 2 ^ 64) poly else c * 2 % 2 ^ 64)

def crcByte64 (c : Nat) (b : Byte) : Nat :=
  crcBits64 0x42F0E1EBA9EA3693 8 (Nat.xor c (b.toNat * 2 ^ 56))

/-- One byte into the running value of algorithm `alg` (R407). The reflected polynomials are those of the table, bits
reversed. -/
def crcFeed (alg c : Nat) (b : Byte) : Nat :=
  if alg = 1 then crcByteR 0xEDB88320 c b
  else if alg = 2 then crcByte64 c b
  else crcByteR 0x82F63B78 c b

def crcInit (alg : Nat) : Nat := if alg = 2 then 0 else 0xFFFFFFFF
def crcFinal (alg c : Nat) : Nat := if alg = 2 then c % 2 ^ 64 else Nat.xor (c % 2 ^ 32) 0xFFFFFFFF

/-- Checksum of a byte string. -/
def crcOf (alg : Nat) (bs : List Byte) : Nat := crcFinal alg (bs.foldl (crcFeed alg) (crcInit alg))

/-- CRC-32C (R278, R373). -/
def crc32c (bs : List Byte) : Nat := crcOf 0 bs

/-- GF(2⁸) doubling on x⁸ + x⁴ + x³ + x² + 1 (R247). -/
def gfDbl (a : Nat) : Nat := if 128 ≤ a then Nat.xor (a * 2) 0x11D else a * 2

/-- GF(2⁸) product, the second factor's bits from the top. -/
def gfMulFrom : Nat → Nat → Nat → Nat → Nat
  | 0, _, _, acc => acc
  | k + 1, a, b, acc => gfMulFrom k a b (if bit b k then Nat.xor (gfDbl acc) a else gfDbl acc)

def gfMul (a b : Nat) : Nat := gfMulFrom 8 a b 0

/-- αⁿ. -/
def gfExp : Nat → Nat
  | 0 => 1
  | n + 1 => gfDbl (gfExp n)

/-- a²⁵⁴, the inverse of a non-zero element. -/
def gfInv (a : Nat) : Nat :=
  let a2 := gfMul a a
  let a4 := gfMul a2 a2
  let a8 := gfMul a4 a4
  let a16 := gfMul a8 a8
  let a32 := gfMul a16 a16
  let a64 := gfMul a32 a32
  let a128 := gfMul a64 a64
  gfMul a2 (gfMul a4 (gfMul a8 (gfMul a16 (gfMul a32 (gfMul a64 a128)))))

/-- The exponent of x that symbol `s` is the coefficient of: ciphertext byte b at 69 − b, check byte j at 5 − j (R247).
Symbols 64–69 are the check bytes. -/
def rsPos (s : Nat) : Nat := 69 - s

/-- Syndrome k of an error pattern: the code is linear, so the syndromes of a line are those of its errors. -/
def rsSyndrome (errs : List (Nat × Byte)) (k : Nat) : Nat :=
  errs.foldl (fun acc e => if e.1 < 70 then Nat.xor acc (gfMul e.2.toNat (gfExp (rsPos e.1 * k % 255))) else acc) 0

/-- The six syndromes (R247). -/
def rsSyndromes (errs : List (Nat × Byte)) : List Nat := (upTo 6).map (rsSyndrome errs)

/-- The check bytes of a data string: the remainder of d(x)·x⁶ by g(x) (R247), by the usual shift register. -/
def rsCheck (data : List Byte) : List Byte :=
  let g := [0x3F, 0x01, 0xDA, 0x20, 0xE3, 0x26]
  let r := data.foldl (fun (r : List Nat) b =>
    let f := Nat.xor b.toNat (nth 0 r 0)
    (List.zipWith (fun gi ri => Nat.xor (gfMul f gi) ri) g (r.drop 1 ++ [0]))) [0, 0, 0, 0, 0, 0]
  r.map (BitVec.ofNat 8)

/-- Does one error at symbol i explain the syndromes; its value is the syndrome of order 0. -/
def rsOne (syn : List Nat) (i : Nat) : Option (List (Nat × Byte)) :=
  let v := nth 0 syn 0
  if v ≠ 0 ∧ rsSyndromes [(i, BitVec.ofNat 8 v)] = syn then some [(i, BitVec.ofNat 8 v)] else none

/-- Do two errors at symbols i < j explain them: solved from the syndromes of orders 0 and 1. -/
def rsTwo (syn : List Nat) (i j : Nat) : Option (List (Nat × Byte)) :=
  let xi := gfExp (rsPos i)
  let xj := gfExp (rsPos j)
  let s0 := nth 0 syn 0
  let s1 := nth 0 syn 1
  let vj := gfMul (Nat.xor s1 (gfMul s0 xi)) (gfInv (Nat.xor xi xj))
  let vi := Nat.xor s0 vj
  let e := [(i, BitVec.ofNat 8 vi), (j, BitVec.ofNat 8 vj)]
  if vi ≠ 0 ∧ vj ≠ 0 ∧ rsSyndromes e = syn then some e else none

/-- The first answer of a list of candidates. -/
def firstSome {α β : Type} (f : α → Option β) : List α → Option β
  | [] => none
  | a :: as => match f a with | some b => some b | none => firstSome f as

/-- The correction of at most two symbols that explains the syndromes, if there is one (R249). -/
def rsLocate (syn : List Nat) : Option (List (Nat × Byte)) :=
  match firstSome (rsOne syn) (upTo 70) with
  | some e => some e
  | none => firstSome (fun i => firstSome (fun j => if i < j then rsTwo syn i j else none) (upTo 70)) (upTo 70)

/-- With two erased symbols i and j (a suspect pin's), a correction of their values and at most one further symbol: the
further symbol is tried at every place and value, what remains is solved on the erasures (R249). -/
def rsErased (syn : List Nat) (i j : Nat) : Option (List (Nat × Byte)) :=
  let solve (extra : List (Nat × Byte)) : Option (List (Nat × Byte)) :=
    let rest := List.zipWith Nat.xor syn (rsSyndromes extra)
    let xi := gfExp (rsPos i)
    let xj := gfExp (rsPos j)
    let vj := gfMul (Nat.xor (nth 0 rest 1) (gfMul (nth 0 rest 0) xi)) (gfInv (Nat.xor xi xj))
    let vi := Nat.xor (nth 0 rest 0) vj
    let e := [(i, BitVec.ofNat 8 vi), (j, BitVec.ofNat 8 vj)]
    if rsSyndromes e = rest then some (extra ++ e) else none
  match solve [] with
  | some e => some e
  | none => firstSome (fun k => if k = i ∨ k = j then none else
      firstSome (fun v => solve [(k, BitVec.ofNat 8 (v + 1))]) (upTo 255)) (upTo 70)

/-- Multiplication by α in GF(2¹²⁸) as IEEE 1619 has it, byte 0 lowest (R261). -/
def gf128Dbl (t : BitVec 128) : BitVec 128 := if t.getLsbD 127 then (t <<< (1 : Nat)) ^^^ 0x87 else t <<< (1 : Nat)

/-- T·αʲ of R261: T is the tweak value encrypted under Key2. -/
def xtsTweak (k2 : BitVec 256) (i : Nat) : Nat → BitVec 128
  | 0 => Config.aesEnc k2 (BitVec.ofNat 128 i)
  | j + 1 => gf128Dbl (xtsTweak k2 i j)

/-- Block j of the data unit with tweak value i, encrypted and decrypted (R261). -/
def xtsEnc (k1 k2 : BitVec 256) (i j : Nat) (b : BitVec 128) : BitVec 128 :=
  Config.aesEnc k1 (b ^^^ xtsTweak k2 i j) ^^^ xtsTweak k2 i j
def xtsDec (k1 k2 : BitVec 256) (i j : Nat) (b : BitVec 128) : BitVec 128 :=
  Config.aesDec k1 (b ^^^ xtsTweak k2 i j) ^^^ xtsTweak k2 i j

/-- Block j of a line's bytes, byte 0 first (R261). -/
def blockOf (bs : List Byte) (j : Nat) : BitVec 128 := BitVec.ofNat 128 (leNat ((bs.drop (16 * j)).take 16))

/-- The mixing function of R156. -/
def mix32 (x : Word) : Word :=
  let x := (x ^^^ (x >>> 16)) * 0x6A1F3C9B
  let x := (x ^^^ (x >>> 15)) * 0xB52E84D7
  x ^^^ (x >>> 16)

def lo32 (x : DWord) : Word := x.setWidth 32
def hi32 (x : DWord) : Word := (x >>> 32).setWidth 32

/-- The 16 random bits of stochastic rounding (R156). -/
def srDraw (seed t : DWord) (stream : Word) (idx : DWord) : Word :=
  let h := mix32 (lo32 seed ^^^ stream)
  let h := mix32 (h ^^^ hi32 seed)
  let h := mix32 (h ^^^ lo32 t)
  let h := mix32 (h ^^^ lo32 idx)
  mix32 (h ^^^ hi32 idx)

/-- Stochastic rounding of a finite FP32 value to BF16; the flag is SAT (R156). -/
def srBf16 (x r : Word) : Half × Bool :=
  let s := x &&& 0x80000000
  let a := (x &&& 0x7FFFFFFF).toNat + (r &&& 0xFFFF).toNat
  if 0x7F800000 ≤ a then (((s ||| 0x7F7F0000) >>> 16).setWidth 16, true)
  else (((s ||| BitVec.ofNat 32 a) >>> 16).setWidth 16, false)

/-- The round function of the shuffle (R374). -/
def permF (seed w : DWord) (j : Nat) (x : Nat) : Nat :=
  let h := mix32 (lo32 seed ^^^ BitVec.ofNat 32 j)
  let h := mix32 (h ^^^ hi32 seed)
  let h := mix32 (h ^^^ lo32 w)
  let h := mix32 (h ^^^ hi32 w)
  (mix32 (h ^^^ BitVec.ofNat 32 x)).toNat

/-- One pass of the four-round Feistel network on 2m bits. -/
def permOnce (seed w : DWord) (m x : Nat) : Nat :=
  let step (lr : Nat × Nat) (j : Nat) : Nat × Nat := (lr.2, Nat.xor lr.1 (permF seed w j lr.2 % 2 ^ m))
  let r := (upTo 4).foldl step (x / 2 ^ m, x % 2 ^ m)
  r.1 * 2 ^ m + r.2

/-- Cycle-walk until the value falls below 2^k; a cycle of the network holds at most 2^k values beyond. -/
def permWalk (seed w : DWord) (m k : Nat) : Nat → Nat → Nat
  | 0, x => x
  | fuel + 1, x =>
    let y := permOnce seed w m x
    if y < 2 ^ k then y else permWalk seed w m k fuel y

/-- perm of R374. -/
def perm (seed w : DWord) (k i : Nat) : Nat :=
  if k = 0 then 0 else permWalk seed w ((k + 1) / 2) k (2 ^ k + 1) i

end Sys2Proof.Machine
end

