-- ==== Sys2Proof/Machine/Float.lean ====
section
/-!
DEFINITION. Number formats and arithmetic (R24, R26–R29, R68–R71, R77, R104): a finite number is a sign, a magnitude
and a power of two, so that products and sums are exact; each operation rounds once, to nearest with ties to even. Every
NaN result is 0x7FC0_0000 (R28, R77).
-/

namespace Sys2Proof.Machine

/-- A number as the arithmetic sees it: `fin neg m e` is ± m · 2^e. -/
inductive FVal where
  | nan
  | inf (neg : Bool)
  | fin (neg : Bool) (m : Nat) (e : Int)
  deriving DecidableEq, Repr

/-- How a format marks what is not finite (R24). -/
inductive FSpecial where
  | ieee | e4m3 | none
  deriving DecidableEq, Repr

/-- Decode a word of a format with `eb` exponent and `mb` mantissa bits and the given bias (R24). -/
def fdecode (eb mb bias : Nat) (sp : FSpecial) (w : Nat) : FVal :=
  let neg := bit w (eb + mb)
  let ex := fld w mb eb
  let man := fld w 0 mb
  let fin := if ex = 0 then FVal.fin neg man (1 - (bias : Int) - mb)
    else FVal.fin neg (man + 2 ^ mb) ((ex : Int) - bias - mb)
  match sp with
  | .ieee => if ex = 2 ^ eb - 1 then (if man = 0 then .inf neg else .nan) else fin
  | .e4m3 => if ex = 2 ^ eb - 1 ∧ man = 2 ^ mb - 1 then .nan else fin
  | .none => fin

/-- Round the positive magnitude m · 2^e to `p` bits with least exponent `emin`: nearest, ties to even. -/
def roundMag (p : Nat) (emin : Int) (m : Nat) (e : Int) : Nat × Int :=
  if m = 0 then (0, emin) else
  let len : Int := (Nat.log2 m : Int) + 1
  let q := max (e + len - p) emin
  if q ≤ e then (m * 2 ^ (e - q).toNat, q)
  else
    let sh := (q - e).toNat
    let h := m / 2 ^ sh
    let lo := m % 2 ^ sh
    let half := 2 ^ (sh - 1)
    (if half < lo ∨ (lo = half ∧ h % 2 = 1) then h + 1 else h, q)

/-- The exponent and mantissa fields of a rounded magnitude, or none when it lies beyond the format's largest exponent. -/
def packMag (eb mb bias : Nat) (h : Nat) (q : Int) : Option Nat :=
  if h = 0 then some 0
  else
    let hq := if 2 ^ (mb + 1) ≤ h then (h / 2, q + 1) else (h, q)
    if hq.1 < 2 ^ mb then some hq.1
    else
      let ex := hq.2 + mb + bias
      if 2 ^ eb ≤ ex then none else some (ex.toNat * 2 ^ mb + (hq.1 - 2 ^ mb))

/-- Round a finite value to FP32 bits; beyond the range it becomes ±∞. -/
def roundF32 (neg : Bool) (m : Nat) (e : Int) : Word :=
  let r := roundMag 24 (-149) m e
  let s := if neg then 2 ^ 31 else 0
  match packMag 8 23 127 r.1 r.2 with
  | some b => BitVec.ofNat 32 (s + Nat.min b 0x7F800000)
  | none => BitVec.ofNat 32 (s + 0x7F800000)

/-- The canonical NaN. -/
def nan32 : Word := 0x7FC00000
/-- ±∞. -/
def inf32 (neg : Bool) : Word := if neg then 0xFF800000 else 0x7F800000

/-- FP32 bits of a value. -/
def toF32 : FVal → Word
  | .nan => nan32
  | .inf n => inf32 n
  | .fin n m e => roundF32 n m e

/-- An FP32 word as a value. -/
def f32 (w : Word) : FVal := fdecode 8 23 127 .ieee w.toNat

def isNan32 (w : Word) : Bool := f32 w == .nan
def isFin32 (w : Word) : Bool := match f32 w with | .fin _ _ _ => true | _ => false
def isInf32 (w : Word) : Bool := match f32 w with | .inf _ => true | _ => false

/-- The integer ±m. -/
def sgn (neg : Bool) (m : Nat) : Int := if neg then - (m : Int) else m

/-- Exact product; ∞ · 0 is NaN (R28). -/
def FVal.mul : FVal → FVal → FVal
  | .nan, _ => .nan
  | _, .nan => .nan
  | .inf a, .inf b => .inf (a != b)
  | .inf a, .fin b m _ => if m = 0 then .nan else .inf (a != b)
  | .fin a m _, .inf b => if m = 0 then .nan else .inf (a != b)
  | .fin a m e, .fin b n f => .fin (a != b) (m * n) (e + f)

/-- Exact sum of two finite values: magnitudes aligned to the smaller exponent. An exact zero is +0 unless both are −0. -/
def finAdd (a : Bool) (m : Nat) (e : Int) (b : Bool) (n : Nat) (f : Int) : FVal :=
  let g := min e f
  let s := sgn a (m * 2 ^ (e - g).toNat) + sgn b (n * 2 ^ (f - g).toNat)
  if s = 0 then .fin (a && b && m == 0 && n == 0) 0 g else .fin (decide (s < 0)) s.natAbs g

/-- Exact sum; ∞ − ∞ is NaN (R28). -/
def FVal.add : FVal → FVal → FVal
  | .nan, _ => .nan
  | _, .nan => .nan
  | .inf a, .inf b => if a = b then .inf a else .nan
  | .inf a, .fin _ _ _ => .inf a
  | .fin _ _ _, .inf b => .inf b
  | .fin a m e, .fin b n f => finAdd a m e b n f

def FVal.neg : FVal → FVal
  | .nan => .nan
  | .inf a => .inf (!a)
  | .fin a m e => .fin (!a) m e

/-- FP32 addition, one rounding. -/
def fadd (a b : Word) : Word := toF32 ((f32 a).add (f32 b))
/-- FP32 subtraction. -/
def fsub (a b : Word) : Word := toF32 ((f32 a).add (f32 b).neg)
/-- FP32 product. -/
def fmul (a b : Word) : Word := toF32 ((f32 a).mul (f32 b))
/-- a · b + c with one rounding. -/
def ffma (a b c : Word) : Word := toF32 (((f32 a).mul (f32 b)).add (f32 c))

/-- Quotient, correctly rounded: 64 quotient bits and a sticky bit carry everything the rounding needs. -/
def fdivV : FVal → FVal → FVal
  | .nan, _ => .nan
  | _, .nan => .nan
  | .inf _, .inf _ => .nan
  | .inf a, .fin b _ _ => .inf (a != b)
  | .fin a _ _, .inf b => .fin (a != b) 0 0
  | .fin a m e, .fin b n f =>
    if n = 0 then (if m = 0 then .nan else .inf (a != b))
    else
      let k := 64 + Nat.log2 n
      let num := m * 2 ^ k
      .fin (a != b) (2 * (num / n) + b2n (num % n != 0)) (e - f - k - 1)

def fdiv (a b : Word) : Word := toF32 (fdivV (f32 a) (f32 b))

/-- Integer square root, one result bit per unit of fuel, from bit `fuel − 1` down. -/
def isqrtFrom : Nat → Nat → Nat → Nat
  | 0, _, r => r
  | k + 1, n, r =>
    let c := r + 2 ^ k
    if c * c ≤ n then isqrtFrom k n c else isqrtFrom k n r

/-- Square root, correctly rounded. √(−0) is −0; below −0 it is NaN (R77). -/
def fsqrtV : FVal → FVal
  | .nan => .nan
  | .inf true => .nan
  | .inf false => .inf false
  | .fin n m e =>
    if m = 0 then .fin n 0 0
    else if n then .nan
    else
      let k : Nat := 80 + (if e % 2 = 0 then 0 else 1)
      let x := m * 2 ^ k
      let r := isqrtFrom (Nat.log2 x / 2 + 1) x 0
      .fin false (2 * r + b2n (r * r != x)) ((e - (k : Int)) / 2 - 1)

def fsqrt (a : Word) : Word := toF32 (fsqrtV (f32 a))

/-- Ordered compare of two values that are not NaN. -/
def fltV : FVal → FVal → Bool
  | .nan, _ => false
  | _, .nan => false
  | .inf true, .inf true => false
  | .inf true, _ => true
  | .inf false, _ => false
  | .fin _ _ _, .inf b => !b
  | .fin a m e, .fin b n f =>
    let g := min e f
    decide (sgn a (m * 2 ^ (e - g).toNat) < sgn b (n * 2 ^ (f - g).toNat))

def flt (a b : Word) : Bool := fltV (f32 a) (f32 b)
/-- Equal as numbers: +0 and −0 are equal, NaN equals nothing. -/
def feq (a b : Word) : Bool := !isNan32 a && !isNan32 b && !flt a b && !flt b a
def fle (a b : Word) : Bool := flt a b || feq a b

/-- Larger of two, +0 above −0, NaN when either is (R75, R77). -/
def fmax (a b : Word) : Word :=
  if isNan32 a || isNan32 b then nan32
  else if flt a b then b else if flt b a then a
  else if a.msb then b else a

/-- Smaller of two, −0 below +0. -/
def fmin (a b : Word) : Word :=
  if isNan32 a || isNan32 b then nan32
  else if flt a b then a else if flt b a then b
  else if a.msb then a else b

/-- The formats of the Vector Engine, the arrays and the Update Unit (R24, R68). -/
inductive Fmt where
  | fp32 | bf16 | fp16 | e4m3 | e5m2 | mxe4m3 | mxe5m2 | mxe2m3 | mxe3m2 | mxe2m1
  | int8 | uint8 | int32 | raw32
  deriving DecidableEq, Repr

/-- A VEC format code (R68); a reserved code reads as FP32. -/
def vecFmt (c : Nat) : Fmt :=
  [Fmt.fp32, .bf16, .fp16, .e4m3, .e5m2, .mxe4m3, .mxe5m2, .mxe2m3, .mxe3m2, .mxe2m1, .int8, .uint8, .int32,
    .raw32].getD c .fp32

def Fmt.isMx : Fmt → Bool
  | .mxe4m3 | .mxe5m2 | .mxe2m3 | .mxe3m2 | .mxe2m1 => true
  | _ => false

/-- Bits of an element. -/
def Fmt.bits : Fmt → Nat
  | .fp32 | .int32 | .raw32 => 32
  | .bf16 | .fp16 => 16
  | .e4m3 | .e5m2 | .mxe4m3 | .mxe5m2 | .int8 | .uint8 => 8
  | .mxe2m3 | .mxe3m2 => 6
  | .mxe2m1 => 4

/-- The number an element stands for, before any scale. -/
def Fmt.decode (f : Fmt) (w : Nat) : FVal :=
  match f with
  | .fp32 | .raw32 => fdecode 8 23 127 .ieee w
  | .bf16 => fdecode 8 7 127 .ieee w
  | .fp16 => fdecode 5 10 15 .ieee w
  | .e4m3 | .mxe4m3 => fdecode 4 3 7 .e4m3 w
  | .e5m2 | .mxe5m2 => fdecode 5 2 15 .ieee w
  | .mxe2m3 => fdecode 2 3 1 .none w
  | .mxe3m2 => fdecode 3 2 3 .none w
  | .mxe2m1 => fdecode 2 1 1 .none w
  | .int8 => let v := sfld w 0 8; .fin (decide (v < 0)) v.natAbs 0
  | .uint8 => .fin false (w % 256) 0
  | .int32 => let v := sfld w 0 32; .fin (decide (v < 0)) v.natAbs 0

/-- Multiply by an E8M0 scale byte: 2^(s − 127), and 0xFF is NaN (R24). -/
def scaleBy (s : Nat) : FVal → FVal
  | .fin n m e => if s = 255 then .nan else .fin n m (e + s - 127)
  | .inf n => if s = 255 then .nan else .inf n
  | .nan => .nan

/-- Multiply by 2^k. -/
def shiftExp (k : Int) : FVal → FVal
  | .fin n m e => .fin n m (e + k)
  | v => v

/-- Round to nearest integer, ties to even, saturating; the flag says that it saturated or was NaN (R70). -/
def toInt (lo hi : Int) : FVal → Int × Bool
  | .nan => (0, true)
  | .inf n => (if n then lo else hi, true)
  | .fin n m e =>
    let mag : Nat :=
      if 0 ≤ e then (if 64 < e ∧ m ≠ 0 then 2 ^ 64 else m * 2 ^ e.toNat)
      else
        let sh := (-e).toNat
        let h := m / 2 ^ sh
        let l := m % 2 ^ sh
        let half := 2 ^ (sh - 1)
        if half < l ∨ (l = half ∧ h % 2 = 1) then h + 1 else h
    let v := sgn n mag
    if v < lo then (lo, true) else if hi < v then (hi, true) else (v, false)

/-- An integer as a two's complement field. -/
def intBits (w : Nat) (v : Int) : Nat := (v % (2 : Int) ^ w).toNat

/-- Convert to a small float that saturates at its largest finite magnitude (code `top`): E4M3, E5M2 and the MX
elements (R70, R71). The flag says that it saturated. -/
def toSmall (eb mb bias top : Nat) (neg : Bool) (m : Nat) (e : Int) : Nat × Bool :=
  let r := roundMag (mb + 1) (1 - (bias : Int) - mb) m e
  let s := if neg then 2 ^ (eb + mb) else 0
  match packMag eb mb bias r.1 r.2 with
  | some b => if top < b then (s + top, true) else (s + b, false)
  | none => (s + top, true)

/-- Output conversion of R70 and of R71's elements; the second component is SAT. -/
def Fmt.encode (f : Fmt) (v : FVal) : Nat × Bool :=
  match f with
  | .fp32 | .raw32 => ((toF32 v).toNat, false)
  | .bf16 =>
    match v with
    | .nan => (0x7FC0, false)
    | .inf n => (if n then 0xFF80 else 0x7F80, false)
    | .fin n m e =>
      let r := roundMag 8 (-133) m e
      let s := if n then 2 ^ 15 else 0
      (s + Nat.min ((packMag 8 7 127 r.1 r.2).getD 0x7F80) 0x7F80, false)
  | .fp16 =>
    match v with
    | .nan => (0x7E00, false)
    | .inf n => (if n then 0xFC00 else 0x7C00, false)
    | .fin n m e =>
      let r := roundMag 11 (-24) m e
      let s := if n then 2 ^ 15 else 0
      (s + Nat.min ((packMag 5 10 15 r.1 r.2).getD 0x7C00) 0x7C00, false)
  | .e4m3 | .mxe4m3 =>
    match v with
    | .nan => (0x7F, false)
    | .inf n => (if n then 0xFE else 0x7E, true)
    | .fin n m e => toSmall 4 3 7 0x7E n m e
  | .e5m2 =>
    match v with
    | .nan => (0x7E, false)
    | .inf n => (if n then 0xFC else 0x7C, false)
    | .fin n m e => toSmall 5 2 15 0x7B n m e
  | .mxe5m2 =>
    match v with
    | .nan => (0x7E, false)
    | .inf n => (if n then 0xFB else 0x7B, true)
    | .fin n m e => toSmall 5 2 15 0x7B n m e
  | .mxe2m3 => match v with | .fin n m e => toSmall 2 3 1 0x1F n m e | .inf n => (if n then 0x3F else 0x1F, true) | .nan => (0, false)
  | .mxe3m2 => match v with | .fin n m e => toSmall 3 2 3 0x1F n m e | .inf n => (if n then 0x3F else 0x1F, true) | .nan => (0, false)
  | .mxe2m1 => match v with | .fin n m e => toSmall 2 1 1 0x7 n m e | .inf n => (if n then 0xF else 0x7, true) | .nan => (0, false)
  | .int8 => let r := toInt (-128) 127 v; (intBits 8 r.1, r.2)
  | .uint8 => let r := toInt 0 255 v; (intBits 8 r.1, r.2)
  | .int32 => let r := toInt (-2147483648) 2147483647 v; (intBits 32 r.1, r.2)

/-- emax of R71. -/
def Fmt.emax : Fmt → Int
  | .mxe4m3 => 8
  | .mxe5m2 => 15
  | .mxe2m3 => 2
  | .mxe3m2 => 4
  | .mxe2m1 => 2
  | _ => 0

/-- ⌊log₂ |v|⌋ of a finite non-zero value. -/
def floorLog2 (m : Nat) (e : Int) : Int := (Nat.log2 m : Int) + e

/-- |a| as bits. -/
def fabs (a : Word) : Word := a &&& 0x7FFFFFFF
/-- −a, a NaN becoming the canonical NaN (R77). -/
def fneg (a : Word) : Word := if isNan32 a then nan32 else a ^^^ 0x80000000

/-- An integer as FP32, correctly rounded. -/
def intToF32 (v : Int) : Word := roundF32 (decide (v < 0)) v.natAbs 0

/-- A natural number as FP32. -/
def natToF32 (v : Nat) : Word := roundF32 false v 0

end Sys2Proof.Machine
end

