-- ==== Sys2Proof/Machine/Approx.lean ====
section
/-!
DEFINITION. The stage functions whose results R75 bounds and does not fix: an enclosure of the exact value between two dyadic
numbers some 2⁻³⁰⁰ apart, and a free word that is taken where it lies within the bound and is else replaced by the correctly
rounded value, so that every word the bound allows, and no other, can be the result (log entry 5).
-/

namespace Sys2Proof.Machine

/-- Fraction bits of the fixed-point numbers here. -/
def fracBits : Nat := 512
/-- 1.0. -/
def fxOne : Int := 2 ^ 512
/-- Product of two fixed-point numbers. -/
def fxMul (a b : Int) : Int := a * b / fxOne
/-- Quotient of two fixed-point numbers. -/
def fxDiv (a b : Int) : Int := a * fxOne / b
/-- Every fixed-point result below is within this of the exact value, in units of the last place: 2⁻³²⁰. -/
def fxErr : Int := 2 ^ 192

/-- An enclosure: the exact value lies between lo · 2^e and hi · 2^e. -/
structure Encl where
  lo : Int
  hi : Int
  e : Int
  deriving DecidableEq, Repr

/-- The enclosure of a fixed-point number times 2^k. -/
def enclOf (v k : Int) : Encl := ⟨v - fxErr, v + fxErr, k - fracBits⟩
/-- An exact value. -/
def Encl.exact (v e : Int) : Encl := ⟨v, v, e⟩
/-- An enclosure times an exact number. -/
def Encl.scale (c ce : Int) (x : Encl) : Encl := ⟨min (c * x.lo) (c * x.hi), max (c * x.lo) (c * x.hi), x.e + ce⟩

/-- A dyadic number as fixed point, rounded down. -/
def fxOf (m e : Int) : Int := if 0 ≤ e + fracBits then m * 2 ^ (e + fracBits).toNat else m / 2 ^ (-(e + fracBits)).toNat

/-- Σ of a series whose term k + 1 is `next` of term k, over n terms of which `term` is the first. -/
def series (next : Nat → Int → Int) (out : Nat → Int → Int) : Nat → Nat → Int → Int
  | 0, _, _ => 0
  | n + 1, k, term => out k term + series next out n (k + 1) (next k term)

/-- atanh z for |z| ≤ 1/3. -/
def fxAtanh (z : Int) : Int :=
  let z2 := fxMul z z
  series (fun _ t => fxMul t z2) (fun k t => t / (2 * k + 1)) 165 0 z

/-- arctan (1 / n). -/
def fxAtanInv (n : Nat) : Int :=
  series (fun _ t => -(t / (n * n))) (fun k t => t / (2 * k + 1)) 115 0 (fxOne / n)

/-- ln 2, and π by Machin's formula. -/
def fxLn2 : Int := 2 * fxAtanh (fxOne / 3)
def fxPi : Int := 16 * fxAtanInv 5 - 4 * fxAtanInv 239

/-- e^r for 0 ≤ r < 0.7. -/
def fxExpSmall (r : Int) : Int := series (fun k t => fxMul t r / (k + 1)) (fun _ t => t) 90 0 fxOne

/-- e^x as fixed point times 2^k, for |x| ≤ 512. -/
def fxExp (x : Int) : Int × Int :=
  let k := x / fxLn2
  (fxExpSmall (x - k * fxLn2), k)

/-- ln of m · 2^e, m > 0. -/
def fxLn (m : Nat) (e : Int) : Int :=
  let n := Nat.log2 m
  let f : Int := (m : Int) * fxOne / 2 ^ n
  2 * fxAtanh (fxDiv (f - fxOne) (f + fxOne)) + (e + n) * fxLn2

/-- sin and cos by their series for 0 ≤ r < 1.6. -/
def fxSinSmall (r : Int) : Int :=
  let r2 := fxMul r r
  series (fun k t => -(fxMul t r2 / ((2 * k + 2) * (2 * k + 3)))) (fun _ t => t) 50 0 r
def fxCosSmall (r : Int) : Int :=
  let r2 := fxMul r r
  series (fun k t => -(fxMul t r2 / ((2 * k + 1) * (2 * k + 2)))) (fun _ t => t) 50 0 fxOne

/-- sin of x plus j quarter turns. -/
def fxSin (x : Int) (j : Int) : Int :=
  let h := fxPi / 2
  let k := x / h
  let r := x - k * h
  match ((k + j) % 4).toNat with
  | 0 => fxSinSmall r
  | 1 => fxCosSmall r
  | 2 => -(fxSinSmall r)
  | _ => -(fxCosSmall r)

/-- √x of a fixed-point number. -/
def fxSqrt (x : Int) : Int :=
  let n := x.toNat * 2 ^ fracBits
  (isqrtFrom (Nat.log2 n / 2 + 1) n 0 : Nat)

/-- erf x for |x| ≤ 11: (2 / √π) · Σ (−x²)^n · x / (n! · (2n + 1)). -/
def fxErf (x : Int) : Int :=
  let x2 := fxMul x x
  fxDiv (2 * series (fun k t => -(fxMul t x2 / (k + 1))) (fun k t => t / (2 * k + 1)) 620 0 x) (fxSqrt fxPi)

/-- The enclosure of the exact value of a stage function (R75) at ± m · 2^e with m > 0; beyond the stated range the value is
bounded by a power of two far outside what FP32 tells apart. -/
def stageEncl (op : Nat) (neg : Bool) (m : Nat) (e : Int) : Encl :=
  let big := decide (9 ≤ e + Nat.log2 m)  -- |x| ≥ 512
  let x := if big then 0 else fxOf (sgn neg m) e
  let tiny : Encl := ⟨0, 1, -400⟩
  let huge : Encl := Encl.exact 1 400
  let exp (x : Int) : Encl := let r := fxExp x; enclOf r.1 r.2
  -- σ of −|x|, and 1 / (1 + e^−|x|)
  let ex := fxExp (-(if x < 0 then -x else x))
  let em := fxOf ex.1 (ex.2 - fracBits)
  let sig := if (x < 0) then fxDiv em (fxOne + em) else fxDiv fxOne (fxOne + em)
  match op with
  | 0x09 => let k := 64 + Nat.log2 m + 1
            let q := 2 ^ (k + 400) / m
            let r := if 2 ^ (k + 400) % m = 0 then 0 else 1
            let s : Int := if neg then -1 else 1
            ⟨min (s * q) (s * (q + r)), max (s * q) (s * (q + r)), -e - (k + 400 : Nat)⟩
  | 0x0A => let b : Nat := if e % 2 = 0 then 0 else 1
            -- 1 / √(m · 2^e) = √(2^(2k) / (m · 2^b)) · 2^((b − e) / 2 − k)
            let mm := m * 2 ^ b
            let k : Nat := 400
            let n := 2 ^ (2 * k) / mm
            let r := isqrtFrom (Nat.log2 n / 2 + 1) n 0
            let up := if r * r * mm = 2 ^ (2 * k) then r else r + 1
            ⟨r, up, ((b : Int) - e) / 2 - k⟩
  | 0x0D => if big then (if neg then tiny else huge) else exp x
  | 0x0E => if big then (if neg then tiny else huge)
            else
              let k := x / fxOne
              let r := x - k * fxOne
              if r = 0 then Encl.exact 1 k else enclOf (fxExpSmall (fxMul r fxLn2)) k
  | 0x0F => if m = 2 ^ Nat.log2 m ∧ e + Nat.log2 m = 0 then Encl.exact 0 0 else enclOf (fxLn m e) 0
  | 0x10 => if m = 2 ^ Nat.log2 m then Encl.exact (e + Nat.log2 m) 0 else enclOf (fxDiv (fxLn m e) fxLn2) 0
  | 0x11 => if big then ⟨if neg then -2 ^ 400 else 2 ^ 400 - 1, if neg then 1 - 2 ^ 400 else 2 ^ 400, -400⟩
            else let t := fxMul em em; let v := fxDiv (fxOne - t) (fxOne + t); enclOf (if neg then -v else v) 0
  | 0x12 => if big then (if neg then tiny else ⟨2 ^ 400 - 1, 2 ^ 400, -400⟩) else enclOf sig 0
  | 0x13 => if big || decide (fxOne * 15 < (if x < 0 then -x else x)) then
              (if neg then ⟨-1, 0, -160⟩ else Encl.scale m e ⟨2 ^ 160 - 1, 2 ^ 160, -160⟩)
            else Encl.scale (sgn neg m) e (enclOf ((fxOne + fxErf (fxDiv x (fxSqrt (2 * fxOne)))) / 2) 0)
  | 0x14 => if big then (if neg then ⟨-1, 0, -400⟩ else Encl.scale m e ⟨2 ^ 400 - 1, 2 ^ 400, -400⟩)
            else Encl.scale (sgn neg m) e (enclOf sig 0)
  | 0x15 => if big || decide (fxOne * 11 < (if x < 0 then -x else x)) then
              ⟨if neg then -2 ^ 160 else 2 ^ 160 - 1, if neg then 1 - 2 ^ 160 else 2 ^ 160, -160⟩
            else enclOf (fxErf x) 0
  | 0x16 => enclOf (fxSin (fxOf (sgn neg m) e) 0) 0
  | _ => enclOf (fxSin (fxOf (sgn neg m) e) 1) 0

/-- The weight of the last place of FP32 at a value: 2^(max(⌊log₂ |v|⌋, −126) − 23), as an exponent. -/
def ulpExp (v e : Int) : Int := if v = 0 then -149 else max (e + Nat.log2 v.natAbs) (-126) - 23

/-- A word as m · 2^e, ±∞ standing for ±2^128. -/
def wordNum (w : Word) : Option (Int × Int) :=
  match f32 w with
  | .nan => none
  | .inf n => some (if n then -1 else 1, 128)
  | .fin n m e => some (sgn n m, e)

/-- Is w within c · 2^u of every value of an enclosure. -/
def nearAll (w : Int × Int) (x : Encl) (c u : Int) : Bool :=
  let g := min (min w.2 x.e) u
  let a := w.1 * 2 ^ (w.2 - g).toNat
  let b := c * 2 ^ (u - g).toNat
  let lo := x.lo * 2 ^ (x.e - g).toNat
  let hi := x.hi * 2 ^ (x.e - g).toNat
  decide (a - lo ≤ b) && decide (lo - a ≤ b) && decide (a - hi ≤ b) && decide (hi - a ≤ b)

/-- R75's bound: ulps of a stage function, none for SIN and COS, whose error is absolute. -/
def stageUlps (op : Nat) : Option Nat :=
  if op = 0x09 ∨ op = 0x0A then some 1 else if op ≤ 0x10 then some 2 else if op ≤ 0x15 then some 3 else none

/-- Does R75 allow a word for an enclosed value. -/
def stageAllows (op : Nat) (x : Encl) (w : Word) : Bool :=
  match wordNum w, stageUlps op with
  | some v, some n => nearAll v x n (min (ulpExp x.lo x.e) (ulpExp x.hi x.e))
  | some v, none => nearAll v x 1 (-22) && isFin32 w
  | none, _ => false

/-- The correctly rounded value, ±0 for one that rounds to 0. -/
def stageRound (x : Encl) : Word :=
  let v := (x.lo + x.hi) / 2
  roundF32 (decide (x.hi ≤ 0 ∧ x.lo < 0)) v.natAbs x.e

/-- A word that is a NaN is the canonical one (R77). -/
def canon (w : Word) : Word := if isNan32 w then nan32 else w

/-- A result that the spec leaves open altogether: any word, NaN only as the canonical one. -/
def stageFree (op : Nat) (x : Word) : Word := canon (Config.vecApprox op x)

/-- A bounded stage function at a finite operand other than 0. -/
def stageBounded (op : Nat) (x : Word) (neg : Bool) (m : Nat) (e : Int) : Word :=
  let v := stageEncl op neg m e
  let w := Config.vecApprox op x
  if stageAllows op v w then w else stageRound v

/-- The functions of R75 with a bound: RCP, RSQRT, EXP to COS. NaN in, NaN out; a value with no meaning is NaN, poles and limits
are exact (R77). At ±0 the odd functions give back their operand. GELU and SILU of −∞, and SIN and COS beyond 2^20, have no
result in the spec (log entry 5). -/
def approx (op : Nat) (x : Word) : Word :=
  match f32 x with
  | .nan => nan32
  | .inf neg =>
    match op with
    | 0x09 => if neg then 0x80000000 else 0
    | 0x0A => if neg then nan32 else 0
    | 0x0D | 0x0E => if neg then 0 else inf32 false
    | 0x0F | 0x10 => if neg then nan32 else inf32 false
    | 0x11 | 0x15 => if neg then 0xBF800000 else 0x3F800000
    | 0x12 => if neg then 0 else 0x3F800000
    | 0x13 | 0x14 => if neg then stageFree op x else inf32 false
    | _ => nan32
  | .fin neg m e =>
    if m = 0 then
      match op with
      | 0x09 | 0x0A => inf32 neg
      | 0x0F | 0x10 => inf32 true
      | 0x11 | 0x13 | 0x14 | 0x15 | 0x16 =>
        -- the exact value is 0, and the bound admits more
        let w := Config.vecApprox op x
        if stageAllows op (Encl.exact 0 0) w then w else x
      | 0x12 =>
        let w := Config.vecApprox op x
        if stageAllows op (Encl.exact 1 (-1)) w then w else 0x3F000000
      | _ =>
        let w := Config.vecApprox op x
        if stageAllows op (Encl.exact 1 0) w then w else 0x3F800000
    else if neg ∧ (op = 0x0A ∨ op = 0x0F ∨ op = 0x10) then nan32
    else if (op = 0x16 ∨ op = 0x17) ∧ 20 ≤ e + Nat.log2 m ∧ ¬ (e + Nat.log2 m = 20 ∧ m = 2 ^ Nat.log2 m) then stageFree op x
    else stageBounded op x neg m e

end Sys2Proof.Machine
end

