-- ==== Sys2Proof/Machine/Tile.lean ====
section
/-!
DEFINITION. The state of a tile and of a partition's instruction stream, as plain data: planes, accumulators, Line
Buffer, Scratchpad, Vector Engine, Update Unit flags, the Sequencer's contexts, the writes on their way to their
destination, unresolved gates and the commit queue.
-/

namespace Sys2Proof.Machine

/-- A weight plane of an array (R21, R36): its format, its cells by 64·row + column, and the MX weight scales by
4·column + group (R37). Reset: +0 in every cell, format 0x0. -/
structure Plane where
  fmt : BitVec 4
  cells : Map Half
  scales : Map Byte
  deriving DecidableEq, Repr

def plane0 : Plane := ⟨0, [], []⟩

/-- The role of a tally slot (R86). -/
inductive TallyRole where
  | free | scan (op : Nat) | compress | expand | record (op : Nat) | lanes (op : Nat)
  deriving DecidableEq, Repr

/-- The state of one lane of a reduction (R82, R84): how many elements, the value, a second word (mean), a third (M2). -/
structure LaneAcc where
  n : Nat
  v : Word
  i : Nat
  mean : Word
  m2 : Word
  cnt : Word
  deriving DecidableEq, Repr

def laneAcc0 : LaneAcc := ⟨0, 0, 0, 0, 0, 0⟩

/-- A tally slot (R86). `run` is a scan's running value, a count or a read position; `pend` the elements COMPRESS has
collected beyond the last full vector; `lanes` the states of an RDIR = 1 reduction, or entry 0 the group being formed. -/
structure Tally where
  role : TallyRole
  run : Word
  count : Nat
  pend : List Word
  words : List Word
  nred : Nat
  vecs : Nat
  lanes : Map LaneAcc
  flags : BitVec 4
  deriving DecidableEq, Repr

def tally0 : Tally := ⟨.free, 0, 0, [], [], 0, 0, [], 0⟩

/-- A tile's Vector Engine: V0–V15 by 128·register + lane (R65), M1–M7 (R67, R94), TS0–TS7 (R86), VEC_STAT (R91). -/
structure TileVec where
  vregs : Map Word
  masks : Map (BitVec 128)
  tally : Map Tally
  stat : BitVec 4
  deriving DecidableEq, Repr

/-- A tile: Scratchpad 8 MiB and Line Buffer 256 KiB by byte, the scale side-store of 4,096 × 4 bytes (R43), poison marks
by line (R253), accumulators by (1024·array + entry)·64 + column (R31), the planes and flags of each array (R53), the
Vector Engine and UPD_STAT (R172). -/
structure Tile where
  scratch : Mem
  lb : Mem
  side : Mem
  spoison : Map Bool
  lpoison : Map Bool
  acc : Map Word
  active : Map Plane
  shadow : Map Plane
  arrStat : Map Word
  vec : TileVec
  updStat : BitVec 4
  deriving DecidableEq, Repr

def tile0 : Tile := ⟨[], [], [], [], [], [], [], [], [], ⟨[], [], [], 0⟩, 0⟩

/-- A LOAD as its plane record keeps it: the slot's fields and the pass base (R131); the device's own loads of staged
planes carry their row stride (R201). -/
structure LoadRec where
  sl : ArrSlot
  base : DWord
  stride : Option Nat
  deriving DecidableEq, Repr

/-- A LOAD on its way (R36): start cycle, cycle of its last line, cycle in which its plane is ready, gate it was issued
under. -/
structure Loading where
  start : Nat
  last : Nat
  ready : Nat
  gid : Nat
  deriving DecidableEq, Repr

/-- The loader of one array (R36, R39): running and waiting LOAD, the last FLIP's cycle and whether the plane that it made
active is of the 16-bit class (log entry 121). -/
structure Loader where
  running : Option Loading
  waiting : Option Loading
  flipAt : Option Nat
  flipWide : Bool
  deriving DecidableEq, Repr

def loader0 : Loader := ⟨none, none, none, false⟩

/-- Which memory of a tile a write goes to. -/
inductive TMem where
  | scratch | lb | side
  deriving DecidableEq, Repr

/-- A write on its way. Ranks are the precedence of R112: 0 MOV1, 1 MOV0, 2 an arrival, 3 a host-link write, 4 an SST,
5 an ACC_STORE, 6 the Vector Engine, 7 the Update Unit. -/
inductive Write where
  | sreg (ctxB : Bool) (d : SReg) (v : DWord)
  | reg (ctxB : Bool) (addr : Half) (v : DWord)
  | mem (k : TMem) (t : TileId) (byte : Nat) (bs : List (Bool × Byte)) (rank : Nat)
  | mover (k : TMem) (ts : List TileId) (byte : Nat) (bs : List Byte) (pois : Bool) (tok : BitVec 4) (m : BitVec 1)
  | accAdd (t : TileId) (a : ArrId) (e c : Nat) (ow int : Bool) (gf : Word) (gs : List Word)
  | accStore (t : TileId) (a : ArrId) (e line : Nat)
  | accSet (t : TileId) (a : ArrId) (e : Nat) (ws : List Word)
  | loadStart (a : ArrId) (ctxB : Bool) (l : LoadRec)
  | planeLine (a : ArrId) (l : LoadRec) (r : Nat) (staged : Bool)
  | planeScales (a : ArrId) (l : LoadRec)
  | vreg (t : TileId) (r : Nat) (ws : List Word)
  | mask (t : TileId) (m : Nat) (v : BitVec 128)
  | vflags (t : TileId) (f : BitVec 4)
  | uflags (t : TileId) (f : BitVec 4) (kept : Nat)
  deriving DecidableEq, Repr

/-- A write with the cycle from which it is visible and the gate it was issued under (0 for none). -/
structure Landing where
  at_ : Nat
  gid : Nat
  w : Write
  deriving DecidableEq, Repr

/-- Bytes that one write of the current cycle enables from byte `lo` on, for the collisions of R112: a lane that a write leaves
alone is no byte of it (R72, R146). -/
structure Hot where
  k : TMem
  t : TileId
  lo : Nat
  mask : List Bool
  rank : Nat
  deriving DecidableEq, Repr

/-- A flag held until its gate resolves (R59, R95, R171): ARR flags of (tile, array), VEC, UPD with its kept count. -/
inductive HeldFlag where
  | arr (t : TileId) (a : ArrId) (f : Word)
  | vec (t : TileId) (f : BitVec 4)
  | upd (t : TileId) (f : BitVec 4) (kept : Nat)
  deriving DecidableEq, Repr

/-- A row of a batch (R196): its request context and the Filling it names, if any. -/
structure RowRef where
  ctx : Half
  fidx : Option FillId
  deriving DecidableEq, Repr

/-- A sub-batch (R197, R198). -/
structure Group where
  fidx : FillId
  gen : Half
  first : Nat
  count : Nat
  deriving DecidableEq, Repr

/-- A closed batch (R196–R199): its number among the closes, groups, rows without a Filling, the permutation, layers, order
table written. A batch without groups counts one naming, the gate that closed it. -/
structure Batch where
  serial : Nat
  groups : List Group
  nf : Nat
  perm : List Nat
  layers : Nat
  written : Bool
  deriving DecidableEq, Repr

/-- A lease of an array's loader (R204): for which unit, and when the staged plane is ready once its load is made. -/
structure Lease where
  unit : Nat
  ready : Option Nat
  deriving DecidableEq, Repr

/-- Sub-batches and staging of a partition (R196–R208): the staging record, rows delivered since the last close, the
closed batch and how many were closed, units named, copied and released, the copy that runs, leases, flips counted since the
last naming, and by array one more than the last unit whose lease has ended (R204). -/
structure FillPart where
  srec : List Byte
  rows : List RowRef
  batch : Option Batch
  closes : Nat
  named : Nat
  copied : Nat
  copying : Option Nat
  released : Nat
  leases : Map (Option Lease)
  flips : Map Nat
  ended : Map Nat
  deriving DecidableEq, Repr

def fillPart0 : FillPart := ⟨[], [], none, 0, 0, 0, none, 0, [], [], []⟩

/-- The snapshot of R126. The positions of the host queues' heads are restored by taking back the deliveries made since
(`Delivery.gid`); with them go the batch, its namings and its leases. `bare` are the planes that have no record to restore
them from, as they stand, by tile, array and whether active (log entry 31). -/
structure Snap where
  sregs : Map DWord
  stack : List Nat
  cvuVal : DWord
  recA : Map LoadRec
  recS : Map LoadRec
  bare : List (TileId × ArrId × Bool × Plane)
  fill : FillPart
  deriving DecidableEq, Repr

/-- A saved 256-byte segment (R127): its bytes and the poison marks of its lines. -/
structure Seg where
  bytes : List Byte
  pois : List Bool
  deriving DecidableEq, Repr

/-- An unresolved gate (R126–R133). -/
structure Gate where
  id : Nat
  cls : BitVec 4
  sel : Byte
  gdst : SReg
  pred : DWord
  pc : Nat
  snap : Snap
  undo : Map (Option Seg)
  loaded : Bool
  flipped : Bool
  wide : Bool
  flags : List HeldFlag
  flips : Map Nat
  outcome : Option DWord
  bundles : Nat
  segs : Nat
  entries : Nat
  deriving DecidableEq, Repr

/-- An externally visible action held in the commit queue (R127, R130). -/
inductive CqAct where
  | memWrite (lines : List (Nat × List Byte × Bool)) (tok : Byte) (req : Nat)
  | xch (sl : XchSlot) (data : List (List Byte)) (pois : Bool)
  | complete (slot : Half)
  | cvuMismatch (halt : Bool)
  | fault (code : Half) (arg : DWord)
  | swap (k : BitVec 3) (stepEnd : Bool) (ctl : List Byte)
  deriving DecidableEq, Repr

structure CqEntry where
  gid : Nat
  size : Nat
  act : CqAct
  deriving DecidableEq, Repr

/-- A bundle that waits: at a gate (R123), for a shadow plane (R40) or for a loader (R36). -/
structure Stall where
  pc : Nat
  since : Nat
  cls : BitVec 4
  sel : Byte
  deriving DecidableEq, Repr

/-- An undo in progress (R132): the gate to issue again, its outcome, and the cycle of re-issue. -/
structure Undo where
  pc : Nat
  gdst : SReg
  outcome : DWord
  until_ : Nat
  deriving DecidableEq, Repr

/-- A context switch in progress (R136, R137). -/
structure Switch where
  toB : Bool
  until_ : Nat
  deriving DecidableEq, Repr

/-- A work item as its unit keeps it (R325, R355, R358): partition, queue, NOTIFY, CID, type code, how often the queue had
been enabled, the partition's generation. -/
structure Work where
  p : Nat
  q : Nat
  notify : Bool
  cid : Word
  typ : Nat
  ep : Nat
  gen : Half
  deriving DecidableEq, Repr

/-- A program context (R135): its program's bundle range, header (R365) and digest, how many bundles it has issued, what
PROGRAM_RUN it must complete, and the gate bundle whose gate has resolved when the context was left before it issued, as
(GDST, outcome) (R137, log entry 123). -/
structure Ctx where
  loaded : Bool
  pc : Nat
  lo : Nat
  hi : Nat
  idx : Nat
  sregs : Map DWord
  stack : List Nat
  ptpol : BitVec 3
  ractl : BitVec 15
  recA : Map LoadRec
  recS : Map LoadRec
  head : Option Work
  target : Option (FillId × Half)
  hdr : List Byte
  digest : List Byte
  nissued : Nat
  again : Option (SReg × DWord)
  deriving DecidableEq, Repr

/-- SEQ_RACTL's reset: EN 1, LIMIT 8,192 (R142). -/
def ctx0 : Ctx := ⟨false, 0, 0, 0, 0, [], [], 0, 0x4001, [], [], none, none, [], [], 0, none⟩

/-- A MEM request that counts toward its token (R117). -/
structure MemReq where
  id : Nat
  tok : Byte
  left : Nat
  gid : Nat
  deriving DecidableEq, Repr

/-- A token (R117): requests outstanding; the gates under which lines have carried POISON since it last resolved (0 for none);
what a request that started it afresh under run-ahead cleared, newest first, as (gate, the gates before). -/
structure Tok where
  cnt : Nat
  pois : List Nat
  cleared : List (Nat × List Nat)
  deriving DecidableEq, Repr

def tok0 : Tok := ⟨0, [], []⟩

/-- A CRUMB request of one tile still issuing its indices (R116). -/
structure CrumbIssue where
  req : Nat
  t : TileId
  idxLine : Nat
  next : Nat
  len : Nat
  adb : Nat
  dkind : TMem
  dst : Nat
  bcast : Bool
  gid : Nat
  deriving DecidableEq, Repr

/-- A line transfer waiting in a Memory Controller or at a base die, or its data on the way to the tiles. `id` is its number among
all, in the order of issue; `cls` is the class 0–3; `crumb` says that it takes the Crumb path, `miss` that its engine has found it
in no cache and it waits for a slot of its pseudo-channel (R225, R230); `write` holds the data of a write; `dests` the tiles and
lines a read lands in. -/
structure LineReq where
  id : Nat
  req : Nat
  cls : Nat
  dev : Nat
  crumb : Bool
  miss : Bool
  write : Option (List Byte × Bool)
  kind : TMem
  dests : List (TileId × Nat)
  gid : Nat
  arrived : Option (List Byte × Bool)
  pline : Nat
  deriving DecidableEq, Repr

/-- One direction of a mesh link, or a tile's own port of its router (R111): lines of class M0 by FCLK cycle, the class that each
eighth cycle went to, by cycle as one more than its number, and whether M2 was the last lower class to be given one while M0
waited. Counted in FCLK cycles of the partition whose tiles it joins. -/
structure MeshLink where
  used : Map Nat
  eighth : Map Nat
  m2Last : Bool
  deriving DecidableEq, Repr

def meshLink0 : MeshLink := ⟨[], [], false⟩

/-- A partition's instruction stream (R96–R143). `links` are the mesh links between its tiles, by 4·tile +
direction. `hotLines` are the lines whose collision has been counted in this cycle, with the rank it was counted under. `movAt` is the cycle in which the last line of a Mover token landed, `came` that in which another
event arrived, by 256·class + selector (R123). From cycle `quietAt` on no bundle has issued for 16 cycles (R418). -/
structure Seq where
  cyc : Nat
  nextGate : Nat
  ctxB : Bool
  lastPc : Nat
  inflight : List Landing
  hot : List Hot
  hotCyc : Nat
  hotLines : List (TMem × TileId × Nat × Nat)
  gates : List Gate
  stall : Option Stall
  heldFlip : Option Nat
  heldLoad : Option Nat
  undo : Option Undo
  switch : Option Switch
  preempt : Bool
  loaders : Map Loader
  commitQ : List CqEntry
  commits : Word
  mispredicts : Word
  undoCyc : BitVec 48
  memTok : Map Tok
  movTok : Map Nat
  movAt : Map Nat
  came : Map Nat
  links : Map MeshLink
  reqs : List MemReq
  crumbs : List CrumbIssue
  lines : List LineReq
  nextReq : Nat
  quietAt : Nat
  deriving DecidableEq, Repr

def seq0 : Seq :=
  ⟨0, 1, false, 0, [], [], 0, [], [], none, none, none, none, none, false, [], [], 0, 0, 0, [], [], [], [], [], [], [], [], 1, 0⟩

/-- A Check-Value Unit (R407–R410): ALG, HALT, VAL, EXP, CVU_STAT, the queued feeds. -/
structure Cvu where
  alg : BitVec 2
  halt : Bool
  val : DWord
  exp : DWord
  stat : BitVec 2
  queue : List (List Byte)
  deriving DecidableEq, Repr

def cvu0 : Cvu := ⟨0, false, 0, 0, 0, []⟩

end Sys2Proof.Machine
end

