-- ==== Sys2Proof/Machine/Device.lean ====
section
/-!
DEFINITION. The state of the partitions and of the device's other units, as plain data: one structure for each unit
of the chapters, in the chapters' names.
-/

namespace Sys2Proof.Machine

/-- A report of a unit to the event log (R434, R435). -/
structure Report where
  cls : Nat
  src : Nat
  code : Half
  part : Byte
  arg : DWord
  tick : DWord
  deriving DecidableEq, Repr

/-- A record of the event log (R434). -/
structure EvRec where
  tick : BitVec 48
  cls : Nat
  reserve : Bool
  src : Nat
  code : Half
  count : Nat
  part : Byte
  seq : Half
  last : BitVec 48
  arg : DWord
  deriving DecidableEq, Repr

/-- The event log (R434–R438): records by entry, WR, RD, SEQ and FUSED (R464), the most recent entry of each class,
EVT_PAGE, each unit's report buffer by source code, whose turn it is, EVT_OVF by class as (LOST, FIRST). -/
structure EvLog where
  recs : Map (Option EvRec)
  wr : BitVec 11
  rd : BitVec 11
  seq : Half
  fused : Nat
  recent : Map (Option Nat)
  bufs : Map (List Report)
  turn : Nat
  ovf : Map (Nat × Nat)
  deriving DecidableEq, Repr

def evLog0 : EvLog := ⟨[], 0, 0, 0, 0, [], [], 0, []⟩

/-- The stored metadata of a line (R250), as its 16-bit value, and for each of its four cipher blocks (R261) the identity of the
key under which it stands encrypted: its cell bytes are then the plaintext. 0: the cell bytes are the ciphertext itself. -/
structure LineMeta where
  md : Half
  keys : List Nat
  deriving DecidableEq, Repr

/-- A line as the decoder leaves it (R246): 64 bytes, the keys of its blocks as in `LineMeta`, its metadata. -/
structure Line where
  bytes : List Byte
  keys : List Nat
  md : Half
  deriving DecidableEq, Repr

/-- The two AES-256 keys of a key slot (R261). -/
structure KeyPair where
  k1 : BitVec 256
  k2 : BitVec 256
  deriving DecidableEq, Repr

/-- A line in a Crumb engine's cache (R230): way, device address, decoded ciphertext and metadata. -/
structure CacheLine where
  way : Nat
  dev : Nat
  line : Line
  deriving DecidableEq, Repr

/-- A slab table entry (R239). -/
structure Slab where
  valid : Bool
  shared : Bool
  cv : Bool
  avail : Bool
  owner : BitVec 5
  pslot : BitVec 11
  kslot : BitVec 3
  grant : Word
  deriving DecidableEq, Repr

def slab0 : Slab := ⟨false, false, false, true, 0, 0, 0, 0⟩

/-- HBM_THERM_s (R242) and the level that waits to be applied (R234). -/
structure Therm where
  temp : Byte
  level : BitVec 2
  peak : Byte
  warnCnt : Half
  hotCnt : Half
  next : Option (BitVec 2)
  deriving DecidableEq, Repr

def therm0 : Therm := ⟨0, 0, 0, 0, 0, none⟩

/-- Why a channel is held (R237): a periodic retrain, or a lane repair of one pseudo-channel. -/
inductive Hold where
  | retrain | repair (pc : Nat)
  deriving DecidableEq, Repr

/-- A channel: HBM_CHSTAT_c (R243), HBM_ECC_c (R269), HBM_PIN_c (R270), its hold and the AON tick of the last one, and whether
the requests that gathered during a hold still drain, 128 of them at the channel and the rest at their tiles (R237). -/
structure Chan where
  retrains : Half
  repairs : Half
  maxHold : BitVec 12
  lost : Bool
  hold : Option Hold
  lastHold : Option Nat
  corr1 : Nat
  corr2 : Nat
  uncorr : Nat
  badMeta : Nat
  susp : List Nat
  spares : List Nat
  backlog : Bool
  deriving DecidableEq, Repr

/-- SUSP0, SUSP1 and SPA0, SPB0, SPA1, SPB1 reset to 0x3F, none (R270). -/
def chan0 : Chan := ⟨0, 0, 0, false, none, none, 0, 0, 0, 0, [0x3F, 0x3F], [0x3F, 0x3F, 0x3F, 0x3F], false⟩

/-- A pseudo-channel's arbiter (R226): consecutive C0 slots, lines left of a formed write batch, accepted writes waiting in
its 64-line write queue, slots served in the share window by 32·class + partition (R227), slots of a Hot stack that other
classes took in a row while a write waited (R234), by class one more than the partition without weight served last (R227), and
slots that other classes took since class C3 was last served or last had nothing pending (R226). -/
structure PcArb where
  c0run : Nat
  batch : Nat
  wq : List Nat
  served : Map Nat
  hot : Nat
  rr : Map Nat
  c3gap : Nat
  deriving DecidableEq, Repr

def pcArb0 : PcArb := ⟨0, 0, [], [], 0, [], 0⟩

/-- A write-back in class C3 (R255): the device address, the line as corrected or as read, and whether it stores POISON. -/
structure WriteBack where
  dev : Nat
  line : Line
  pois : Bool
  deriving DecidableEq, Repr

/-- A sweep (R265): the slab and line it stands at, the slabs it has finished, and the lines that wait for their stack's
class C3 (R266). -/
structure Sweep where
  slab : Nat
  line : Nat
  doneSlabs : Nat
  waits : List Nat
  deriving DecidableEq, Repr

/-- A key slot (R262): identities of the loaded epochs (`none`: empty), current epoch, the load on its way, whether the
epoch flip is due, the sweep, KEY_ROTATEs that run and that wait (R267), command counters of the SHARED_ROTATEs that wait for an answer, completed
rotations. -/
structure KeyReg where
  cur : Bool
  k0 : Option Nat
  k1 : Option Nat
  loading : Option (Bool × Nat)
  flipDue : Bool
  sweep : Option Sweep
  running : Bool
  heads : List Work
  waiting : Bool
  waitHeads : List Work
  mgmt : List DWord
  waitMgmt : List DWord
  rots : Half
  deriving DecidableEq, Repr

def keyReg0 : KeyReg := ⟨false, none, none, none, false, none, false, [], false, [], [], [], 0⟩

/-- A row repair store (R258, R271): entries used, reapplied at start-up, rows marked while full, rows marked and waiting,
the row being copied, rows served from an entry, and the rows that were marked while the store was full. -/
structure RowRep where
  used : Nat
  start : Nat
  overs : Nat
  marked : List Nat
  copying : Option Nat
  rows : List Nat
  full : List Nat
  deriving DecidableEq, Repr

def rowRep0 : RowRep := ⟨0, 0, 0, [], none, [], []⟩

/-- An entry of the repair record (R259, R385). -/
inductive RepairEnt where
  | lane (c pc spare pin : Nat) | row (row : Nat) | lost (c : Nat) | overRow (row : Nat)
  deriving DecidableEq, Repr

/-- A slab under a Glaze (R333, R334): the partition and slab index it will join (`none`: the free pool or a Crust region),
the next line that step 2 writes, lines that wait for their stack's class C3 (R336), and the partition whose DISSOLVE it
belongs to (R339). -/
structure GlazeJob where
  dest : Option (PartId × BitVec 11)
  next : Nat
  waits : List Nat
  diss : Option Nat
  deriving DecidableEq, Repr

/-- A granule in step 3 of a Glaze (R334, R337): the partition it left, the partition it will join, if any, and whether it
has been cleared and waits for that partition's gate. -/
structure GlazeGran where
  src : Nat
  dest : Option PartId
  cleared : Bool
  deriving DecidableEq, Repr

/-- The HBM system (R213–R274): bytes by device address and line metadata (see `LineMeta`), the symbols of a line that stand in
error (R249), slab table, shares, refresh mode, map-out, stacks, channels, arbiters, the Crumb engines' 256-entry queues as
(partition, line request), oldest first, ways, counts and caches by 8,192·stack + set, most recently used first (R230), pins and
rows, write-backs, scrub, key slots (partition p at p, shared slot k at 32 + k, the glaze slot at 40), the number of the next key
and of the next line request, and the keys that came with a Crust package. -/
structure Hbm where
  cells : Mem
  lines : Map (Option LineMeta)
  flaws : Map (List SymErr)
  slabs : Map Slab
  weights : Map Byte
  refAll : Bool
  mapout : Option ChanId
  therm : Map Therm
  chans : Map Chan
  arbs : Map PcArb
  crumbQ : Map (List (PartId × Nat))
  ways : Map Half
  crbHits : Map Word
  crbMisses : Map Word
  cache : Map (List CacheLine)
  pinWin : Map (List (Nat × Nat))
  rowRep : Map RowRep
  wbq : List WriteBack
  scrubPeriod : Byte
  scrubPasses : Word
  scrubSlab : Nat
  scrubLine : Nat
  scrubWaits : List Nat
  scrubCorr : Map (List Nat)
  keys : Map KeyReg
  nextKey : Nat
  nextLine : Nat
  crustKeys : Map (Option KeyPair)
  deriving DecidableEq, Repr

def hbm0 : Hbm :=
  ⟨[], [], [], [], [], false, none, [], [], [], [], [], [], [], [], [], [], [], 24, 0, 0, 0, [], [], [], 1, 1, []⟩

/-- A TOKEN_STEP delivered to the program and not yet completed (R367, R368): its entry, the number of the delivery, the
gate it was delivered under, whether it took its context's pin, and whether its completion store has been released. -/
structure Delivery where
  head : Work
  body : StepBody
  n : Nat
  gid : Nat
  took : Bool
  stored : Bool
  deriving DecidableEq, Repr

/-- Why a unit reads host memory or a storage endpoint: a queue entry, a program image, a step's input, a DATA_MOVE, a
Filling package, an SIU feed, a Crust package, a checkpoint's trailer, a restore; `gone` when its work has ended before the
answer. -/
inductive Req where
  | entry (p q ep : Nat) (gen : Half)
  | run (p : Nat) (ctxB : Bool)
  | input (p q : Nat)
  | move (p : Nat)
  | stage (fidx : Nat)
  | feed (p : Nat)
  | crust (v : Nat)
  | trailer (p : Nat)
  | restore (p : Nat)
  | gone
  deriving DecidableEq, Repr

/-- An entry that has been fetched and not started (R357): how often its pair had been enabled, the tag of its MRD, its
bytes once they have come. -/
structure Fetch where
  ep : Nat
  tag : Nat
  bytes : List Byte
  deriving DecidableEq, Repr

/-- A queue pair (R355–R357): its registers, the host's last SQ tail and CQ head, whether a notification is outstanding, the
NOTIFY bits of completions the host has not consumed, entries fetched and not completed, how often it was enabled, and
the entries fetched that no unit has started. -/
structure Queue where
  sqbase : DWord
  cqbase : DWord
  sqs : Nat
  cqs : Nat
  en : Bool
  ien : Bool
  err : Bool
  sqhead : Half
  cqtail : Half
  phase : Bool
  tail : Half
  chead : Half
  ntfOut : Bool
  flags : List Bool
  opened : Nat
  ep : Nat
  fetched : List Fetch
  deriving DecidableEq, Repr

/-- SQS and CQS reset to 1, PHASE to 1 (R355). -/
def queue0 : Queue := ⟨0, 0, 1, 1, false, false, false, 0, 0, true, 0, 0, false, [], 0, 0, []⟩

/-- A TOKEN_STEP that has not been delivered, with clamped values (R367): whether it has reached its SQ's head, so that its
context has been bound, whether it has been prepared, for which delivery number, the input bytes received so far and
whether they have been asked for. -/
structure Step where
  work : Work
  body : StepBody
  begun : Bool
  prepared : Bool
  n : Nat
  input : List Byte
  asked : Bool
  deriving DecidableEq, Repr

/-- A PROGRAM_RUN on its way (R366): header and bundle bytes received so far; `ok` once its digest matched. -/
structure RunJob where
  work : Work
  body : RunBody
  got : List Byte
  pois : Bool
  ok : Bool
  deriving DecidableEq, Repr

/-- A DATA_MOVE on its way (R368): clamped first line and count, lines moved, whether anything read was poisoned. -/
structure MoveJob where
  work : Work
  toHost : Bool
  haddr : Nat
  line : Nat
  n : Nat
  done : Nat
  pois : Bool
  deriving DecidableEq, Repr

/-- A reset being carried out (R328–R332): PART_RESET entries and management counters that it answers, entries that lost
their completion, and whether the mirror's drain is over. -/
structure Reset where
  works : List Work
  mgmt : List DWord
  lost : Nat
  mirror : Bool
  deriving DecidableEq, Repr

/-- A kept record of a window (R373, R374): kept-record index, first line in its buffer half and lines there, payload bytes. -/
structure SiuRec where
  idx : Nat
  line : Nat
  room : Nat
  len : Nat
  deriving DecidableEq, Repr

/-- A window (R374): its number, whether it is closed, its records, bytes used of its half, stream offset of the frame that
holds its first record and the kept records of that frame before it (R376). -/
structure SiuWin where
  w : Nat
  closed : Bool
  recs : List SiuRec
  used : Nat
  foff : Nat
  skip : Nat
  deriving DecidableEq, Repr

/-- What an SIU feed does (R370, R371). -/
inductive SiuOp where
  | data
  | epoch (seed : DWord) (k : Nat)
  | dict (slot : Bool) (id : Word)
  | finish
  | resume (foff skip : Nat)
  deriving DecidableEq, Repr

/-- A frame's records that wait for a free buffer half (R374): decompressed bytes still to be taken, kept records of the frame
before them, whether the frame decoded to its end, its stream offset. -/
structure SiuRest where
  bs : List Byte
  before : Nat
  whole : Bool
  foff : Nat
  deriving DecidableEq, Repr

/-- An SIU feed that waits or runs: source, whether it runs, source bytes asked for or read so far, source bytes its frames have not
used, whether something read was poisoned (R350), bytes that have come and are not used, the rest of a frame. -/
structure SiuFeed where
  work : Work
  op : SiuOp
  src : Nat
  port : Nat
  addr : Nat
  len : Nat
  begun : Bool
  got : Nat
  left : Nat
  pois : Bool
  buf : List Byte
  rest : Option SiuRest
  deriving DecidableEq, Repr

/-- An SIU stream (R370–R377): SIU_CFG; whether an EPOCH has taken effect; SEED, K and the installed ring; counters; the
restart position; dictionaries by slot as (DICTID, bytes); windows, oldest first; producer and consumer counts; whether a
record waits for the ring; feeds in order; END feeds that wait for the last window; the stream offset; records of the
first frame still to pass over. -/
structure Siu where
  cfg : List Nat
  live : Bool
  seed : DWord
  k : Nat
  wbase : Nat
  whalf : Nat
  obase : Nat
  oring : Nat
  kept : Nat
  badcrc : Nat
  frames : Nat
  csum : Nat
  long : Nat
  rposW : Nat
  nexti : Nat
  foff : Nat
  skip : Nat
  dicts : Map (Option (Word × List Byte))
  wins : List SiuWin
  prod : Nat
  cons : Nat
  waits : Bool
  feeds : List SiuFeed
  ends : List Work
  off : Nat
  passing : Nat
  deriving DecidableEq, Repr

def siu0 : Siu := ⟨[0, 0, 0, 0], false, 0, 0, 0, 0, 0, 0, 0, 0, 0, 0, 0, 0, 0, 0, 0, [], [], 0, 0, false, [], [], 0, 0⟩

/-- Bytes of a checkpoint section: captured, or partition lines read when they drain; `pair` names the state buffer pair
whose current buffer they are. -/
inductive CkSrc where
  | bytes (b : List Byte)
  | lines (first count : Nat) (pair : Option Nat)
  deriving DecidableEq, Repr

/-- A checkpoint in progress (R443–R447): boundary number, training target as (GEN, index) and program digest at the
capture, sections by kind, the capture area's line and the plan's Scratchpad ranges until the capture lines have been
accepted, next unit, units acknowledged durable, bytes sent so far (the trailer's digest is over them), lines that were
read ahead because a write waited (R162), the work it completes, the tick of its boundary. -/
structure CkJob where
  bound : Nat
  target : Option (FillId × Half)
  digest : List Byte
  secs : List (Nat × List CkSrc)
  cap : Nat
  sps : List (Nat × Nat)
  captured : Bool
  next : Nat
  acked : Nat
  sent : List Byte
  extra : Map (Option (List Byte × Bool))
  works : List Work
  tick : Nat
  deriving DecidableEq, Repr

/-- A restore in progress (R451): the store slot being read and its bytes so far. -/
structure Restore where
  slot : Nat
  got : List Byte
  deriving DecidableEq, Repr

/-- A partition's checkpoint registers and job (R441, R442, R466): CKP_CFG_p_0–3, LASTB, DEFER, FAILS, boundary number,
pending CHECKPOINT_NOWs, whether τ has run out, tick of the last start, durations of the last completed checkpoints,
checkpoints completed (the sequence number of the next), checkpoints in progress, and a restore in progress. -/
structure Ckp where
  cfg : List DWord
  lastB : DWord
  tau : Nat
  cms : Nat
  defer : Nat
  fails : Nat
  bound : Nat
  nows : List Work
  due : Bool
  since : Nat
  durs : List Nat
  cseq : Nat
  jobs : List CkJob
  restore : Option Restore
  deriving DecidableEq, Repr

def ckp0 : Ckp := ⟨[0, 0, 0, 0], 0, 0, 0, 0, 0, 0, [], false, 0, [], 0, [], none⟩

/-- A resize under way (R321): the granules the partition will own, and the action's granule set that it glazes. -/
structure Resize where
  grans : Word
  quiet : Bool
  deriving DecidableEq, Repr

/-- A partition (R317, R341–R343). `clampLow` is the model's own: within one issue cycle of the stream, the lowest source
code of its clamps so far (R343). -/
structure Part where
  granules : Word
  pstate : BitVec 4
  gen : Half
  resizes : Half
  resets : Half
  resizesRst : Half
  clampCount : Word
  clampSrc : BitVec 4
  clampLow : Option (BitVec 4)
  ctxF : Ctx
  ctxB : Ctx
  seq : Seq
  regs : Map DWord
  fresh : Map Bool
  cvu : Cvu
  fill : FillPart
  dlvLine : Nat
  dlvCount : Nat
  dlv : Map (Option Delivery)
  dlvNext : Nat
  queues : Map Queue
  ftpage : BitVec 4
  ctxpage : BitVec 7
  frozen : Bool
  bells : List (Bool × QueueId × Half)
  steps : Map (List Step)
  runs : List RunJob
  moves : List MoveJob
  reset : Option Reset
  resize : Option Resize
  wake : Half
  siu : Siu
  ckp : Ckp
  deriving DecidableEq, Repr

/-- PWR_WAKE_p resets to VALUE 20 (R421). -/
def part0 : Part :=
  { granules := 0, pstate := 0, gen := 0, resizes := 0, resets := 0, resizesRst := 0, clampCount := 0, clampSrc := 0, clampLow := none,
    ctxF := ctx0, ctxB := ctx0, seq := seq0, regs := [], fresh := [], cvu := cvu0, fill := fillPart0, dlvLine := 0,
    dlvCount := 0, dlv := [], dlvNext := 0, queues := [], ftpage := 0,
    ctxpage := 0, frozen := false, bells := [], steps := [], runs := [], moves := [], reset := none, resize := none,
    wake := 20, siu := siu0, ckp := ckp0 }

/-- A Filling Table descriptor (R182); its OWNER is the partition whose range holds it. -/
structure Desc where
  state : BitVec 3
  cv : Bool
  evreq : Bool
  gen : Half
  pins : Nat
  wloc : Nat
  wlen : Nat
  oloc : Nat
  olen : Nat
  layers : Nat
  experts : Nat
  dmodel : Nat
  dff : Nat
  mats : Nat
  wfmt : Nat
  pltiles : Nat
  slice : Nat
  magic : Word
  version : Word
  digest : List Byte
  deriving DecidableEq, Repr

def desc0 : Desc := ⟨0, false, false, 0, 0, 0, 0, 0, 0, 0, 0, 0, 0, 0, 0, 0, 0, 0, 0, []⟩

/-- A FILLING_STAGE that waits or runs (R184, R189): its body, the header once read, and the image received so far. -/
structure StageJob where
  work : Work
  body : StageBody
  begun : Bool
  hdr : Option (List Byte)
  img : List Byte
  bad : Bool
  acks : Bool
  deriving DecidableEq, Repr

/-- Crust version state (R178) and the digest of a Present or Retiring one. -/
structure Crust where
  state : BitVec 2
  digest : List Byte
  deriving DecidableEq, Repr

def crust0 : Crust := ⟨0, []⟩

/-- A CRUST_LOAD in progress (R402): counter of its command, source, package bytes received, whether the TC has checked
it, whether the key is in effect, image lines received. -/
structure CrustLoad where
  counter : DWord
  hostSrc : Bool
  port : Nat
  stream : Nat
  addr : Nat
  pkg : List Byte
  checked : Nat
  key : Nat
  img : List Byte
  deriving DecidableEq, Repr

/-- A request context record (R190), bytes 0–15 as fields. -/
structure CtxRec where
  fidx : FillId
  none_ : Bool
  pinned : Bool
  pgen : Half
  stale : Bool
  cv : Bool
  active : Bool
  inflight : Bool
  tokens : Word
  deriving DecidableEq, Repr

def ctxRec0 : CtxRec := ⟨0, false, false, 0, false, false, false, false, 0⟩

/-- The Filling Table (R177–R212): descriptors, the stages, the descriptors that the stale walk which runs covers and those
of the one that follows it, Crust versions and loads, context records by module context. -/
structure Fills where
  descs : Map Desc
  stages : Map (Option StageJob)
  walk : Option (List FillId)
  walkNext : List FillId
  crusts : Map Crust
  loads : Map (Option CrustLoad)
  ctxs : Map CtxRec
  deriving DecidableEq, Repr

def fills0 : Fills := ⟨[], [], none, [], [], [], []⟩

/-- The management certificate (R382). -/
structure Cert where
  subject : List Byte
  serial : List Byte
  notBefore : List Byte
  notAfter : List Byte
  digitalSignature : Bool
  serverAuth : Bool
  sig : List Byte
  deriving DecidableEq, Repr

/-- What leaves the module (pins, links, the host link, the management path), as the model keeps it. A completion entry that waits
for the host link stands as `cpl`: its place in the CQ, its phase bit and its SQHEAD are those of its writing (R355, R359). -/
inductive Out where
  | wrsp (tag : BitVec 10) (data : DWord)
  | mrd (tag : Nat) (addr : Nat) (len : Nat)
  | mwr (p : Nat) (gen : Half) (addr : Nat) (data : List Byte)
  | ntf (kind p : Nat) (gen : Half) (arg : DWord)
  | cpl (w : Work) (status count : Nat) (result : List Byte)
  | crd (posted nonposted : Half)
  | frame (q : Nat) (typ : Nat) (f : Frame)
  | flit (q : Nat) (w : Flit)
  | mgmt (op status : Nat) (counter : DWord) (body : List Byte) (sig : List Byte)
  | mp (code status : Nat) (body : List Byte)
  | tls (mgmt : Option Cert) (chain : List (List Byte))
  | i3c (bs : List Byte)
  | ibi (cause : Nat)
  | l1 (enter : Bool)
  deriving DecidableEq, Repr

/-- An outstanding MRD (R348): its aligned range and the bytes of it that have come; of them the unit wants `want` from `skip` on.
`no` gives the order in which they were asked for (R346). -/
structure Mrd where
  req : Req
  addr : Nat
  len : Nat
  got : List Byte
  no : Nat
  skip : Nat
  want : Nat
  deriving DecidableEq, Repr

/-- The host link (R344–R350): modules up, whether the site supply is on, whether it is in L1 (R425), credits toward the
host, outstanding MRDs by tag, reads that wait for a free tag as (unit, address, length), the number of the next MRD,
transactions held, those sent that the adapter may not have acknowledged, and the SQ that was served last, as 64·partition +
queue (R357). -/
structure HostLink where
  mods : BitVec 4
  siteOn : Bool
  l1 : Bool
  posted : Nat
  nonposted : Nat
  mrds : Map (Option Mrd)
  waiting : List (Req × Nat × Nat)
  nextMrd : Nat
  held : List Out
  unacked : List Out
  rr : Nat
  deriving DecidableEq, Repr

def hostLink0 : HostLink := ⟨0, true, false, 0, 0, [], [], 0, [], [], 2047⟩

/-- A virtual channel of a port (R280–R282, R286): credits in hand, next SEQ to send, SEQ expected, frames sent and not
covered by an ACK, frames waiting for credit, replays of its oldest frame in succession, flits whose credit is due, NAK
due, and a VCRESET exchange: whether one is under way, sent, due while the port is not up, and received. -/
structure Vc where
  credits : Nat
  seq : Half
  expect : Half
  sent : List (Nat × Frame)
  queue : List (Nat × Frame)
  again : Nat
  owed : Nat
  nak : Bool
  rst : Bool
  rstSent : Bool
  rstDue : Bool
  rstGot : Bool
  deriving DecidableEq, Repr

def vc0 : Vc := ⟨0, 0, 0, [], [], 0, 0, false, false, false, false, false⟩

/-- A port (R284, R285, R316, R423, R424): PCL_PORTq_0 and _1, its VCs, BREADYs received as (TAG, JOB, STEP), tick of the
ECHO that waits for its reply, PWR_LINK_q, LPI sent. -/
structure Port where
  state : BitVec 2
  peer : BitVec 24
  rtt : BitVec 24
  replays : Nat
  downs : Nat
  badjob : Nat
  badtype : Nat
  vcs : Map Vc
  ready : List (Half × Half × Half)
  echoAt : Option Nat
  ptol : Half
  tolOk : Bool
  lpi : Bool
  lpiSent : Bool
  lpiGot : Bool
  deriving DecidableEq, Repr

def port0 : Port := ⟨0, 0, 0, 0, 0, 0, 0, [], [], none, 0, false, false, false, false⟩

/-- An outstanding storage read (R311): the next unit, units still to come, the unit that reads, bytes received so far, bytes
to pass over. -/
structure Srd where
  port : Nat
  stream : Nat
  unit : Nat
  count : Nat
  req : Req
  got : List Byte
  skip : Nat
  deriving DecidableEq, Repr

/-- An entry of the late ledger (R306): tag, STEP, AGE, READY, ranges as (first, past the last), ranges dropped since no eighth
was left, the exchange descriptor of its bucket, and the late inputs that have not arrived in full, as (input, blocks still to
come). The element data stand in partition memory. -/
structure Ledger where
  tag : Half
  step : Half
  age : Nat
  ready : Bool
  ranges : List (Nat × Nat)
  lost : List (Nat × Nat)
  desc : List Nat
  wants : List (Nat × Nat)
  deriving DecidableEq, Repr

/-- What the attempt that runs has for the ledger (R306): its late inputs as (input, blocks still to come), and the late data that
have arrived as (first block, values). The entry is made when the attempt completes. -/
structure Late where
  wants : List (Nat × Nat)
  data : List (Nat × List (List Word))
  deriving DecidableEq, Repr

/-- A received frame that waits in the receive buffer (R298, R303): its port and type; for a frame of a later attempt the tick in
which it passed its check. -/
structure Held where
  port : Nat
  typ : Nat
  frame : Frame
  ahead : Option Nat
  deriving DecidableEq, Repr

/-- A bucket slot (R288–R307). STEP count; whether open, ever completed and with which outcome; TAG; the owning partition
and its generation; the exchange descriptor as OPEN took it (8 words); attempt; the line of the CONTRIB or SEND and
whether it has taken effect; local input late in this attempt; ledger copy under way; the OPEN that waits for it and what
was issued for the slot after it. Then, by block of the bucket: agreed scale bytes, sums of a tree with the inputs counted in each, history
bytes R_b. Ports from which frames have come; the window's opening tick and whether it has closed; the tick in which the first
CONTRIB of the next attempt passed its check; received frames that wait for data, scales or an attempt; frames that wait for BREADY
as (port, type, frame). The largest HOP received. By input (see `inKey`): blocks received and blocks merged; inputs arrived and inputs late. Sticky SAT; trailers as (direction,
origin, LATEL, LATEU, SAT); LATEL and LATEU of this device and over the topology; blocks gathered by chunk; bytes of a
send received; whether the link has acknowledged the last frame of this device's send; whether this device's trailer has left; the
down phase runs; entry parity folded into this bucket; the two ledger entries; what this attempt has for the ledger; entries folded
and dropped at this completion; elements delivered that are not finite. -/
structure Bucket where
  step : Half
  opened : Bool
  done : Bool
  outcome : Nat
  tag : Half
  owner : Nat
  gen : Half
  desc : List Nat
  attempt : Nat
  spa : Nat
  contrib : Bool
  localLate : Bool
  copying : Bool
  waits : List (XchSlot × List (List Byte))
  scales : Map (Option Byte)
  sums : Map (List Word)
  inputs : Map (List Nat)
  hist : Map Byte
  heard : List Nat
  winOpen : Option Nat
  winClosed : Bool
  nextOpen : Option Nat
  held : List Held
  outq : List (Nat × Nat × Frame)
  hop : Nat
  seen : Map Nat
  merged : Map Nat
  arrived : List Nat
  lateParts : List Nat
  sat : Bool
  trailers : List (Nat × Nat × Nat × Nat × Bool)
  late : Nat × Nat
  total : Nat × Nat
  gathered : Map Nat
  received : Nat
  acked : Bool
  trailerSent : Bool
  down : Bool
  folded : Option Nat
  ledgers : Map (Option Ledger)
  booked : Late
  nfolded : Nat
  ndropped : Nat
  nonfin : Nat
  deriving DecidableEq, Repr

def bucket0 : Bucket :=
  { step := 0, opened := false, done := false, outcome := 0, tag := 0, owner := 0, gen := 0, desc := [], attempt := 0,
    spa := 0, contrib := false, localLate := false, copying := false, waits := [], scales := [],
    sums := [], inputs := [], hist := [], heard := [], winOpen := none, winClosed := false, nextOpen := none, held := [], outq := [], hop := 0,
    seen := [], merged := [], arrived := [], lateParts := [], sat := false, trailers := [], late := (0, 0),
    total := (0, 0), gathered := [], received := 0, acked := false, trailerSent := false, down := false, folded := none,
    ledgers := [], booked := ⟨[], []⟩, nfolded := 0, ndropped := 0, nonfin := 0 }

/-- The collective link (R275–R316): PCL_ID, port roles, PCL_VC, PCL_TOPO and PCL_SLOT as the image sets them, ports, bucket
slots by module slot, PCL_LEDGp as (LATE, FOLDED, DROPPED), jobs that have seen a HALT since their partition last
started, storage reads, and SEND frames that wait for their slot to open as (port, frame). -/
structure Pcl where
  id : BitVec 24
  roles : Map (BitVec 3)
  vcImg : Map DWord
  topo : Map DWord
  slots : Map DWord
  ports : Map Port
  buckets : Map Bucket
  ledg : Map (Nat × Nat × Nat)
  halted : List Half
  srds : List Srd
  early : List (Nat × Frame)
  deriving DecidableEq, Repr

def pcl0 : Pcl := ⟨0, [], [], [], [], [], [], [], [], [], []⟩

/-- An ownership action as accepted (R318–R320): opcode of R398, its partitions, its granules and its slabs as (slab, PSLOT), its
last operand, its counter, and how far it has come: stage 9 it waits for an earlier action of its partitions (R319), 0 for a gate
of p, 1 p takes it, 2 its granules are being cleared for q, 3 it waits for a gate of q, 4 q takes it, 5 for the end of transfers
of p (R217). -/
structure Act where
  op : Nat
  p : Nat
  q : Nat
  mask : Word
  slabs : List (Nat × Nat)
  v : Nat
  counter : DWord
  stage : Nat
  deriving DecidableEq, Repr

/-- Work of the TC under R395: a Recipe for an ATTEST or ATTEST_DEV, a Crust's signature check, its unwrap, an MP request. -/
inductive TcOp where
  | recipe (work : Work) (haddr maxlen : Nat) (nonce : List Byte)
  | recipeDev (counter : DWord) (nonce : List Byte)
  | crustSig (v : Nat)
  | crustKey (v : Nat)
  | mpSign (data : List Byte)
  deriving DecidableEq, Repr

/-- The Trusted Controller, the flash and start-up (R378–R411): OTP fields, MODE and the rest of CFG_BOOT, Ready, whether the identity
certificate's key is the derived one (R381), the running configuration section and firmware header, counter record with its sequence
number (R385), work in arrival order, Recipes signed, management sessions, flash bytes; the private scalars and the record key
(R380, R385), the management certificate. -/
structure Tc where
  roothash : List Byte
  unique : List Byte
  ophash : Map (List Byte)
  oprevoke : BitVec 4
  keyrevoke : Word
  fwfloor : Nat
  cfgfloor : Nat
  serial : BitVec 128
  mode : BitVec 2
  ready : Bool
  phase8 : Bool
  fwCopy : Bool
  cfgCopy : Bool
  hasCfg : Bool
  fallback : Bool
  altfail : Bool
  certOk : Bool
  cfg : List Byte
  fwHdr : List Byte
  cmdctr : DWord
  boots : Word
  ctrSeq : Nat
  rcpcnt : DWord
  work : List TcOp
  sessions : Nat
  flash : Mem
  idKey : Nat
  mgmtKey : Nat
  macKey : List Byte
  mgmtCert : Option Cert
  deriving DecidableEq, Repr

def tc0 : Tc :=
  { roothash := List.replicate 48 0, unique := List.replicate 48 0, ophash := [],
    oprevoke := 0, keyrevoke := 0, fwfloor := 0, cfgfloor := 0, serial := 0, mode := 0, ready := false,
    phase8 := false, fwCopy := false, cfgCopy := false, hasCfg := false, fallback := false, altfail := false, certOk := true,
    cfg := [], fwHdr := [], cmdctr := 0, boots := 0, ctrSeq := 0, rcpcnt := 0, work := [], sessions := 0, flash := [], idKey := 0,
    mgmtKey := 0, macKey := [], mgmtCert := none }

/-- Clocks and power (R412–R429): PWR_ registers, the state change in progress as (target, entering), ticks of eligibility,
limiter timers, stall, since when each state has been eligible without a break (R418), and the last measurements of the
host site and of VIN over which 1 ms averages are taken. -/
structure Pwr where
  state : BitVec 3
  permit : BitVec 3
  change : Option (Nat × Bool)
  reflost : Bool
  aclk : Nat
  target : Nat
  below : Nat
  lastStep : Nat
  stall : Bool
  vin : Half
  iin : Half
  pin : Half
  pinMax : Half
  pkg : Half
  pkgMax : Half
  host : Half
  hostMax : Half
  temps : Map Byte
  hotspot : Byte
  peak : Byte
  level : BitVec 2
  thrcnt : Half
  resTicks : Map Nat
  resEntries : Map Half
  since : Nat
  elig : Map Nat
  hostHist : List Nat
  vinHist : List Nat
  deriving DecidableEq, Repr

def pwr0 : Pwr :=
  { state := 0, permit := 0, change := none, reflost := false, aclk := 0, target := 0, below := 0,
    lastStep := 0, stall := false, vin := 0, iin := 0, pin := 0, pinMax := 0, pkg := 0, pkgMax := 0, host := 0, hostMax := 0,
    temps := [], hotspot := 0, peak := 0, level := 0, thrcnt := 0, resTicks := [], resEntries := [], since := 0,
    elig := [], hostHist := [], vinHist := [] }

/-- The twin (R453–R462, R467): TWN_STAT and TWN_CNT, the CDIG bytes of the peer's last ATTACH, heartbeats sent, mirror
records applied, the tick of the last VC 0 frame, whether a TP failure with the peer alive has been noted, the tick of
Ready, partitions whose mirror is stale, mirrored program images by partition as (IDX, bytes), a detachment under way as the
counter of its MODULE_RESET and the tick it began, whether SYNCDONE is still to be sent, since when the input has been released. -/
structure Twin where
  role : BitVec 2
  sync : Bool
  sense : Bool
  paired : Bool
  peerDig : Word × Word
  failovers : Nat
  resyncs : Nat
  refused : Nat
  stales : Nat
  beats : Nat
  applied : Nat
  lastRx : Nat
  tpFail : Bool
  readyAt : Nat
  stale : Word
  progs : Map (Nat × List Byte)
  detach : Option (DWord × Nat)
  resync : Bool
  released : Option Nat
  deriving DecidableEq, Repr

def twin0 : Twin := ⟨0, false, false, false, (0, 0), 0, 0, 0, 0, 0, 0, 0, false, 0, 0, [], none, false, none⟩

/-- The module's pins and the I3C target (R468–R484): MEN, MRST_N, PGOOD, TWS_OUT, an overvoltage latch, SLOT_ID, PWR_MOD,
the dynamic address, interrupts enabled, the recovery session, whether the device is in Device-fatal state (R432). -/
structure Module where
  men : Bool
  mrstN : Bool
  pgood : Bool
  twsOut : Bool
  overv : Bool
  slotId : BitVec 3
  lidt : Byte
  lidpeak : Byte
  cause : BitVec 7
  daddr : Option (BitVec 7)
  ibi : Bool
  recState : Nat
  recLen : Nat
  recGot : Nat
  recHdr : List Byte
  fatal : Bool
  deriving DecidableEq, Repr

/-- Powered, in module reset (log entry 20). -/
def module0 : Module := ⟨true, false, true, false, false, 0, 0, 0, 0, none, false, 0, 0, 0, [], false⟩

end Sys2Proof.Machine
end

