-- ==== Sys2Proof/Machine/State.lean ====
section
/-!
DEFINITION. The state of the block, the ways a command can stop, and the state after reset.
-/

namespace Sys2Proof.Machine

/-- Why a command stops the machine. No command of this model faults: a command that finds nothing to act on has no
effect. -/
inductive Fault where
  /-- Raised by nothing: the spec describes what every unit does after every fault it detects (R430–R433). Safe. -/
  | none
  deriving DecidableEq, Repr

/-- Why a command is refused. -/
inductive Refusal where
  /-- The dispatcher: the command has no meaning in the model yet. Safe. -/
  | notModelled (mnemonic : String)
  deriving DecidableEq, Repr

/-- The whole block. `pending` commands waiting, first in first out; `freeCtr` the model's own counter of free values (log
entry 2); `aon` AON ticks since the always-on domain was powered (PWR_AON); the 32 partitions, 128 tiles and 32 granules'
instruction memories; the event log; the HBM system and the repair record; slabs and granules under the Glaze and the key the
glaze slot holds; ownership actions under way; the Filling Table; the host link; the collective link; the Trusted Controller;
clocks and power; the twin; the module's pins and I3C target; EVT_PAGE; CKP_FLEET; the observed failures and ticks of R442;
what has left the module, newest first. -/
structure State where
  pending : List Instr
  freeCtr : Nat
  aon : DWord
  parts : List Part
  tiles : List Tile
  imem : List Mem
  log : EvLog
  hbm : Hbm
  repairs : List RepairEnt
  glazeSlabs : Map (Option GlazeJob)
  glazeGrans : Map (Option GlazeGran)
  glazeKey : Option Nat
  acts : List Act
  fills : Fills
  host : HostLink
  pcl : Pcl
  tc : Tc
  pwr : Pwr
  twin : Twin
  mdl : Module
  evPage : BitVec 4
  fleet : Word
  obs : Nat × Nat
  out : List Out
  deriving DecidableEq, Repr

/-- The powered module in module reset, every register at the reset value its table gives (log entries 20, 44, 45). -/
def State.reset : State where
  pending := []
  freeCtr := 0
  aon := 0
  parts := List.replicate 32 part0
  tiles := List.replicate 128 tile0
  imem := List.replicate 32 []
  log := evLog0
  hbm := hbm0
  repairs := []
  glazeSlabs := []
  glazeGrans := []
  glazeKey := none
  acts := []
  fills := fills0
  host := hostLink0
  pcl := pcl0
  tc := tc0
  pwr := pwr0
  twin := twin0
  mdl := module0
  evPage := 0
  fleet := 0
  obs := (0, 0)
  out := []

end Sys2Proof.Machine
end

