-- ==== Sys2Proof/Machine/Ops.lean ====
section
/-!
DEFINITION. Named operations over the state: parts of it read and changed in one place, the clamp counter (R343), reports
to the event log (R437) and free values.
-/

namespace Sys2Proof.Machine

/-- The outcome of every meaning. -/
abbrev Res := Host.Outcome State Fault Refusal

/-- Partition `p`. -/
def State.part (s : State) (p : Nat) : Part := nth part0 s.parts p

/-- Change partition `p`. -/
def State.modPart (p : Nat) (f : Part → Part) (s : State) : State := { s with parts := s.parts.modify p f }

/-- Tile `t`. -/
def State.tile (s : State) (t : Nat) : Tile := nth tile0 s.tiles t

/-- Change tile `t`. -/
def State.modTile (t : Nat) (f : Tile → Tile) (s : State) : State := { s with tiles := s.tiles.modify t f }

/-! One change for each other field: whatever a command changes, it changes through these. -/

def State.modImem (g : Nat) (f : Mem → Mem) (s : State) : State := { s with imem := s.imem.modify g f }
def State.modLog (f : EvLog → EvLog) (s : State) : State := { s with log := f s.log }
def State.modRepairs (f : List RepairEnt → List RepairEnt) (s : State) : State := { s with repairs := f s.repairs }
def State.modGlazeSlabs (f : Map (Option GlazeJob) → Map (Option GlazeJob)) (s : State) : State := { s with glazeSlabs := f s.glazeSlabs }
def State.modGlazeGrans (f : Map (Option GlazeGran) → Map (Option GlazeGran)) (s : State) : State := { s with glazeGrans := f s.glazeGrans }
def State.setGlazeKey (k : Option Nat) (s : State) : State := { s with glazeKey := k }
def State.modActs (f : List Act → List Act) (s : State) : State := { s with acts := f s.acts }
def State.modFills (f : Fills → Fills) (s : State) : State := { s with fills := f s.fills }
def State.modHost (f : HostLink → HostLink) (s : State) : State := { s with host := f s.host }
def State.modPcl (f : Pcl → Pcl) (s : State) : State := { s with pcl := f s.pcl }
def State.modTc (f : Tc → Tc) (s : State) : State := { s with tc := f s.tc }
def State.modPwr (f : Pwr → Pwr) (s : State) : State := { s with pwr := f s.pwr }
def State.modTwin (f : Twin → Twin) (s : State) : State := { s with twin := f s.twin }
def State.modMdl (f : Module → Module) (s : State) : State := { s with mdl := f s.mdl }
def State.setEvPage (v : BitVec 4) (s : State) : State := { s with evPage := v }
def State.setFleet (v : Word) (s : State) : State := { s with fleet := v }
def State.modObs (f : Nat × Nat → Nat × Nat) (s : State) : State := { s with obs := f s.obs }
def State.setAon (v : DWord) (s : State) : State := { s with aon := v }
def State.modFree (s : State) : State := { s with freeCtr := s.freeCtr + 1 }

/-- The instruction stream of partition `p`. -/
def State.seq (s : State) (p : Nat) : Seq := (s.part p).seq

def State.modSeq (p : Nat) (f : Seq → Seq) (s : State) : State :=
  s.modPart p (fun q => { q with seq := f q.seq })

/-- The context that issues. -/
def Part.ctx (q : Part) : Ctx := if q.seq.ctxB then q.ctxB else q.ctxF

def Part.modCtx (q : Part) (b : Bool) (f : Ctx → Ctx) : Part :=
  if b then { q with ctxB := f q.ctxB } else { q with ctxF := f q.ctxF }

/-- Change one context of partition `p`. -/
def State.modCtx (p : Nat) (b : Bool) (f : Ctx → Ctx) (s : State) : State := s.modPart p (fun q => q.modCtx b f)

/-- An s-register of a context. -/
def Ctx.sreg (c : Ctx) (r : Nat) : DWord := mget 0 c.sregs (r % 64)

def Ctx.setSreg (r : Nat) (v : DWord) (c : Ctx) : Ctx := { c with sregs := mset 0 c.sregs (r % 64) v }

/-- Granule of a tile (R13). -/
def granuleOf (t : Nat) : Nat := t / 32 * 8 + t % 16 / 2

/-- Does a partition own a granule, a tile (R317). -/
def Part.hasGran (q : Part) (g : Nat) : Bool := q.granules.getLsbD g
def Part.hasTile (q : Part) (t : Nat) : Bool := decide (t < 128) && q.hasGran (granuleOf t)

/-- The partition's tiles in ascending number: the rank of a tile is its place (R115). -/
def Part.tiles (q : Part) : List Nat := (upTo 128).filter q.hasTile

/-- The partition's granules in ascending number; the first is the lead (R96). -/
def Part.grans (q : Part) : List Nat := (upTo 32).filter q.hasGran

/-- Rank of a tile among the partition's (R115). -/
def Part.rank (q : Part) (t : Nat) : Nat := (q.tiles.filter (fun u => decide (u < t))).length

/-- Does the partition issue bundles: defined, not in reset, not halted, not dissolving (R331, R341, R431). -/
def Part.live (q : Part) : Bool := q.pstate == 1 || q.pstate == 3

/-- LASTSRC after a clamp of source `src` (R343): in one cycle the lowest code counts. -/
def Part.lastSrc (q : Part) (src : Nat) : BitVec 4 :=
  match q.clampLow with
  | some m => if m.toNat < src then m else BitVec.ofNat 4 src
  | none => BitVec.ofNat 4 src

/-- One clamp of partition `p` (R343): COUNT saturates, LASTSRC takes the source. -/
def clamp (p src : Nat) (s : State) : State :=
  s.modPart p (fun q => { q with
    clampCount := if q.clampCount = 0xFFFFFFFF then q.clampCount else q.clampCount + 1
    clampSrc := q.lastSrc src
    clampLow := q.clampLow.map (fun _ => q.lastSrc src) })

/-- A cycle of the stream begins or ends, for LASTSRC (R343). -/
def clampCycle (p : Nat) (open_ : Bool) (s : State) : State :=
  s.modPart p (fun q => { q with clampLow := if open_ then some 15 else none })

/-- A clamp when a condition holds. -/
def clampIf (b : Bool) (p src : Nat) (s : State) : State := if b then clamp p src s else s

/-- A free value: what the spec leaves open, one after another (log entry 2). -/
def fresh (s : State) : Nat × State := (Config.freeBits s.freeCtr, s.modFree)

/-- Count a report that is not recorded in its class's overflow summary (R436, R464). -/
def ovfAdd (cls : Nat) (tick : DWord) (l : EvLog) : EvLog :=
  let o := mget (0, 0) l.ovf cls
  { l with ovf := mset (0, 0) l.ovf cls (Nat.min 0xFFFFFFFF (o.1 + 1), if o.1 = 0 then fld tick.toNat 0 32 else o.2) }

/-- A unit reports an event through its 4-entry buffer (R437); `part` is 0xFF for none. -/
def report (cls src : Nat) (code : Nat) (part : Nat) (arg : Nat) (s : State) : State :=
  let b := mget [] s.log.bufs src
  let r : Report := ⟨cls, src, BitVec.ofNat 16 code, BitVec.ofNat 8 part, BitVec.ofNat 64 arg, s.aon⟩
  if b.length < 4 then s.modLog (fun l => { l with bufs := mset [] l.bufs src (b ++ [r]) })
  else s.modLog (ovfAdd cls s.aon)

/-- Apply a change to each of a list. -/
def forEach {α σ : Type} (l : List α) (f : α → σ → σ) (s : σ) : σ := l.foldl (fun s a => f a s) s

/-- A list element removed by place. -/
def dropAt {α : Type} : List α → Nat → List α
  | [], _ => []
  | _ :: l, 0 => l
  | a :: l, n + 1 => a :: dropAt l n

end Sys2Proof.Machine
end

