-- ==== Sys2Proof/Machine/Keys.lean ====
section
/-!
DEFINITION. Keys of the Trusted Controller (R380, R382, R385, R401): HMAC and HKDF over SHA-384, the derived keys, AES key wrap with
padding, the management certificate, as the published standards that the rules name lay them out (log entry 4).
-/

namespace Sys2Proof.Machine

/-- A digest of 48 bytes. -/
def sha48 (bs : List Byte) : List Byte := (Config.sha384 bs ++ List.replicate 48 0).take 48

/-- Bytes of a key, to the 128-byte block of SHA-384, XORed with a byte (RFC 2104). -/
def hmacPad (key : List Byte) (x : Byte) : List Byte :=
  ((if 128 < key.length then sha48 key else key) ++ List.replicate 128 0).take 128 |>.map (fun b => b ^^^ x)

/-- HMAC-SHA-384 (RFC 2104). -/
def hmac384 (key msg : List Byte) : List Byte := sha48 (hmacPad key 0x5C ++ sha48 (hmacPad key 0x36 ++ msg))

/-- The blocks T(i) of HKDF-Expand (RFC 5869). -/
def hkdfBlocks (prk info : List Byte) : Nat → Nat → List Byte → List Byte
  | 0, _, _ => []
  | n + 1, i, t => let t' := hmac384 prk (t ++ info ++ [BitVec.ofNat 8 i]); t' ++ hkdfBlocks prk info n (i + 1) t'

/-- HKDF-SHA-384 (RFC 5869): L bytes. -/
def hkdf384 (salt ikm info : List Byte) (len : Nat) : List Byte :=
  (hkdfBlocks (hmac384 salt ikm) info (cdiv len 48) 1 []).take len

/-- ASCII text without a terminator. -/
def ascii (cs : List Char) : List Byte := cs.map (fun c => BitVec.ofNat 8 c.toNat)

def infoIdentity : List Byte := ascii ['P', 'Z', '8', 'H', ' ', 'i', 'd', 'e', 'n', 't', 'i', 't', 'y']
def infoManagement : List Byte := ascii ['P', 'Z', '8', 'H', ' ', 'm', 'a', 'n', 'a', 'g', 'e', 'm', 'e', 'n', 't']
def infoRecord : List Byte := ascii ['P', 'Z', '8', 'H', ' ', 'r', 'e', 'c', 'o', 'r', 'd']
def infoCrust : List Byte := ascii ['P', 'Z', '8', 'H', ' ', 'c', 'r', 'u', 's', 't', ' ', 'w', 'r', 'a', 'p']

/-- The group order of brainpoolP384r1 (RFC 5639). -/
def curveOrder : Nat :=
  0x8CB91E82A3386D280F5D6F7E50E641DF152F7109ED5456B31F166E6CAC0425A7CF3AB6AF6B7FC3103B883202E9046565

/-- Key material of R380: salt SERIAL, input keying material UNIQUE, 72 bytes. -/
def keyMaterial (t : Tc) (info : List Byte) : List Byte := hkdf384 (leBytes 16 t.serial.toNat) t.unique info 72

/-- A private scalar from its key material, a big-endian integer (R380). -/
def scalarOf (okm : List Byte) : Nat := leNat okm.reverse % (curveOrder - 1) + 1

/-- Phase 5 of start-up: the long-term keys and the record key are derived (R380, R385). -/
def deriveKeys (t : Tc) : Tc :=
  { t with
    idKey := scalarOf (keyMaterial t infoIdentity), mgmtKey := scalarOf (keyMaterial t infoManagement)
    macKey := keyMaterial t infoRecord }

/-- The identity public key, the management public key: 96 bytes (R378). -/
def identityPub (t : Tc) : List Byte := (Config.ecPub t.idKey ++ List.replicate 96 0).take 96
def mgmtPub (t : Tc) : List Byte := (Config.ecPub t.mgmtKey ++ List.replicate 96 0).take 96

/-- The management certificate that the TC issues (R382). -/
def issueCert (t : Tc) : Cert :=
  let c : Cert :=
    { subject := mgmtPub t, serial := (sha48 (mgmtPub t)).take 16
      notBefore := ascii ['1', '9', '7', '0', '0', '1', '0', '1', '0', '0', '0', '0', '0', '0', 'Z']
      notAfter := ascii ['9', '9', '9', '9', '1', '2', '3', '1', '2', '3', '5', '9', '5', '9', 'Z']
      digitalSignature := true, serverAuth := true, sig := [] }
  { c with sig := Config.ecSign t.idKey (Config.x509Tbs c.subject c.serial c.notBefore c.notAfter) }

/-- The first of two DER values that stand one after the other: a tag, a length in short or long form, its contents. -/
def derFirst (bs : List Byte) : List Byte :=
  let l := (nth 0 bs 1).toNat
  if l < 128 then bs.take (2 + l) else bs.take (2 + l % 128 + leNat ((bs.drop 2).take (l % 128)).reverse)

/-- One step of the unwrapping of RFC 3394 under a key: register A and the eight halves R, at step t. -/
def unwrapStep (kek : BitVec 256) (a : List Byte × List (List Byte)) (t : Nat) : List Byte × List (List Byte) :=
  let i := (t - 1) % 8
  let x := leBytes 8 (Nat.xor (leNat a.1.reverse) t) |>.reverse
  let d := leBytes 16 (Config.aesDec kek (BitVec.ofNat 128 (leNat (x ++ nth [] a.2 i)))).toNat
  (d.take 8, a.2.set i (d.drop 8))

/-- AES-256 key unwrap with padding of 72 bytes (RFC 5649): the 64-byte key, unless its integrity check fails. -/
def unwrapKey (kek : List Byte) (c : List Byte) : Option (List Byte) :=
  let k := BitVec.ofNat 256 (leNat kek)
  let start : List Byte × List (List Byte) := (c.take 8, (upTo 8).map (fun i => (c.drop (8 + 8 * i)).take 8))
  let r := (upTo 48).reverse.foldl (fun a j => unwrapStep k a (j + 1)) start
  if r.1 = [0xA6, 0x59, 0x59, 0xA6, 0, 0, 0, 64] then some r.2.flatten else none

/-- The weight key of a Crust package (R401): its header, the wrap entry for this device. -/
def crustKey (t : Tc) (head entry : List Byte) : Option (List Byte) :=
  let z := Config.ecdhX t.idKey ((head.drop 88).take 96)
  unwrapKey (hkdf384 ((head.drop 8).take 16) z (infoCrust ++ entry.take 48 ++ (head.drop 32).take 48) 32) ((entry.drop 48).take 72)

end Sys2Proof.Machine
end

