-- ==== Sys2Proof/Machine/Operands.lean ====
section
/-!
DEFINITION. The registers that RRD and RWR reach (R106), by address: which exist, what they read as after reset, which
bits a write changes, and the named fields.
-/

namespace Sys2Proof.Machine

/-- An inclusive range of addresses. -/
def inRange (lo hi a : Nat) : Bool := decide (lo ≤ a) && decide (a ≤ hi)

/-- The tile that a per-tile register address names (R106). -/
def regTile (a : Nat) : Option Nat :=
  if inRange 0x1000 0x11FF a then some ((a - 0x1000) / 4)
  else if inRange 0x2000 0x207F a then some (a - 0x2000)
  else if inRange 0x3000 0x307F a then some (a - 0x3000)
  else none

/-- The value of a plain register after reset. -/
def regReset (a : Nat) : DWord :=
  if inRange 0x40 0x5F a then BitVec.ofNat 64 (2 ^ 23 + 2 ^ 40)
  else if inRange 0x1210 0x121F a then 1
  else if inRange 0x1221 0x1227 a then BitVec.ofNat 64 (1 + 2 ^ 12 + 2 ^ 16 + 2 ^ 28)
  else if inRange 0x4000 0x40FF a && a % 8 == 0 then
    BitVec.ofNat 64 (2 * 2 ^ 11 + 7 * 2 ^ 14 + 2 ^ 18 + 2 ^ 19 + 127 * 2 ^ 23)
  else 0

/-- The writable bits of a plain register; `none` where the address is none. -/
def regMask (a : Nat) : Option Nat :=
  if inRange 0x10 0x12 a then some (2 ^ 63 - 1)
  else if inRange 0x40 0x5F a then some (2 ^ 58 - 1)
  else if inRange 0x80 0x9F a then some (2 ^ 62 - 1)
  else if inRange 0x1201 0x1203 a then some (2 ^ 46 - 1)
  else if inRange 0x1210 0x121F a then some (2 ^ 17 - 1)
  else if inRange 0x1221 0x1227 a then some (2 ^ 42 - 1)
  else if inRange 0x2081 0x2083 a then some (2 ^ 29 - 1)
  else if a = 0x2084 then some (2 ^ 34 - 1)
  else if inRange 0x2100 0x213F a && a % 4 != 3 then some (2 ^ 64 - 1)
  else if inRange 0x2182 0x218F a then some (2 ^ 64 - 1)
  else if inRange 0x3081 0x3083 a then some (2 ^ 17 - 1)
  else if inRange 0x3090 0x309F a then some (2 ^ 52 - 1)
  else if inRange 0x30A0 0x30BF a && a % 4 != 3 then some (if a % 4 = 2 then 2 ^ 32 - 1 else 2 ^ 64 - 1)
  else if a = 0x30C0 then some (2 ^ 64 - 1)
  else if inRange 0x3100 0x311F a && a % 4 != 3 then some (2 ^ 34 - 1)
  else if inRange 0x4000 0x40FF a then
    some ([2 ^ 55 - 1, 2 ^ 58 - 1, 2 ^ 34 - 1, 2 ^ 34 - 1, 2 ^ 51 - 1, 2 ^ 34 - 1, 2 ^ 34 - 1, 0].getD (a % 8) 0)
  else none

/-- A plain register. -/
def Part.reg (q : Part) (a : Nat) : Nat := (mget (regReset a) q.regs a).toNat

def Part.setReg (a : Nat) (v : Nat) (q : Part) : Part :=
  { q with regs := mset (regReset a) q.regs a (BitVec.ofNat 64 v) }

/-- UPD_SBUFk_2's flags CUR and DRAIN stand in the register's bits 34 and 35 (R176). -/
def sbufAddr (k j : Nat) : Nat := 0x3100 + 4 * k + j
def Part.sbufLen (q : Part) (k : Nat) : Nat := fld (q.reg (sbufAddr k 2)) 0 34
def Part.sbufCur (q : Part) (k : Nat) : Bool := bit (q.reg (sbufAddr k 2)) 34
def Part.sbufDrain (q : Part) (k : Nat) : Bool := bit (q.reg (sbufAddr k 2)) 35
def Part.sbufBase (q : Part) (k : Nat) (b : Bool) : Nat := fld (q.reg (sbufAddr k (b2n b))) 0 34

/-- Change CUR or DRAIN of a pair. -/
def Part.setCur (k : Nat) (b : Bool) (q : Part) : Part := q.setReg (sbufAddr k 2) (setFld (q.reg (sbufAddr k 2)) 34 1 (b2n b))
def Part.setDrain (k : Nat) (b : Bool) (q : Part) : Part := q.setReg (sbufAddr k 2) (setFld (q.reg (sbufAddr k 2)) 35 1 (b2n b))

/-- The pass base register of a slot at `base` (its _f register) for a pass tag; tag 00 uses 0 (R120). -/
def Part.pbase (q : Part) (base : Nat) (pt : PassTag) : Nat := if pt = 0 then 0 else q.reg (base + pt.toNat - 1)

/-- Scratchpad and Line Buffer line counts (R48). -/
def spLine (n : Nat) : Nat := n % 131072
def lbLine (n : Nat) : Nat := n % 4096

/-- Is the access of a slot the first use of a descriptor since it was written (R58, R174, R175, R313). -/
def Part.isFresh (q : Part) (a : Nat) : Bool := mget false q.fresh a

/-- SEQ_STAT's STATE (R140). -/
def Part.seqState (q : Part) : Nat :=
  if q.pstate = 5 then 6
  else if q.seq.switch.isSome then 5
  else if q.seq.undo.isSome then 4
  else if q.seq.stall.isSome then 2
  else if q.seq.gates ≠ [] then 3
  else if q.ctx.loaded then 1 else 0

/-- SEQ_STAT (R140). -/
def Part.seqStat (q : Part) : Nat :=
  let cls := match q.seq.gates, q.seq.stall with
    | g :: _, _ => g.cls.toNat
    | [], some st => st.cls.toNat
    | [], none => 0
  put q.seqState 0 3 + put (b2n q.seq.ctxB) 3 1 + put q.seq.gates.length 4 2 + put cls 6 4 + put q.seq.lastPc 10 19
    + put (b2n q.ctxB.loaded) 29 1 + put (b2n q.seq.preempt) 30 1

/-- OR of a flag over the partition's tiles. -/
def orTiles (s : State) (q : Part) (f : Tile → Nat) : Nat := q.tiles.foldl (fun acc t => Nat.lor acc (f (s.tile t))) 0

/-- ARR_STATSUM (R54). -/
def arrStatSum (s : State) (q : Part) : Nat :=
  sumL ((upTo 4).map (fun a => fld (orTiles s q (fun t => (mget 0 t.arrStat a).toNat)) 0 3 * 2 ^ (8 * a)))

/-- CVU_RES (R409). -/
def cvuRes (c : Cvu) : Nat :=
  if c.alg = 2 then c.val.toNat else Nat.xor (fld c.val.toNat 0 32) 0xFFFFFFFF

/-- A CVU register (R409). -/
def cvuRead (c : Cvu) (a : Nat) : Option Nat :=
  if a = 0x100 then some (c.alg.toNat + 16 * b2n c.halt)
  else if a = 0x101 then some c.val.toNat
  else if a = 0x102 then some (cvuRes c)
  else if a = 0x103 then some c.exp.toNat
  else if a = 0x104 then some (c.stat.toNat + 4 * c.queue.length)
  else none

/-- What an RRD reads; `none` where the address is unassigned or names a tile outside the partition (R105). -/
def regRead (s : State) (p a : Nat) : Option Nat :=
  let q := s.part p
  match regTile a with
  | some t =>
    if q.hasTile t then
      let tl := s.tile t
      some (if a < 0x2000 then (mget 0 tl.arrStat (a % 4)).toNat
        else if a < 0x3000 then tl.vec.stat.toNat else tl.updStat.toNat)
    else none
  | none =>
    if inRange 0x100 0x1FF a then cvuRead q.cvu a
    else if a = 0 then some q.seqStat
    else if a = 1 then some q.ctx.ptpol.toNat
    else if a = 2 then some q.ctx.ractl.toNat
    else if a = 3 then some (q.seq.commits.toNat + 2 ^ 32 * q.seq.mispredicts.toNat)
    else if a = 4 then some q.seq.undoCyc.toNat
    else if a = 0x1200 then some (arrStatSum s q)
    else if a = 0x2080 then some (orTiles s q (fun t => t.vec.stat.toNat))
    else if a = 0x3080 then some (orTiles s q (fun t => t.updStat.toNat))
    else if a = 0x30C1 then some (q.reg 0x30C1)
    else match regMask a with
      | some _ => some (q.reg a)
      | none => none

/-- May a register address be named at all (R105): an RO register takes writes without effect and without a clamp. -/
def regExists (s : State) (p a : Nat) : Bool := (regRead s p a).isSome

/-- SEQ_RACTL as written (R142): LIMIT 0 reads as 8,192, larger values are clamped. -/
def ractlWrite (v : Nat) : BitVec 15 :=
  let lim := fld v 1 14
  BitVec.ofNat 15 (v % 2 + 2 * (if lim = 0 ∨ 8192 < lim then 8192 else lim))

/-- The whole 128 bits of mask register k from its two halves (R94). -/
def Part.maskReg (q : Part) (k : Nat) : BitVec 128 :=
  BitVec.ofNat 128 (q.reg (0x2180 + 2 * k) + 2 ^ 64 * q.reg (0x2181 + 2 * k))

/-- Clear the bits written as 1 of a tile's RW1C flags. -/
def clearTileReg (a v : Nat) (t : Tile) : Tile :=
  if a < 0x2000 then
    let old := mget 0 t.arrStat (a % 4)
    { t with arrStat := mset 0 t.arrStat (a % 4) (old &&& ~~~(BitVec.ofNat 32 v)) }
  else if a < 0x3000 then
    { t with vec := { t.vec with stat := t.vec.stat &&& ~~~(BitVec.ofNat 4 v) } }
  else { t with updStat := t.updStat &&& ~~~(BitVec.ofNat 4 v) }

/-- An RWR takes effect (R104–R106). -/
def regWrite (p : Nat) (b : Bool) (a v : Nat) (s : State) : State :=
  let q := s.part p
  match regTile a with
  | some t => if q.hasTile t then s.modTile t (clearTileReg a v) else s
  | none =>
    if a = 1 then s.modCtx p b (fun c => { c with ptpol := BitVec.ofNat 3 v })
    else if a = 2 then
      clampIf (decide (8192 < fld v 1 14)) p 4 (s.modCtx p b (fun c => { c with ractl := ractlWrite v }))
    else match regMask a with
      | none => s
      | some m =>
        let keep := if inRange 0x3100 0x311F a && a % 4 == 2 then put (fld (q.reg a) 34 2) 34 2 else 0
        let s := s.modPart p (fun q => { q.setReg a (Nat.land v m + keep) with fresh := mset false q.fresh a true })
        if inRange 0x2182 0x218F a then
          let k := (a - 0x2180) / 2
          let mv := (s.part p).maskReg k
          forEach (s.part p).tiles
            (fun t s => s.modTile t (fun tl => { tl with vec := { tl.vec with masks := mset 0 tl.vec.masks k mv } })) s
        else s

/-- After a descriptor is used, its first-use clamps are spent. -/
def useReg (p a : Nat) (s : State) : State := s.modPart p (fun q => { q with fresh := mset false q.fresh a false })

end Sys2Proof.Machine
end

