-- ==== Sys2Proof/Machine/Entry.lean ====
section
/-!
DEFINITION. Submission entries as their 64 bytes spell them (R358, R364–R370): the common header and the body of each type.
Reserved bits are not looked at (R11).
-/

namespace Sys2Proof.Machine

/-- Bits `[lo + n - 1 : lo]` of the bytes of an entry from byte `at_` on, little-endian. -/
def entryBits (bs : List Byte) (at_ lo n : Nat) : Nat := leNat ((bs.drop at_).take 8) / 2 ^ lo % 2 ^ n

def entryFlag (bs : List Byte) (at_ lo : Nat) : Bool := entryBits bs at_ lo 1 == 1

/-- TYPE (R358). -/
def entryType (bs : List Byte) : Nat := entryBits bs 0 0 8

/-- NOTIFY and CID of an entry from queue q (R358). -/
def entryHead (q : QueueId) (bs : List Byte) : EntryHead := ⟨q, entryFlag bs 1 0, BitVec.ofNat 32 (entryBits bs 4 0 32)⟩

/-- Body of PROGRAM_RUN (R364). -/
def runBody (bs : List Byte) : RunBody :=
  ⟨entryFlag bs 8 0, entryFlag bs 8 1, entryFlag bs 8 2, BitVec.ofNat 14 (entryBits bs 10 0 14),
    BitVec.ofNat 19 (entryBits bs 12 0 19), BitVec.ofNat 64 (entryBits bs 16 0 64)⟩

/-- Body of TOKEN_STEP (R366). -/
def stepBody (bs : List Byte) : StepBody :=
  ⟨BitVec.ofNat 16 (entryBits bs 8 0 16), BitVec.ofNat 16 (entryBits bs 10 0 16), entryFlag bs 12 0, entryFlag bs 12 1,
    entryFlag bs 12 2, entryFlag bs 12 3, BitVec.ofNat 14 (entryBits bs 14 0 14), BitVec.ofNat 64 (entryBits bs 16 0 64),
    BitVec.ofNat 32 (entryBits bs 24 0 32), BitVec.ofNat 64 (entryBits bs 32 0 64), BitVec.ofNat 32 (entryBits bs 40 0 32),
    (bs.drop 48).take 16⟩

/-- Body of FILLING_STAGE (R368). -/
def stageBody (bs : List Byte) : StageBody :=
  ⟨BitVec.ofNat 2 (entryBits bs 8 0 2), BitVec.ofNat 3 (entryBits bs 9 0 3), BitVec.ofNat 14 (entryBits bs 10 0 14),
    BitVec.ofNat 64 (entryBits bs 16 0 64), BitVec.ofNat 34 (entryBits bs 24 0 34), BitVec.ofNat 34 (entryBits bs 32 0 34),
    BitVec.ofNat 34 (entryBits bs 40 0 34)⟩

/-- Body of FILLING_EVICT (R368): FORCE and FIDX. -/
def evictBody (bs : List Byte) : Bool × FillId := (entryFlag bs 8 0, BitVec.ofNat 14 (entryBits bs 10 0 14))

/-- Body of DATA_MOVE (R368). -/
def moveBody (bs : List Byte) : MoveBody :=
  ⟨entryFlag bs 8 0, BitVec.ofNat 64 (entryBits bs 16 0 64), BitVec.ofNat 34 (entryBits bs 24 0 34),
    BitVec.ofNat 25 (entryBits bs 32 0 25)⟩

/-- Body of ATTEST (R368): HADDR, MAXLEN, NONCE. -/
def attestBody (bs : List Byte) : DWord × Word × List Byte :=
  (BitVec.ofNat 64 (entryBits bs 16 0 64), BitVec.ofNat 32 (entryBits bs 24 0 32), (bs.drop 32).take 32)

/-- OP of an SIU_FEED, and its source (R370). -/
def feedOp (bs : List Byte) : Nat := entryBits bs 8 0 3
def feedBody (bs : List Byte) : FeedSrc :=
  ⟨BitVec.ofNat 2 (entryBits bs 9 0 2), BitVec.ofNat 3 (entryBits bs 9 2 3), BitVec.ofNat 64 (entryBits bs 16 0 64),
    BitVec.ofNat 64 (entryBits bs 24 0 64)⟩

/-- Does an entry spell a command of type `typ` with header h and a body that `is` accepts (R358). -/
def spells (typ : Nat) (h : EntryHead) (is : List Byte → Bool) (bs : List Byte) : Bool :=
  bs.length == 64 && entryType bs == typ && entryHead h.q bs == h && is bs

/-- A body of which the device reads nothing. -/
def anyBody (_ : List Byte) : Bool := true

/-- The command that a transaction from the host spells by its 16-byte header and its payload (R348). A TYPE that the host does not
send, or that is not defined, spells none: the device discards it. -/
def transactionOf (h : BitVec 128) (payload : List Byte) : Option Instr :=
  let f (lo n : Nat) : Nat := h.toNat / 2 ^ lo % 2 ^ n
  let tag : BitVec 10 := BitVec.ofNat 10 (f 21 10)
  match f 0 4 with
  | 0x1 => some (.wwr (BitVec.ofNat 64 (f 64 64)) (payload.take (f 8 13)))
  | 0x2 => some (.wrd (BitVec.ofNat 64 (f 64 64)) (BitVec.ofNat 13 (f 8 13)) tag)
  | 0x5 => some (.mcpl tag (payload.take (f 8 13)))
  | 0x8 => some (.merr tag)
  | 0x9 => some (.crd (BitVec.ofNat 16 (f 64 16)) (BitVec.ofNat 16 (f 80 16)))
  | _ => none

end Sys2Proof.Machine
end

