-- ==== Sys2Proof/Machine/Out.lean ====
section
/-!
DEFINITION. What leaves the module: transactions of the host link with its credits and its outages (R346, R348, R349),
completions and notifications (R359–R362), control flits and frames of the ports (R276–R282), wake events (R415, R416)
and the causes of ALERT_N (R480).
-/

namespace Sys2Proof.Machine

def State.queue (s : State) (p q : Nat) : Queue := mget queue0 (s.part p).queues q
def State.modQueue (p q : Nat) (f : Queue → Queue) (s : State) : State :=
  s.modPart p (fun x => { x with queues := mmod queue0 x.queues q f })
def State.port (s : State) (q : Nat) : Port := mget port0 s.pcl.ports q
def State.modPort (q : Nat) (f : Port → Port) (s : State) : State :=
  s.modPcl (fun x => { x with ports := mmod port0 x.ports q f })
def Port.vc (x : Port) (v : Nat) : Vc := mget vc0 x.vcs v
def State.modVc (q v : Nat) (f : Vc → Vc) (s : State) : State :=
  s.modPort q (fun x => { x with vcs := mmod vc0 x.vcs v f })
def State.bucket (s : State) (n : Nat) : Bucket := mget bucket0 s.pcl.buckets n
def State.modBucket (n : Nat) (f : Bucket → Bucket) (s : State) : State :=
  s.modPcl (fun x => { x with buckets := mmod bucket0 x.buckets n f })

/-- Something leaves the module. -/
def emit (o : Out) (s : State) : State := { s with out := o :: s.out }

/-- Is the host link up (R345, R427). -/
def hostUp (s : State) : Bool := s.host.mods != 0 && s.host.siteOn

/-- Credit class of a transaction (R348). -/
def Out.isPosted : Out → Bool
  | .mwr _ _ _ _ | .ntf _ _ _ _ | .cpl _ _ _ _ => true
  | _ => false
def Out.isNonposted : Out → Bool
  | .mrd _ _ _ => true
  | _ => false

/-- Has the device a credit for it (R349). -/
def HostLink.mayPay (h : HostLink) (o : Out) : Bool :=
  (!o.isPosted || decide (0 < h.posted)) && (!o.isNonposted || decide (0 < h.nonposted))

def HostLink.pay (o : Out) (h : HostLink) : HostLink :=
  { h with
    posted := h.posted - b2n o.isPosted
    nonposted := h.nonposted - b2n o.isNonposted
    unacked := if o.isPosted then h.unacked ++ [o] else h.unacked }

/-- Bytes filled with zeros to a length. -/
def padTo (n : Nat) (bs : List Byte) : List Byte := (bs ++ List.replicate (n - bs.length) 0).take n

/-- A transaction goes: it is paid for (R349). A notification of kind 0x1 is outstanding from now on (R361). -/
def sendOut (o : Out) (s : State) : State :=
  let s := match o with
    | .ntf 1 p _ arg => s.modQueue p (arg.toNat % 64) (fun u => { u with ntfOut := true })
    | _ => s
  emit o (s.modHost (HostLink.pay o))

/-- A completion entry (R359). -/
def completionBytes (w : Work) (u : Queue) (status count : Nat) (result : List Byte) : List Byte :=
  leBytes 4 w.cid.toNat ++ leBytes 2 u.sqhead.toNat ++ [BitVec.ofNat 8 w.typ, if u.phase then 1 else 0]
    ++ [BitVec.ofNat 8 status, 0] ++ leBytes 2 w.gen.toNat ++ leBytes 4 count ++ padTo 16 result

/-- Is a completion of a work item delivered: of the current generation, of a pair enabled since its entry was fetched (R326,
R355). -/
def delivers (s : State) (w : Work) : Bool :=
  w.gen == (s.part w.p).gen && (s.queue w.p w.q).en && w.ep == (s.queue w.p w.q).ep

/-- A notification's transaction (R361); it carries the current generation. -/
def ntfOf (s : State) (kind p arg : Nat) : Out := .ntf kind p (s.part p).gen (BitVec.ofNat 64 arg)

/-- The notification that a completion just written calls for (R361). -/
def cplNtf (s : State) (w : Work) : Option Out :=
  if w.notify && (s.queue w.p w.q).ien && !(s.queue w.p w.q).ntfOut then some (ntfOf s 1 w.p (w.q + 2 ^ 32 * w.gen.toNat)) else none

/-- A completion entry is written at CQTAIL (R355, R359), and its notification follows it at once or waits in front. -/
def sendCpl (w : Work) (status count : Nat) (result : List Byte) (s : State) : State :=
  if !delivers s w then s else
  let u := s.queue w.p w.q
  let next := (u.cqtail.toNat + 1) % 2 ^ u.cqs
  let s := sendOut (.mwr w.p w.gen (u.cqbase.toNat + 32 * u.cqtail.toNat) (completionBytes w u status count result)) s
  let s := s.modQueue w.p w.q (fun u => { u with
    cqtail := BitVec.ofNat 16 next
    phase := if next = 0 then !u.phase else u.phase
    flags := u.flags ++ [w.notify]
    opened := u.opened - 1 })
  match cplNtf s w with
  | none => s
  | some o => if s.host.mayPay o then sendOut o s else s.modHost (fun h => { h with held := h.held ++ [o] })

/-- One transaction of those held: it goes when nothing of its class waits before it and its credit is there. -/
def sendHeld (s : State) (o : Out) : State :=
  if s.host.mayPay o && !(s.host.held.any (fun x => x.isPosted == o.isPosted)) then
    match o with
    | .cpl w status count result => sendCpl w status count result s
    | _ => sendOut o s
  else s.modHost (fun h => { h with held := h.held ++ [o] })

/-- Send what is held and may go, in order within each class (R346). -/
def drainHeld (s : State) : State :=
  if hostUp s then s.host.held.foldl sendHeld (s.modHost (fun h => { h with held := [] })) else s

/-- A transaction falls due: it goes now, or waits for the link or for credit behind what waits already (R346, R349). -/
def hostSend (o : Out) (s : State) : State := drainHeld (s.modHost (fun h => { h with held := h.held ++ [o] }))

/-- Send bytes to host memory in writes of at most 256 bytes (R348). -/
def hostStore (p : Nat) (gen : Half) (addr : Nat) (bs : List Byte) (s : State) : State :=
  forEach (upTo (cdiv bs.length 256)) (fun i s => hostSend (.mwr p gen (addr + 256 * i) ((bs.drop (256 * i)).take 256)) s) s

/-- A notification of partition p (R361). While p is being dissolved none is sent (R339). -/
def notify (kind p : Nat) (arg : Nat) (s : State) : State :=
  if (s.part p).pstate = 4 then s else hostSend (ntfOf s kind p arg) s

/-- A work item completes (R326, R346, R355, R357, R359–R361): an old generation, or a pair disabled since the entry was fetched,
loses the completion. -/
def complete (w : Work) (status count : Nat) (result : List Byte) (s : State) : State :=
  if delivers s w then hostSend (.cpl w status count result) s else s

/-- A signature of the TC under the identity key, under the management key (R380). -/
def signId (s : State) (msg : List Byte) : List Byte := padTo 96 (Config.ecSign s.tc.idKey msg)
def signMgmt (s : State) (msg : List Byte) : List Byte := padTo 96 (Config.ecSign s.tc.mgmtKey msg)

/-- The answer to a management command (R398), signed under the management key when the command was. -/
def respond (op status : Nat) (counter : DWord) (body : List Byte) (sig : Bool) (s : State) : State :=
  let head := leBytes 4 0x5053525A ++ leBytes 2 1 ++ leBytes 2 op ++ leBytes 4 (24 + body.length + (if sig then 96 else 0))
    ++ [BitVec.ofNat 8 status, 0, 0, 0] ++ leBytes 8 counter.toNat ++ body
  emit (.mgmt op status counter body (if sig then signMgmt s head else [])) s

/-- Status codes (R360). -/
def stDone : Nat := 0
def stPending : Nat := 1
def stRefused : Nat := 2
def stDigest : Nat := 3
def stAborted : Nat := 4
def stPoison : Nat := 5
def stStale : Nat := 6
def stFault : Nat := 7

/-- An entry completes REFUSED by a unit's own check: one clamp under its source (R440). -/
def refuse (w : Work) (src : Nat) (s : State) : State := complete w stRefused 0 [] (clamp w.p src s)

/-- Is the delivery of one of a queue's steps still provisional: a gate at or before it is unresolved (R126). -/
def headProvisional (x : Part) (q : Nat) : Bool :=
  x.dlv.any (fun e => match e.2 with
    | some d => d.head.q == q && x.seq.gates.any (fun g => decide (g.id ≤ d.gid))
    | none => false)

/-- Is a queue held back by a TOKEN_STEP that has not been delivered (R364), by a delivery that an undo may take back (R126), or
frozen (R354). -/
def entryWaits (s : State) (p q : Nat) : Bool :=
  (s.part p).frozen || !(mget [] (s.part p).steps q).isEmpty || headProvisional (s.part p) q

/-- Does the entry at a queue's head spell a command (R358, R362): it has been fetched, and nothing before it is left to start. -/
def entryIs (s : State) (p : Nat) (h : EntryHead) (typ : Nat) (is : List Byte → Bool) : Bool :=
  match (s.queue p h.q.toNat).fetched with
  | e :: _ => spells typ h is e.bytes
  | [] => false

/-- The work item of the entry at a queue's head, tagged when it was fetched (R325, R355). -/
def workOf (s : State) (p : Nat) (h : EntryHead) (typ : Nat) : Work :=
  let u := s.queue p h.q.toNat
  ⟨p, h.q.toNat, h.notify, h.cid, typ, (match u.fetched with | e :: _ => e.ep | [] => u.ep), (s.part p).gen⟩

/-- The SQ head advances past an entry that has started (R364), in the pair that was enabled when the entry was fetched. -/
def headOn (w : Work) (s : State) : State :=
  s.modQueue w.p w.q (fun u => if u.ep = w.ep then { u with sqhead := BitVec.ofNat 16 ((u.sqhead.toNat + 1) % 2 ^ u.sqs) } else u)

/-- The SQ head returns to an entry whose start is taken back (R126). -/
def headBack (w : Work) (s : State) : State :=
  s.modQueue w.p w.q (fun u => if u.ep = w.ep then
    { u with sqhead := BitVec.ofNat 16 ((u.sqhead.toNat + 2 ^ u.sqs - 1) % 2 ^ u.sqs) } else u)

/-- Does an entry complete REFUSED for its type alone, with the clamp's source (R363, R370). -/
def badEntry (b : List Byte) : Option Nat :=
  let typ := (nth 0 b 0).toNat
  if b = [] then none
  else if typ = 0 ∨ 0x0A < typ then some 0xA
  else if typ = 6 ∧ 5 ≤ (nth 0 b 8).toNat % 8 then some 0xD
  else none

/-- Entries at the front of a queue that no unit takes complete REFUSED (R363). -/
def dropBad (p q : Nat) : Nat → State → State
  | 0, s => s
  | n + 1, s =>
    if entryWaits s p q then s else
    match (s.queue p q).fetched with
    | [] => s
    | e :: rest =>
      match badEntry e.bytes with
      | none => s
      | some src =>
        let w : Work := ⟨p, q, (nth 0 e.bytes 1).getLsbD 0, BitVec.ofNat 32 (leNat ((e.bytes.drop 4).take 4)), (nth 0 e.bytes 0).toNat,
          e.ep, (s.part p).gen⟩
        dropBad p q n (refuse w src (headOn w (s.modQueue p q (fun u => { u with fetched := rest }))))

/-- What follows when a queue's front may start. -/
def queueSettle (p q : Nat) (s : State) : State := dropBad p q (s.queue p q).fetched.length s

/-- The entry at a queue's head is no longer among those fetched. -/
def takeEntry (p q : Nat) (s : State) : State := s.modQueue p q (fun u => { u with fetched := u.fetched.drop 1 })

/-- The entry at a queue's head reaches its unit unless something holds its queue; a command that it does not spell finds nothing
to start (R358, R362, R364). -/
def reachHead (p : Nat) (h : EntryHead) (typ : Nat) (is : List Byte → Bool) (f : Work → State → State) (s : State) : State :=
  if entryWaits s p h.q.toNat || !entryIs s p h typ is then s
  else queueSettle p h.q.toNat (f (workOf s p h typ) (takeEntry p h.q.toNat s))

/-- An entry starts (R364): it is handed to its unit, and the head advances. -/
def startEntry (p : Nat) (h : EntryHead) (typ : Nat) (is : List Byte → Bool) (f : Work → State → State) (s : State) : State :=
  reachHead p h typ is (fun w s => f w (headOn w s)) s

/-- Is the device in Run, with no change of state on its way (R415). -/
def inRun (s : State) : Bool := s.pwr.state == 0 && s.pwr.change.isNone

/-- A wake event (R415, R416): below Run it starts the exit; while a state is entered it turns the entry round. -/
def wakeUp (s : State) : State :=
  if inRun s then s.modPwr (fun w => { w with elig := [] })
  else s.modPwr (fun w => { w with change := some (0, false), elig := [] })

/-- A cause bit rises (R480, R481): with interrupts enabled the module raises an in-band interrupt. -/
def setCause (i : Nat) (s : State) : State :=
  if s.mdl.cause.getLsbD i then s
  else
    let s := s.modMdl (fun m => { m with cause := m.cause ||| BitVec.ofNat 7 (2 ^ i) })
    if s.mdl.ibi && s.mdl.daddr.isSome then emit (.ibi s.mdl.cause.toNat) s else s

/-- ALERT_N is low while any cause is set (R480). -/
def alertLow (s : State) : Bool := s.mdl.cause != 0

/-- A port's role (R284): 0 unused, 1 collective, 2 storage, 3 twin; TP is port 6. -/
def roleOf (s : State) (q : Nat) : Nat := (mget 0 s.pcl.roles q).toNat

def portUp (s : State) (q : Nat) : Bool := (s.port q).state == 3

/-- A port leaves low-power idle (R424). -/
def portAwake (q : Nat) (s : State) : State := s.modPort q (fun x => { x with lpi := false, lpiSent := false, lpiGot := false })


/-- Frame and flit types (R278). -/
def tCredit : Nat := 1
def tBready : Nat := 2
def tHalt : Nat := 3
def tLink : Nat := 4
def tSend : Nat := 5
def tOpen : Nat := 6
def tContrib : Nat := 7
def tGather : Nat := 8
def tTrailer : Nat := 9
def tSwr : Nat := 0xA
def tSrd : Nat := 0xB
def tSrsp : Nat := 0xC
def tTwin : Nat := 0xD

/-- Head bytes 0–27 of a frame (R278). -/
def headBytes (typ : Nat) (f : Frame) : List Byte :=
  leBytes 28 (typ + put f.vc.toNat 4 3 + put (b2n f.last) 7 1 + put f.nflit.toNat 8 6 + put f.fmt.toNat 14 2
    + put f.src.toNat 16 24 + put f.dst.toNat 40 24 + put f.hop.toNat 64 16 + put f.tag.toNat 80 16 + put f.job.toNat 96 16
    + put f.step.toNat 112 16 + put f.offset.toNat 128 32 + put f.seq.toNat 160 16 + put f.attempt.toNat 176 3
    + put (b2n f.sat) 179 1 + put f.cvc.toNat 180 3 + put (b2n f.cval) 183 1 + put f.ccnt.toNat 184 12
    + put f.ack.toNat 196 16 + put (b2n f.nak) 212 1 + put (b2n f.empty) 213 1)

/-- A frame before it is sent: no SEQ, no credit fields. -/
def mkFrame (s : State) (vc tag job step offset : Nat) (payload : List Byte) : Frame :=
  { vc := BitVec.ofNat 3 vc, last := false, fmt := 0, src := s.pcl.id, dst := 0xFFFFFF, hop := 0,
    tag := BitVec.ofNat 16 tag, job := BitVec.ofNat 16 job, step := BitVec.ofNat 16 step,
    offset := BitVec.ofNat 32 offset, seq := 0, attempt := 0, sat := false, cval := false, cvc := 0, ccnt := 0, ack := 0,
    nak := false, empty := false, nflit := BitVec.ofNat 6 (cdiv payload.length 32), fcrc := 0, fecOk := true,
    payload := padTo (32 * cdiv payload.length 32) payload }

/-- Close a frame: SEQ, the credit fields of its VC's other direction, FCRC. -/
def closeFrame (typ : Nat) (seq : Half) (v : Vc) (f : Frame) : Frame :=
  let f := { f with seq := seq, cval := true, cvc := f.vc, ccnt := BitVec.ofNat 12 (Nat.min 4095 v.owed), ack := v.expect - 1, nak := v.nak }
  { f with fcrc := BitVec.ofNat 32 (crc32cOf (headBytes typ f ++ f.payload)) }
where
  /-- CRC-32C of R407, bit by bit. -/
  crc32cOf (bs : List Byte) : Nat := Nat.xor (bs.foldl step 0xFFFFFFFF) 0xFFFFFFFF
  step (c : Nat) (b : Byte) : Nat := (upTo 8).foldl (fun c _ => if c % 2 = 1 then Nat.xor (c / 2) 0x82F63B78 else c / 2) (Nat.xor c b.toNat)

/-- A control flit's 256 bits (R276, R279): TYPE, its fields in their places, FCRC over bytes 0–27. -/
def closeFlit (typ body : Nat) : Flit :=
  BitVec.ofNat 256 (typ + body + 2 ^ 224 * closeFrame.crc32cOf (leBytes 28 (typ + body)))

/-- A control flit leaves a port whose FEC is aligned (R277, R279, R284); it wakes a port in low-power idle (R424). -/
def sendFlit (q typ body : Nat) (s : State) : State :=
  if (s.port q).state.toNat < 2 then s
  else emit (.flit q (closeFlit typ body)) (if (s.port q).lpi then portAwake q s else s)

/-- The fields of the control flits (R279, R423). -/
def creditBits (vc nak n ack : Nat) : Nat := put vc 4 3 + put nak 7 1 + put n 8 12 + put ack 20 16
def breadyBits (vc tag job step : Nat) : Nat := put vc 4 3 + put tag 80 16 + put job 96 16 + put step 112 16
def haltBits (origin hop job reason : Nat) : Nat := put origin 16 24 + put hop 64 16 + put job 96 16 + put reason 128 16
def helloBits (id port role : Nat) : Nat := put id 16 24 + put port 40 3 + put role 43 3
def echoBits (reply stamp : Nat) : Nat := put (1 + reply) 8 4 + put stamp 128 32
def vcresetBits (vc job : Nat) : Nat := put 3 8 4 + put vc 4 3 + put job 96 16
def waketolBits (tol : Nat) : Nat := put 4 8 4 + put tol 16 16
def lpiBits : Nat := put 5 8 4

/-- A word of PCL_TOPOk (R315). -/
def topoW (s : State) (k j : Nat) : Nat := (mget 0 s.pcl.topo (8 * k + j)).toNat
def topoKind (s : State) (k : Nat) : Nat := fld (topoW s k 0) 0 2
def topoOwner (s : State) (k : Nat) : Nat := fld (topoW s k 0) 2 5
def topoJob (s : State) (k : Nat) : Nat := fld (topoW s k 0) 7 16
def topoD (s : State) (k : Nat) : Nat := fld (topoW s k 0) 23 16 + 1
def topoRank (s : State) (k : Nat) : Nat := fld (topoW s k 0) 39 16
def topoVc (s : State) (k : Nat) : Nat := fld (topoW s k 0) 55 3
def topoDn (s : State) (k dir : Nat) : Nat := fld (topoW s k 1) (6 * dir) 3
def topoUp (s : State) (k dir : Nat) : Nat := fld (topoW s k 1) (6 * dir + 3) 3
def topoChildren (s : State) (k : Nat) : List Nat := (upTo 6).filter (fun q => bit (fld (topoW s k 1) 12 6) q)
def topoLo (s : State) (k q : Nat) : Nat := if q < 4 then fld (topoW s k 2) (16 * q) 16 else fld (topoW s k 3) (16 * (q - 4)) 16
def topoHi (s : State) (k q : Nat) : Nat := if q < 2 then fld (topoW s k 3) (32 + 16 * q) 16 else fld (topoW s k 4) (16 * (q - 2)) 16

/-- Directions of a ring. -/
def topoDirs (s : State) (k : Nat) : List Nat := if topoKind s k = 2 then [0, 1] else [0]

/-- Ports of a topology. -/
def topoPorts (s : State) (k : Nat) : List Nat :=
  let ps := if topoKind s k = 3 then (if topoDn s k 0 = 7 then [] else [topoDn s k 0]) ++ topoChildren s k
    else (topoDirs s k).flatMap (fun d => [topoDn s k d, topoUp s k d])
  ps.eraseDups

/-- Topologies that a partition owns. -/
def toposOf (s : State) (p : Nat) : List Nat := (upTo 8).filter (fun k => topoKind s k != 0 && topoOwner s k == p)

/-- The topology that owns a VC of a port (R286). -/
def topoAt (s : State) (q v : Nat) : Option Nat :=
  (upTo 8).find? (fun k => topoKind s k != 0 && topoVc s k == v && (topoPorts s k).contains q)

/-- A DISSOLVE of the partition that owns a VC is under way (R312, R339). -/
def vcGlazed (s : State) (q v : Nat) : Bool :=
  match topoAt s q v with | some k => (s.part (topoOwner s k)).pstate == 4 | none => false

/-- Send what waits on a VC while its credits last (R281): one credit a flit, a frame only whole. A VC in a VCRESET exchange
or of a partition under a Glaze sends nothing. -/
def vcPump (q v : Nat) : Nat → State → State
  | 0, s => s
  | n + 1, s =>
    let x := (s.port q).vc v
    match x.queue with
    | [] => s
    | (typ, f) :: rest =>
      let need := 1 + f.nflit.toNat
      if portUp s q && !(s.port q).lpi && decide (need ≤ x.credits) && decide (x.sent.length < 32768) && !x.rst && !vcGlazed s q v then
        let g := closeFrame typ x.seq x f
        let s := s.modVc q v (fun x => { x with
          queue := rest, credits := x.credits - need, seq := x.seq + 1, sent := x.sent ++ [(typ, g)], owed := x.owed - 4095 })
        vcPump q v n (emit (.frame q typ g) s)
      else s

/-- A frame is given to a port. -/
def sendFrame (q typ : Nat) (f : Frame) (s : State) : State :=
  let v := f.vc.toNat
  let s := s.modVc q v (fun x => { x with queue := x.queue ++ [(typ, f)] })
  vcPump q v ((s.port q).vc v).queue.length s

/-- A TWIN record (R455). -/
def sendTwin (kind vc p index : Nat) (payload : List Byte) (s : State) : State :=
  sendFrame 6 tTwin (mkFrame s vc kind 0 p index payload) s

/-- Bucket slots of a partition (R288): first and count. -/
def slotBase (s : State) (p : Nat) : Nat := fld (mget 0 s.pcl.slots p).toNat 0 8
def slotCount (s : State) (p : Nat) : Nat := fld (mget 0 s.pcl.slots p).toNat 8 9

/-- BREADYs of a job that came on a port before its VCs were reset are gone (R286, R297). -/
def unready (q job : Nat) (s : State) : State :=
  s.modPort q (fun x => { x with ready := x.ready.filter (fun r => r.2.1 != BitVec.ofNat 16 job) })

/-- HALT on every port of every topology of p (R308). One that a received HALT has stopped sends none for the job whose HALT it
has forwarded (R309); a partition reset sends it all the same. The topology's VCs then wait for VCRESET (R286). -/
def sendHalts (p reason : Nat) (reset : Bool) (s : State) : State :=
  forEach (toposOf s p) (fun k s =>
    forEach (topoPorts s k) (fun q s =>
      let v := topoVc s k
      let s := if ((s.port q).vc v).rstGot then s else unready q (topoJob s k) s
      (if !reset && s.pcl.halted.contains (BitVec.ofNat 16 (topoJob s k)) then s
       else sendFlit q tHalt (haltBits s.pcl.id.toNat 0 (topoJob s k) reason) s).modVc q v (fun v =>
        { v with rst := true, rstSent := false, rstDue := false, queue := [] })) s) s

end Sys2Proof.Machine
end

