-- ==== Sys2Proof/Machine/Mirror.lean ====
section
/-!
DEFINITION. What the twin mirrors (R457): values of the running configuration section (R387), Crust grants, the records of
request contexts.
-/

namespace Sys2Proof.Machine

def State.slab (s : State) (n : Nat) : Slab := mget slab0 s.hbm.slabs n
def State.ctxRec (s : State) (c : Nat) : CtxRec := mget ctxRec0 s.fills.ctxs c

/-- Does a slab table entry grant to p (R217). -/
def Slab.grants (e : Slab) (p : Nat) : Bool := e.valid && (if e.shared then e.grant.getLsbD p else e.owner.toNat == p)

/-- A little-endian number of the running configuration section. -/
def cfgNum (s : State) (off n : Nat) : Nat := leNat ((s.tc.cfg.drop off).take n)

/-- Fields of partition p's entry (R387). -/
def partEntry (s : State) (p off n : Nat) : Nat := cfgNum s (0x400 + 32 * p + off) n
def fbase (s : State) (p : Nat) : Nat := partEntry s p 4 2
def fcount (s : State) (p : Nat) : Nat := partEntry s p 6 2
def cbase (s : State) (p : Nat) : Nat := partEntry s p 8 2
def ccount (s : State) (p : Nat) : Nat := partEntry s p 10 4

/-- Crust region v: first slab, slab count, key slot (R387). -/
def crustFirst (s : State) (v : Nat) : Nat := cfgNum s (0x148 + 8 * v) 2
def crustSlabs (s : State) (v : Nat) : Nat := cfgNum s (0x14A + 8 * v) 2
def crustKslot (s : State) (v : Nat) : Nat := cfgNum s (0x14C + 8 * v) 1 % 8
def crustRegion (s : State) (v : Nat) : List Nat := (upTo (crustSlabs s v)).map (fun i => crustFirst s v + i)

/-- CDIG of a Crust version (R411), its lowest 4 bytes as ATTACH carries them (R455): 0 unless the version is Present or
Retiring. -/
def crustDig (s : State) (v : Nat) : Word :=
  let c := mget crust0 s.fills.crusts v
  if 2 ≤ c.state.toNat then BitVec.ofNat 32 (leNat (c.digest.take 4)) else 0

/-- Is a Crust version granted to a partition (R180). -/
def crustGranted (s : State) (p v : Nat) : Bool := (crustRegion s v).any (fun n => (s.slab n).shared && (s.slab n).grants p)

/-- Is a partition mirrored while the pair is paired (R457): defined, and each Crust version granted to it has one CDIG on
both modules. -/
def mirrorable (s : State) (p : Nat) : Bool :=
  (s.part p).pstate != 0 && (!crustGranted s p 0 || crustDig s 0 == s.twin.peerDig.1)
    && (!crustGranted s p 1 || crustDig s 1 == s.twin.peerDig.2)

/-- TWN_STAT.MIRRORED (R457, R467): bit p. -/
def mirroredNow (s : State) (p : Nat) : Bool :=
  (s.twin.role == 1 || s.twin.role == 2) && s.twin.paired && mirrorable s p

/-- Does the twin mirror a partition from this module (R457). While p is being dissolved its mirror sends nothing but the record
of its reset (R339). -/
def mirrors (s : State) (p : Nat) : Bool := s.twin.role == 1 && mirroredNow s p && (s.part p).pstate != 4

/-- A STANDBY module refuses serving work of mirrored partitions, a HELD module that of every partition (R454, R458). -/
def standbyRefuses (s : State) (p : Nat) : Bool := (s.twin.role == 2 && mirroredNow s p) || s.twin.role == 3

/-- Bytes of a context's 32-byte record (R190, R367). -/
def ctxBytes (c : CtxRec) : List Byte :=
  leBytes 8 (c.fidx.toNat + 2 ^ 14 * b2n c.none_ + 2 ^ 15 * b2n c.pinned + 2 ^ 16 * c.pgen.toNat + 2 ^ 32 * b2n c.stale + 2 ^ 33 * b2n c.cv)
    ++ [BitVec.ofNat 8 (b2n c.active + 2 * b2n c.inflight), 0, 0, 0] ++ leBytes 4 c.tokens.toNat ++ List.replicate 16 0

/-- Context c of partition p changes; a mirrored one is sent (R457). -/
def modCtxRec (p c : Nat) (f : CtxRec → CtxRec) (s : State) : State :=
  let n := cbase s p + c
  let s := s.modFills (fun x => { x with ctxs := mmod ctxRec0 x.ctxs n f })
  if mirrors s p then sendTwin 0x12 1 p 0 (leBytes 8 c ++ ctxBytes (s.ctxRec n)) s else s

end Sys2Proof.Machine
end

