-- ==== Sys2Proof/Machine/Halt.lean ====
section
/-!
DEFINITION. Faults: a Partition-fatal fault halts its partition (R431), a Device-fatal fault halts them all (R432).
-/

namespace Sys2Proof.Machine

/-- A sequencer with issue stopped, its provisional state and commit queue discarded (R431 step 1). -/
def Seq.stopped (q : Seq) : Seq :=
  { q with gates := [], stall := none, heldFlip := none, heldLoad := none, undo := none, switch := none,
           preempt := false, commitQ := [] }

/-- The context's running PROGRAM_RUN completes FAULT (R431): RESULT bytes 16–23 hold the bundles issued (R366). -/
def faultRun (p : Nat) (b : Bool) (s : State) : State :=
  let c := if b then (s.part p).ctxB else (s.part p).ctxF
  match c.head with
  | some w => (complete w stFault 0 (leBytes 8 c.nissued) s).modCtx p b (fun c => { c with loaded := false, head := none })
  | none => s.modCtx p b (fun c => { c with loaded := false })

/-- Delivered TOKEN_STEPs complete FAULT; their slots free and their contexts are no longer in flight (R431). -/
def faultSteps (p : Nat) (s : State) : State :=
  let ds := (s.part p).dlv.filterMap (·.2)
  let s := forEach ds (fun d s => modCtxRec p d.body.ctx.toNat (fun c => { c with inflight := false }) (complete d.head stFault 0 [] s)) s
  s.modPart p (fun q => { q with dlv := [] })

/-- A checkpoint of p in progress is abandoned with a cause (R431, R447): its CHECKPOINT_NOWs complete `status`. -/
def abandonCheckpoints (p status cause : Nat) (s : State) : State :=
  let k := (s.part p).ckp
  let s := forEach k.jobs (fun j s =>
    let s := report 0 9 0x70 p (k.cseq + cause * 2 ^ 56) s
    forEach j.works (fun w s => complete w stAborted 0 [] s) s) s
  let s := forEach k.nows (fun w s => complete w status 0 [] s) s
  s.modPart p (fun q => { forEach (upTo 8) (fun k q => q.setDrain k false) q with
    ckp := { q.ckp with jobs := [], nows := [], restore := none, fails := Nat.min 0xFFF (q.ckp.fails + q.ckp.jobs.length) } })

/-- Halt partition `p` with a HALT reason (R431). -/
def haltPart (p : Nat) (reason : Nat) (s : State) : State :=
  let jobFault := (s.part p).ctxB.loaded
  let s := s.modPart p (fun q => { q with seq := q.seq.stopped })
  let s := faultRun p true (faultRun p false s)
  let s := forEach (s.part p).runs (fun r s => complete r.work stFault 0 [] s) s
  let s := faultSteps p s
  let s := sendHalts p reason false s
  let s := abandonCheckpoints p stFault 5 s
  let s := if jobFault then s.modObs (fun o => (o.1, o.2 + 1)) else s
  notify 3 p (5 + 2 ^ 32 * (s.part p).gen.toNat)
    (s.modPart p (fun q => { q with pstate := 5, runs := [], frozen := true }))

/-- A Partition-fatal fault of `p`: reported, and the partition halts unless it has already (R431, R433). -/
def partFault (p src code arg : Nat) (s : State) : State :=
  let s := wakeUp (report 3 src code p arg s)
  if (s.part p).live then haltPart p code s else s

/-- A VC of a port that goes DOWN: what it held and its credits are gone, a VCRESET exchange stands (R285, R286). -/
def Vc.onDown (x : Vc) : Vc := { vc0 with rst := x.rst, rstSent := x.rstSent, rstDue := x.rstDue, rstGot := x.rstGot }

/-- A port goes DOWN (R285): what it held and its credits are gone. It then trains again (R284), unless it is to stay DOWN. -/
def downPort (q : Nat) (trains : Bool) (s : State) : State :=
  let st : BitVec 2 := if trains then 1 else 0
  if (s.port q).state.toNat < 2 then s.modPort q (fun x => { x with state := if x.state = 0 then 0 else st })
  else s.modPort q (fun x => { x with
    state := st, downs := Nat.min 0xFFFF (x.downs + 1)
    vcs := (upTo 8).foldl (fun m v => mset vc0 m v ((x.vc v).onDown)) x.vcs
    ready := [], echoAt := none, tolOk := false, lpi := false, lpiSent := false, lpiGot := false })

/-- A Device-fatal fault (R432, R433): every partition halts with the fault's code as REASON, a FAIL record goes to the twin,
twin sense is released, and every port other than TP goes DOWN. -/
def deviceFault (src code arg : Nat) (s : State) : State :=
  let s := wakeUp (report 4 src code 0xFF arg s)
  if s.mdl.fatal then s else
  let s := s.modMdl (fun m => { m with fatal := true })
  let s := forEach (upTo 32) (fun p s => if (s.part p).live then haltPart p code s else s) s
  let s := sendTwin 4 0 0 0 (leBytes 2 code) s
  let s := s.modMdl (fun m => { m with twsOut := false })
  forEach (upTo 6) (fun q s => downPort q false s) s

/-- The newest unresolved gate a piece of work was issued after, by the gate it carries (0: none). -/
def Seq.holder (q : Seq) (gid : Nat) : Option Gate := (q.gates.filter (fun g => decide (g.id ≤ gid))).getLast?

/-- The gate that work issued now carries (R126). -/
def Seq.gid (q : Seq) : Nat := match q.gates.getLast? with | some g => g.id | none => 0

/-- Put an externally visible action into the commit queue (R130). -/
def cqPush (p size : Nat) (a : CqAct) (s : State) : State :=
  s.modSeq p (fun q => { q with commitQ := q.commitQ ++ [⟨q.gid, size, a⟩] })

/-- Poison is consumed by a unit of `p` (R254): a Partition-fatal fault that the unit reports, held while its gate is
unresolved. -/
def consumeAt (p gid unit : Nat) (s : State) : State :=
  match (s.seq p).holder gid with
  | some g => s.modSeq p (fun q => { q with commitQ := q.commitQ ++ [⟨g.id, 1, .fault 0x30 (BitVec.ofNat 64 unit)⟩] })
  | none => partFault p unit 0x30 unit s

end Sys2Proof.Machine
end

