-- ==== Sys2Proof/Machine/Flags.lean ====
section
/-!
DEFINITION. The sticky flags of the tiles' units: ARR_STAT, VEC_STAT, UPD_STAT and UPD_NFCNT (R35, R53, R59, R95, R171, R176). A
flag raised by work that was issued after an unresolved gate is held with the gate and kept when it commits.
-/

namespace Sys2Proof.Machine

/-- Set flags of an array, held while the gate they were issued after is unresolved (R59). -/
def setArrFlag (p gid t a : Nat) (f : Word) (s : State) : State :=
  if f = 0 then s else
  match (s.seq p).holder gid with
  | some g => s.modSeq p (fun q => { q with gates := q.gates.map (fun g' =>
      if g'.id = g.id then { g' with flags := g'.flags ++ [.arr (BitVec.ofNat 7 t) (BitVec.ofNat 2 a) f] } else g') })
  | none => s.modTile t (fun tl => { tl with arrStat := mset 0 tl.arrStat a (mget 0 tl.arrStat a ||| f) })

/-- Set VEC flags (R95). -/
def setVecFlag (p gid t : Nat) (f : BitVec 4) (s : State) : State :=
  if f = 0 then s else
  match (s.seq p).holder gid with
  | some g => s.modSeq p (fun q => { q with gates := q.gates.map (fun g' =>
      if g'.id = g.id then { g' with flags := g'.flags ++ [.vec (BitVec.ofNat 7 t) f] } else g') })
  | none => s.modTile t (fun tl => { tl with vec := { tl.vec with stat := tl.vec.stat ||| f } })

/-- Add kept elements to UPD_NFCNT (R176). -/
def addKept (p n : Nat) (s : State) : State :=
  s.modPart p (fun q => q.setReg 0x30C1 (Nat.min 0xFFFFFFFF (q.reg 0x30C1 + n)))

/-- Set UPD flags and count kept elements (R171). -/
def setUpdFlag (p gid t : Nat) (f : BitVec 4) (kept : Nat) (s : State) : State :=
  if f = 0 ∧ kept = 0 then s else
  match (s.seq p).holder gid with
  | some g => s.modSeq p (fun q => { q with gates := q.gates.map (fun g' =>
      if g'.id = g.id then { g' with flags := g'.flags ++ [.upd (BitVec.ofNat 7 t) f kept] } else g') })
  | none => addKept p kept (s.modTile t (fun tl => { tl with updStat := tl.updStat ||| f }))

/-- Keep a held flag at its gate's commit. -/
def keepFlag (p : Nat) (h : HeldFlag) (s : State) : State :=
  match h with
  | .arr t a f => s.modTile t.toNat (fun tl =>
      { tl with arrStat := mset 0 tl.arrStat a.toNat (mget 0 tl.arrStat a.toNat ||| f) })
  | .vec t f => s.modTile t.toNat (fun tl => { tl with vec := { tl.vec with stat := tl.vec.stat ||| f } })
  | .upd t f n => addKept p n (s.modTile t.toNat (fun tl => { tl with updStat := tl.updStat ||| f }))

/-- ARR_STAT bits (R53). -/
def arrSat : Word := 1
def arrInf : Word := 2
def arrNan : Word := 4

end Sys2Proof.Machine
end

