-- ==== Sys2Proof/Machine/Flight.lean ====
section
/-!
DEFINITION. Writes on their way and the cycle in which they land: every fixed latency of the spec is an entry of
`Seq.inflight` with the cycle from which its result is visible (R98). Landing applies the precedence of R112, the
poison marks of R253 and the saved segments of R127.
-/

namespace Sys2Proof.Machine

def TMem.idx : TMem → Nat
  | .scratch => 0
  | .lb => 1
  | .side => 2

/-- Bytes of a tile's memory. -/
def TMem.size : TMem → Nat
  | .scratch => 8388608
  | .lb => 262144
  | .side => 16384

def Tile.bytes (k : TMem) (t : Tile) : Mem := match k with | .scratch => t.scratch | .lb => t.lb | .side => t.side

def Tile.setBytes (k : TMem) (m : Mem) (t : Tile) : Tile :=
  match k with
  | .scratch => { t with scratch := m }
  | .lb => { t with lb := m }
  | .side => { t with side := m }

/-- The poison mark of a line; the side-store has none. -/
def Tile.pois (k : TMem) (t : Tile) (line : Nat) : Bool :=
  match k with
  | .scratch => mget false t.spoison line
  | .lb => mget false t.lpoison line
  | .side => false

def Tile.setPois (k : TMem) (line : Nat) (v : Bool) (t : Tile) : Tile :=
  match k with
  | .scratch => { t with spoison := mset false t.spoison line v }
  | .lb => { t with lpoison := mset false t.lpoison line v }
  | .side => t

/-- Number of a saved segment: tile, memory, 256-byte segment. -/
def segKey (k : TMem) (t seg : Nat) : Nat := (t * 3 + k.idx) * 32768 + seg

/-- The old contents of a segment (R127). -/
def saveSeg (k : TMem) (tl : Tile) (seg : Nat) : Seg :=
  ⟨rdBytes (tl.bytes k) (256 * seg) 256, (upTo 4).map (fun j => tl.pois k (4 * seg + j))⟩

/-- Write a saved segment back. -/
def restoreSeg (k : TMem) (seg : Nat) (sg : Seg) (tl : Tile) : Tile :=
  let tl := tl.setBytes k (wrBytes (tl.bytes k) (256 * seg) sg.bytes)
  (List.zip (upTo 4) sg.pois).foldl (fun tl e => tl.setPois k (4 * seg + e.1) e.2) tl

/-- A saved segment, segment `seg` of its tile, takes the bytes and the poison mark of a write. -/
def patchSeg (seg byte : Nat) (bs : List (Bool × Byte)) (pois : Bool) (sg : Seg) : Seg :=
  let b0 := 256 * seg
  let put (x : Nat) : Option Byte := if byte ≤ x then (match bs[x - byte]? with | some (true, v) => some v | _ => none) else none
  ⟨List.zipWith (fun j (old : Byte) => (put (b0 + j)).getD old) (upTo 256) sg.bytes,
    List.zipWith (fun l (old : Bool) => if (upTo 64).any (fun j => (put (b0 + 64 * l + j)).isSome) then pois else old) (upTo 4) sg.pois⟩

/-- Save, for each gate the write comes after, the segments it touches; a write from before a gate also changes that
gate's saved copies, marks included (R253), so that an undo never removes committed data (R127). -/
def gateSave (k : TMem) (t : Nat) (tl : Tile) (gid byte : Nat) (bs : List (Bool × Byte)) (pois : Bool) (g : Gate) : Gate :=
  let lo := byte / 256
  let n := (byte + bs.length + 255) / 256 - lo
  if g.id ≤ gid then
    { g with undo := (upTo n).foldl (fun u i =>
        match mget none u (segKey k t (lo + i)) with
        | some _ => u
        | none => mset none u (segKey k t (lo + i)) (some (saveSeg k tl (lo + i)))) g.undo }
  else
    { g with undo := (upTo n).foldl (fun u i =>
        match mget none u (segKey k t (lo + i)) with
        | none => u
        | some sg => mset none u (segKey k t (lo + i)) (some (patchSeg (lo + i) byte bs pois sg))) g.undo }

/-- The clamp source of the writer whose data are discarded (R112). -/
def rankSrc (r : Nat) : Nat := [5, 5, 6, 0xA, 4, 1, 2, 3].getD r 3

/-- Does a write of this cycle enable a byte. -/
def Hot.covers (h : Hot) (x : Nat) : Bool := decide (h.lo ≤ x) && h.mask.getD (x - h.lo) false

/-- A collision already counted turns out to be that of a higher-ranked discarded writer (R112, R343). -/
def recodeClamp (p old new : Nat) (s : State) : State :=
  s.modPart p (fun q => { q with
    clampSrc := if q.clampSrc = BitVec.ofNat 4 old then BitVec.ofNat 4 new else q.clampSrc
    clampLow := q.clampLow.map (fun m => if m = BitVec.ofNat 4 old then BitVec.ofNat 4 new else m) })

/-- Count the collision of a line whose highest-ranked discarded writer, so far, is `r`: once per line and cycle (R112). -/
def countHit (p : Nat) (k : TMem) (t l r : Nat) (s : State) : State :=
  let t7 := BitVec.ofNat 7 t
  match (s.seq p).hotLines.find? (fun e => e.1 == k && e.2.1 == t7 && e.2.2.1 == l) with
  | none => clamp p (rankSrc r) (s.modSeq p (fun q => { q with hotLines := (k, t7, l, r) :: q.hotLines }))
  | some e =>
    if e.2.2.2 ≤ r then s
    else recodeClamp p (rankSrc e.2.2.2) (rankSrc r)
      (s.modSeq p (fun q => { q with hotLines := q.hotLines.map (fun x => if x = e then (k, t7, l, r) else x) }))

/-- One write of bytes to a tile's memory, from within the partition (R72, R112, R127, R146, R253). `pois` is the mark its lines
take. Writes meet in a byte that both enable; of two, the one of the larger rank is discarded. -/
def writeTile (p gid : Nat) (k : TMem) (t byte : Nat) (bs : List (Bool × Byte)) (rank : Nat) (pois : Bool) (s : State) :
    State :=
  let q := s.seq p
  let met := q.hot.filter (fun h => h.k == k && h.t.toNat == t && decide (h.lo < byte + bs.length) &&
    decide (byte < h.lo + h.mask.length) && h.rank != rank)
  let bs' := bs.zipIdx.map (fun e => (e.1.1 && !(met.any (fun h => decide (h.rank < rank) && h.covers (byte + e.2))), e.1.2))
  let lines := (upTo ((byte + bs.length + 63) / 64 - byte / 64)).map (fun i => byte / 64 + i)
  -- two Movers of one tile are not counted
  let s := lines.foldl (fun s l =>
    let hit := met.filter (fun h => !(decide (h.rank ≤ 1) && decide (rank ≤ 1)) &&
      (upTo 64).any (fun j => h.covers (64 * l + j) && decide (byte ≤ 64 * l + j) && (bs.getD (64 * l + j - byte) (false, 0)).1))
    match hit.map (fun h => Nat.max h.rank rank) with
    | [] => s
    | r :: rs => countHit p k t l (rs.foldl Nat.min r) s) s
  let tl := s.tile t
  let s := s.modSeq p (fun q => { q with
    gates := q.gates.map (gateSave k t tl gid byte bs' pois)
    hot := q.hot ++ [⟨k, BitVec.ofNat 7 t, byte, bs.map (·.1), rank⟩] })
  s.modTile t (fun tl =>
    let tl := tl.setBytes k (wrMasked (tl.bytes k) byte bs')
    lines.foldl (fun tl l =>
      if bs'.zipIdx.any (fun e => e.1.1 && (byte + e.2) / 64 == l) then tl.setPois k l pois else tl) tl)

/-- A column adds its groups into an entry (R29, R30, R35). -/
def accStep (ow int : Bool) (e : Nat) (old : Word) (gs : List Word) : Word × Word :=
  if int then
    let g := nth 0 gs 0
    if ow then (g, 0)
    else
      let v := old.toInt + g.toInt
      if v < -2147483648 then (0x80000000, arrSat ||| BitVec.ofNat 32 (2 ^ (16 + e / 64)))
      else if 2147483647 < v then (0x7FFFFFFF, arrSat ||| BitVec.ofNat 32 (2 ^ (16 + e / 64)))
      else (BitVec.ofInt 32 v, 0)
  else
    let start : Word × List Word := if ow then (nth 0 gs 0, gs.drop 1) else (old, gs)
    start.2.foldl (fun (acc : Word × Word) g =>
      let r := fadd acc.1 g
      (r, acc.2 ||| (if isInf32 r && isFin32 acc.1 && isFin32 g then arrInf else 0)
        ||| (if isNan32 r then arrNan else 0))) (start.1, 0)

/-- Raw bits of cell element i of a 64-element plane line (R25, R47's format codes): 8-bit, FP6, FP4 pair, 16-bit. -/
def cellOf (fmt : Nat) (bytes : List Byte) (i : Nat) : Half :=
  if fmt = 6 ∨ fmt = 7 then BitVec.ofNat 16 (fld (leNat (bytes.take 48)) (6 * i) 6)
  else if fmt = 9 ∨ fmt = 10 then BitVec.ofNat 16 ((nth 0 bytes (2 * i)).toNat + 256 * (nth 0 bytes (2 * i + 1)).toNat)
  else BitVec.ofNat 16 (nth 0 bytes i).toNat

/-- FMT codes 0x9 and 0xA are the 16-bit class, 0xB and 0xC integers, 0x4–0x8 MX formats, 0x8 MXFP4 (R49). -/
def fmtWide (f : Nat) : Bool := f == 9 || f == 10
def fmtInt (f : Nat) : Bool := f == 11 || f == 12
def fmtMx (f : Nat) : Bool := decide (4 ≤ f) && decide (f ≤ 8)

/-- KV after R48's reductions: valid rows or columns, or contraction elements for MXFP4 with WT = 0. -/
def loadKv (l : ArrSlot) : Nat :=
  if l.fmt = 8 ∧ l.wt = false then (if l.kv = 0 then 128 else l.kv.toNat)
  else if l.kv = 0 ∨ 64 < l.kv.toNat then 64 else l.kv.toNat
def loadNv (l : ArrSlot) : Nat := if l.nv = 0 then 64 else l.nv.toNat

/-- Does source line r of a LOAD hold anything valid; an invalid one is not read (R36). -/
def loadReads (l : ArrSlot) (r : Nat) : Bool :=
  if l.fmt = 8 ∧ l.wt = false then decide (2 * r < loadKv l) else decide (r < loadKv l)

/-- The loader's stride of a LOAD (R36, R56). -/
def loadStride (q : Part) (l : LoadRec) : Nat := l.stride.getD (fld (q.reg (0x1210 + l.sl.spstr.toNat)) 0 17)

/-- Scratchpad line of source line r (R36). -/
def loadLine (q : Part) (l : LoadRec) (r : Nat) : Nat :=
  spLine (l.sl.spa.toNat + fld l.base.toNat 12 17 + r * loadStride q l)

/-- The loader writes row or column r of the shadow plane (R36). The spec does not say in which cycle source line r is read: it
is read in the cycle in which row r is written (DESIGN CHOICE, log entry 120). -/
def planeLine (q : Part) (l : LoadRec) (r : Nat) (tl : Tile) (pl : Plane) : Plane :=
  let f := l.sl.fmt.toNat
  let ln := loadLine q l r
  let bytes := rdBytes tl.scratch (64 * ln) 64 ++ (if fmtWide f then rdBytes tl.scratch (64 * spLine (ln + 1)) 64 else [])
  let val (i : Nat) : Half :=
    if !(loadReads l.sl r) || decide (loadNv l.sl ≤ i) then 0
    else
      let c := cellOf f bytes i
      if f = 8 ∧ l.sl.wt = false ∧ loadKv l.sl ≤ 2 * r + 1 then c &&& 0x0F else c
  { pl with
    fmt := l.sl.fmt
    cells := (upTo 64).foldl (fun m i =>
      mset 0 m (if l.sl.wt then 64 * i + r else 64 * r + i) (val i)) pl.cells }

/-- One source line is poisoned. -/
def loadPois (q : Part) (l : LoadRec) (r : Nat) (tl : Tile) : Bool :=
  loadReads l.sl r && (let ln := loadLine q l r
    tl.pois .scratch ln || (fmtWide l.sl.fmt.toNat && tl.pois .scratch (spLine (ln + 1))))

/-- The lines of the weight scale record (R37). -/
def scaleLines (l : LoadRec) : List Nat :=
  (upTo 4).map (fun j => spLine (l.sl.spa.toNat + fld l.base.toNat 12 17 + fld l.base.toNat 29 17 + j))

/-- The weight scale record (R37), read in the cycle of the plane's last line (DESIGN CHOICE, log entry 120). -/
def planeScales (l : LoadRec) (tl : Tile) (pl : Plane) : Plane :=
  let bytes := (scaleLines l).flatMap (fun n => rdBytes tl.scratch (64 * n) 64)
  { pl with scales := bytes.zipIdx.foldl (fun m e => mset 0 m e.2 e.1) [] }

/-- Order of landings within a cycle: memory writes by precedence, then what reads or adds. ACLR's +0 and ACC_LOAD's words come
before the array updates of the cycle: R34 settles it for ACC_LOAD, for ACLR it is a DESIGN CHOICE (log entry 120). -/
def Write.prio : Write → Nat
  | .mem _ _ _ _ r => r
  | .mover _ _ _ _ _ _ m => if m = 1 then 0 else 1
  | .accSet _ _ _ _ => 8
  | .accAdd _ _ _ _ _ _ _ _ => 9
  | .accStore _ _ _ _ => 10
  | .loadStart _ _ _ => 11
  | .planeLine _ _ _ _ => 12
  | .planeScales _ _ => 13
  | _ => 14

/-- Insert a landing: earlier cycles first, then by precedence, then in order of issue. -/
def insLanding (l : Landing) : List Landing → List Landing
  | [] => [l]
  | x :: xs =>
    if l.at_ < x.at_ ∨ (l.at_ = x.at_ ∧ l.w.prio < x.w.prio) then l :: x :: xs else x :: insLanding l xs

/-- Launch a write, visible from cycle `at_`, under the gate that work issued now carries. -/
def launch (p at_ : Nat) (w : Write) (s : State) : State :=
  s.modSeq p (fun q => { q with inflight := insLanding ⟨at_, q.gid, w⟩ q.inflight })

/-- A Mover line reaches its destination (R110–R112): the token's count goes down. -/
def landMover (p gid : Nat) (k : TMem) (ts : List TileId) (byte : Nat) (bs : List Byte) (pois : Bool) (tok : BitVec 4)
    (m : BitVec 1) (s : State) : State :=
  let s := forEach ts (fun t s => writeTile p gid k t.toNat byte (bs.map (fun b => (true, b))) (if m = 1 then 0 else 1)
    pois s) s
  s.modSeq p (fun q => { q with
    movTok := mset 0 q.movTok tok.toNat (mget 0 q.movTok tok.toNat - 1), movAt := mset 0 q.movAt tok.toNat q.hotCyc })

/-- What was issued before an unresolved gate and lands after it also enters that gate's snapshot, so that an undo does not
take it back (R98, R127). -/
def snapPatch (p gid : Nat) (f : Snap → Snap) (s : State) : State :=
  s.modSeq p (fun q => { q with gates := q.gates.map (fun g => if g.id ≤ gid then g else { g with snap := f g.snap }) })

/-- One write lands. -/
def land (p : Nat) (l : Landing) (s : State) : State :=
  match l.w with
  | .sreg b d v =>
    snapPatch p l.gid (fun n => { n with sregs := mset 0 n.sregs d.toNat v }) (s.modCtx p b (Ctx.setSreg d.toNat v))
  | .reg b a v => regWrite p b a.toNat v.toNat s
  | .mem k t byte bs rank => writeTile p l.gid k t.toNat byte bs rank false s
  | .mover k ts byte bs pois tok m => landMover p l.gid k ts byte bs pois tok m s
  | .accAdd t a e c ow int gf gs =>
    let key := (1024 * a.toNat + e) * 64 + c
    let r := accStep ow int e (mget 0 (s.tile t.toNat).acc key) gs
    setArrFlag p l.gid t.toNat a.toNat (r.2 ||| gf)
      (s.modTile t.toNat (fun tl => { tl with acc := mset 0 tl.acc key r.1 }))
  | .accStore t a e line =>
    let bytes := (upTo 64).flatMap (fun c =>
      leBytes 4 (mget 0 (s.tile t.toNat).acc ((1024 * a.toNat + e) * 64 + c)).toNat)
    forEach (upTo 4) (fun j s => writeTile p l.gid .scratch t.toNat (64 * spLine (line + j))
      (((bytes.drop (64 * j)).take 64).map (fun b => (true, b))) 5 false s) s
  | .accSet t a e ws =>
    s.modTile t.toNat (fun tl =>
      let acc' := ws.zipIdx.foldl (fun m w => mset 0 m ((1024 * a.toNat + e) * 64 + w.2) w.1) tl.acc
      { tl with acc := acc' })
  | .loadStart a b r =>
    snapPatch p l.gid (fun n => { n with recS := mput n.recS a.toNat r })
      (s.modCtx p b (fun c => { c with recS := mput c.recS a.toNat r }))
  | .planeLine a r i _ =>
    let q := s.part p
    let s := if q.tiles.any (fun t => loadPois q r i (s.tile t)) then consumeAt p l.gid 3 s else s
    forEach q.tiles (fun t s => s.modTile t (fun tl =>
      { tl with shadow := mmod plane0 tl.shadow a.toNat (planeLine q r i tl) })) s
  | .planeScales a r =>
    let q := s.part p
    let s := if q.tiles.any (fun t => (scaleLines r).any (fun n => (s.tile t).pois .scratch n)) then consumeAt p l.gid 3 s else s
    forEach q.tiles (fun t s => s.modTile t (fun tl =>
      { tl with shadow := mmod plane0 tl.shadow a.toNat (planeScales r tl) })) s
  | .vreg t r ws =>
    s.modTile t.toNat (fun tl =>
      let vregs' := ws.zipIdx.foldl (fun m w => mset 0 m (128 * r + w.2) w.1) tl.vec.vregs
      { tl with vec := { tl.vec with vregs := vregs' } })
  | .mask t m v => s.modTile t.toNat (fun tl => { tl with vec := { tl.vec with masks := mset 0 tl.vec.masks m v } })
  | .vflags t f => setVecFlag p l.gid t.toNat f s
  | .uflags t f n => setUpdFlag p l.gid t.toNat f n s

/-- A loader's running LOAD gives way to the waiting one when its time has come (R36). -/
def Loader.settle (c : Nat) (l : Loader) : Loader :=
  match l.running, l.waiting with
  | some r, some w =>
    if r.last < c then
      (if w.last < c then { l with running := none, waiting := none } else { l with running := some w, waiting := none })
    else l
  | some r, none => if r.last < c then { l with running := none } else l
  | none, some w => { l with running := some w, waiting := none }
  | none, none => l

/-- Land one write in its own cycle. -/
def landAt (p : Nat) (l : Landing) (s : State) : State :=
  let s := if (s.seq p).hotCyc = l.at_ then s
    else s.modSeq p (fun q => { q with hot := [], hotLines := [], hotCyc := l.at_ })
  land p l s

/-- The clock of partition `p` reaches cycle `c`: what is due and passes `go` lands (R98). -/
def advanceIf (go : Landing → Bool) (p c : Nat) (s : State) : State :=
  let q := s.seq p
  let due (l : Landing) : Bool := decide (l.at_ ≤ c) && go l
  let s := s.modSeq p (fun q => { q with inflight := q.inflight.filter (fun l => !due l) })
  let s := forEach (q.inflight.filter due) (landAt p) s
  s.modSeq p (fun q => { q with
    cyc := Nat.max q.cyc c
    hot := if q.hotCyc < c then [] else q.hot
    hotLines := if q.hotCyc < c then [] else q.hotLines
    hotCyc := Nat.max q.hotCyc c
    loaders := q.loaders.filterMap (fun e =>
      let l := e.2.settle c
      if l = loader0 then none else some (e.1, l)) })

/-- The clock reaches a cycle at which a bundle may issue: everything due lands. -/
def advance (p c : Nat) (s : State) : State := advanceIf (fun _ => true) p c s

/-- Is a write not that of a register. -/
def notReg (l : Landing) : Bool := match l.w with | .reg _ _ _ => false | _ => true

/-- The clock moves on within the hold of a bundle: a register that an RWR writes takes its value for later bundles
(R104, R105). -/
def advanceHold (p c : Nat) (s : State) : State := advanceIf notReg p c s

/-- The planes of the context that issues are to be rebuilt for another context, or given up (R136, R137): its LOADs take no
further line, and those that wait enter the plane records, from which they are replayed when it returns (log entry 122). -/
def leavePlanes (p : Nat) (s : State) : State :=
  let starts := (s.seq p).inflight.filter (fun l => match l.w with | .loadStart _ _ _ => true | _ => false)
  let s := forEach starts (land p) s
  s.modSeq p (fun q => { q with
    loaders := []
    inflight := q.inflight.filter (fun l => match l.w with
      | .loadStart _ _ _ | .planeLine _ _ _ _ | .planeScales _ _ => false
      | _ => true) })

/-- Cycle of the partition now. -/
def now (s : State) (p : Nat) : Nat := (s.seq p).cyc

/-- An event of a gate's class and selector arrives (R123). -/
def Seq.arrives (key : Nat) (q : Seq) : Seq := { q with came := mset 0 q.came key q.cyc }

end Sys2Proof.Machine
end

