-- ==== Sys2Proof/Machine/Lease.lean ====
section
/-!
DEFINITION. The staging record (R200) and the leases of array loaders (R202, R204, R206): what a LOAD or a FLIP of
context F does to them, and the device's own loads of staged planes.
-/

namespace Sys2Proof.Machine

/-- Fields of the staging record (R200), with the values that are taken for 0. -/
def sBits (r : List Byte) (lo w : Nat) : Nat := fld (leNat r) lo w
def srecSba (r : List Byte) : Nat := sBits r 0 17
def srecLen (r : List Byte) : Nat := sBits r 32 16
def srecEn (r : List Byte) : Bool := sBits r 17 1 == 1 && srecLen r != 0
def srecCv (r : List Byte) : Bool := sBits r 18 1 == 1
def srecMask (r : List Byte) : Nat := if sBits r 19 4 = 0 then 15 else sBits r 19 4
def srecBlocks (r : List Byte) : Nat := if sBits r 23 8 = 0 then 1 else sBits r 23 8
def srecLayers (r : List Byte) : Nat := if sBits r 48 8 = 0 then 1 else sBits r 48 8
def srecOta (r : List Byte) : Nat := sBits r 64 17

/-- Arrays of ARRMASK in ascending order. -/
def srecArrays (r : List Byte) : List Nat := (upTo 4).filter (fun a => bit (srecMask r) a)

/-- Units of a batch (R197). -/
def Batch.units (b : Batch) : Nat := b.layers * b.groups.length

/-- Is a unit the first of its layer. -/
def Batch.firstOfLayer (b : Batch) (n : Nat) : Bool := b.groups.length == 0 || n % b.groups.length == 0

/-- Schedule of a LOAD issued at cycle u (R36, R39): its start, the cycle of its last line, its ready cycle and the
cycle of each line. -/
def loadTimes (l : Loader) (u : Nat) : Nat × List Nat :=
  let start := match l.waiting, l.running with
    | some w, _ => Nat.max u (w.last + 1)
    | none, some r => Nat.max u (r.last + 1)
    | none, none => u
  let line (r : Nat) : Nat :=
    match l.flipAt with
    | none => start + r
    | some f => Nat.max (start + r) (if l.flipWide then f + 131 + 2 * r else f + 67 + r)  -- log entry 121
  (start, (upTo 64).map line)

/-- Start a LOAD at cycle u: its lines land one after another, its plane record is written when it starts (R36). -/
def startLoad (p a : Nat) (r : LoadRec) (u : Nat) (staged : Bool) (s : State) : State :=
  let q := s.seq p
  let l := mget loader0 q.loaders a
  let tm := loadTimes l u
  let last := nth 0 tm.2 63
  let ld : Loading := ⟨tm.1, last, last + 1, q.gid⟩
  let l' := match l.running with
    | none => { l with running := some ld }
    | some _ => { l with waiting := some ld }
  let s := s.modSeq p (fun q => { q with
    loaders := mset loader0 q.loaders a l'
    gates := q.gates.map (fun g => { g with loaded := true }) })
  let s := launch p tm.1 (.loadStart (BitVec.ofNat 2 a) q.ctxB r) s
  -- the stride is the one that stands when the LOAD issues (R105)
  let r' := { r with stride := some (loadStride (s.part p) r) }
  let s := forEach tm.2.zipIdx (fun e s => launch p e.1 (.planeLine (BitVec.ofNat 2 a) r' e.2 staged) s) s
  if fmtMx r.sl.fmt.toNat then launch p last (.planeScales (BitVec.ofNat 2 a) r) s else s

/-- The cycle before which R39 lets no shadow plane be ready after the last FLIP, and R41 no FLIP follow it. The class is that
of the plane which that FLIP made active, the block between the two (DEDUCED, log entry 121). -/
def Loader.turned (l : Loader) : Nat :=
  match l.flipAt with
  | none => 0
  | some f => f + (if l.flipWide then 258 else 131)

/-- Cycle in which the shadow plane of an array is ready (R39–R41), 0 when it has neither flipped nor a load on its way. -/
def planeReady (q : Seq) (a : Nat) : Nat :=
  let l := mget loader0 q.loaders a
  Nat.max l.turned (match l.waiting, l.running with
    | some w, _ => w.ready
    | none, some r => r.ready
    | none, none => 0)

/-- Lines of an array's plane image in the layer slice (R201). -/
def planeImgLines (fmt : Nat) : Nat := if fmtWide fmt then 128 else if fmtMx fmt then 68 else 64

/-- The LOAD the device makes for a lease (R202): WT = 0, from the unit's buffer. Source rows are consecutive, so the
record carries the place and the device's stride of one row. -/
def stagedSlot (fmt line : Nat) : ArrSlot :=
  ⟨0, 2, BitVec.ofNat 4 fmt, false, false, 0, 0, 0, 0, false, BitVec.ofNat 17 line, false, 0, 0, 0⟩

/-- The staging buffer of a unit (R200). -/
def bufLine (r : List Byte) (n : Nat) : Nat := srecSba r + (n % 2) * srecLen r

/-- Has the lease of an array for unit n ended (R204). -/
def FillPart.leaseOver (f : FillPart) (a n : Nat) : Bool := decide (n < mget 0 f.ended a)

/-- Open the lease of an array for unit n, unless it is open or has ended (R204). -/
def openLease (p a n : Nat) (s : State) : State :=
  s.modPart p (fun q =>
    if ((mget none q.fill.leases a).map (·.unit)) = some n ∨ q.fill.leaseOver a n then q
    else { q with fill := { q.fill with leases := mset none q.fill.leases a (some ⟨n, none⟩) } })

/-- WFMT of the descriptor that unit n of the open batch stages. -/
def unitFmt (s : State) (p n : Nat) : Option Nat :=
  (s.part p).fill.batch.bind (fun b => (b.groups[n % Nat.max 1 b.groups.length]?).map
    (fun g => (mget desc0 s.fills.descs g.fidx.toNat).wfmt))

/-- The device loads a leased plane once the unit's slice is in the buffer, in context F and in its WFMT (R202). -/
def loadLease (p a : Nat) (s : State) : State :=
  let q := s.part p
  match mget none q.fill.leases a with
  | some ⟨n, none⟩ =>
    if n < q.fill.copied ∧ q.seq.ctxB = false ∧ q.seq.switch = none then
      let fmt := (unitFmt s p n).getD 0
      let before := ((srecArrays q.fill.srec).filter (fun b => decide (b < a))).length
      let line := bufLine q.fill.srec n + before * planeImgLines fmt
      let s := startLoad p a ⟨stagedSlot fmt line, BitVec.ofNat 64 (64 * 2 ^ 29), some (if fmtWide fmt then 2 else 1)⟩ q.seq.cyc true s
      let rdy := planeReady (s.seq p) a
      s.modPart p (fun q => { q with fill := { q.fill with leases := mset none q.fill.leases a (some ⟨n, some rdy⟩) } })
    else s
  | _ => s

/-- Units named, counting a gate of context F that has run ahead without its event (R489): a FLIP in or after its bundle
already ends the lease (R204). -/
def Part.namedBy (q : Part) : Nat := q.fill.named + (q.seq.gates.filter (fun g => g.cls == 3)).length

/-- A LOAD of context F meets an open lease before the gate that names its unit (R206). -/
def leaseOnLoad (p a : Nat) (s : State) : State :=
  let q := s.part p
  if q.seq.ctxB then s else
  match mget none q.fill.leases a with
  | some l =>
    if q.namedBy ≤ l.unit then
      clamp p 8 (s.modPart p (fun q => { q with fill := { q.fill with leases := mset none q.fill.leases a none } }))
    else s
  | none => s

/-- Count FLIPs of an array toward the next unit's lease (R204): it opens with the BLOCKS-th, and the device loads the plane if
the slice is in its buffer. A lease that is voided later is not opened again by a FLIP (R206). -/
def countFlip (p a k : Nat) (s : State) : State :=
  let old := mget 0 (s.part p).fill.flips a
  let s := s.modPart p (fun q => { q with fill := { q.fill with flips := mmod 0 q.fill.flips a (· + k) } })
  let q := s.part p
  match q.fill.batch with
  | some b =>
    if srecEn q.fill.srec ∧ bit (srecMask q.fill.srec) a ∧ old < srecBlocks q.fill.srec ∧ srecBlocks q.fill.srec ≤ old + k ∧
        0 < q.fill.named ∧ q.fill.named < b.units ∧ b.firstOfLayer q.fill.named = false then
      loadLease p a (openLease p a q.fill.named s)
    else s
  | none => s

/-- A FLIP of context F: it ends a lease whose unit has been named, voids one whose unit has not, and counts toward the
next (R204, R206). Under run-ahead it counts at its gate's commit. FLIPs of context B count for an undo alone. -/
def leaseOnFlip (p a : Nat) (s : State) : State :=
  let q := s.part p
  let s := if q.seq.ctxB then s else match mget none q.fill.leases a with
    | some l =>
      let done := decide (l.unit < q.namedBy)
      (clampIf (!done) p 8 s).modPart p (fun q => { q with fill := { q.fill with
        leases := mset none q.fill.leases a none
        ended := if done then mset 0 q.fill.ended a (l.unit + 1) else q.fill.ended } })
    | none => s
  match q.seq.gates.getLast? with
  | some g => s.modSeq p (fun q => { q with gates := q.gates.map (fun g' =>
      if g'.id = g.id then { g' with flips := mmod 0 g'.flips a (· + 1) } else g') })
  | none => if q.seq.ctxB then s else countFlip p a 1 s

/-- Is a FLIP of this array to make a plane active whose lease has not opened yet: a gate of class 0x3 has run ahead and its
unit's lease opens only when it is evaluated (R204, R489). `none` for the batch: the gate closes the next one. -/
def flipEarly (q : Part) (a : Nat) : Bool :=
  let n := q.namedBy - 1
  srecEn q.fill.srec && bit (srecMask q.fill.srec) a && !q.seq.ctxB && q.seq.gates.any (fun g => g.cls == 3) &&
    !q.fill.leaseOver a n && (mget none q.fill.leases a).isNone &&
    (match q.fill.batch with
      | none => true
      | some b => decide (n < b.units) || (decide (b.units ≤ n) && decide (0 < b.units)))

/-- Does a FLIP of this array end a lease, whose load it may have to wait for: it is held without a clamp (R40, R204). -/
def flipEndsLease (q : Part) (a : Nat) : Bool :=
  flipEarly q a || (match mget none q.fill.leases a with
    | some l => decide (l.unit < q.namedBy) && !q.seq.ctxB
    | none => false)

end Sys2Proof.Machine
end

