-- ==== Sys2Proof/Machine/Arrays.lean ====
section
/-!
DEFINITION. The Matrix Arrays (R21–R60): the activation stream, the arithmetic of a pass, the ARR opcodes.
-/

namespace Sys2Proof.Machine

/-- Activation and weight element formats of an ARR FMT code (R49). -/
def arrActFmt (f : Nat) : Fmt :=
  [Fmt.e4m3, .e4m3, .e5m2, .e5m2, .mxe4m3, .mxe5m2, .mxe2m3, .mxe3m2, .mxe2m1, .bf16, .fp16, .int8, .uint8].getD f .e4m3
def arrWtFmt (f : Nat) : Fmt :=
  [Fmt.e4m3, .e5m2, .e4m3, .e5m2, .mxe4m3, .mxe4m3, .mxe2m3, .mxe2m3, .mxe2m1, .bf16, .fp16, .int8, .int8].getD f .e4m3

/-- Raw activation elements of one row's bytes (R25): 64, or 128 for FP4. -/
def rowElems (f : Fmt) (bytes : List Byte) : List Nat :=
  match f.bits with
  | 16 => (upTo 64).map (fun i => (nth 0 bytes (2 * i)).toNat + 256 * (nth 0 bytes (2 * i + 1)).toNat)
  | 6 => let v := leNat (bytes.take 48); (upTo 64).map (fun i => fld v (6 * i) 6)
  | 4 => (upTo 128).map (fun i => fld (nth 0 bytes (i / 2)).toNat (4 * (i % 2)) 4)
  | _ => (upTo 64).map (fun i => (nth 0 bytes i).toNat)

/-- The LBWIN descriptor's fields with their clamps (R57). -/
def winPitch (w : Nat) : Nat := Nat.max 1 (fld w 0 12)
def winStride (w : Nat) : Nat := Nat.max 1 (fld w 12 4)
def winOw (w : Nat) : Nat := Nat.max 1 (fld w 16 12)
def winPxl (w : Nat) : Nat := Nat.max 1 (fld w 28 6)
def winSpan (w : Nat) : Nat := let v := fld w 35 7; if v = 0 ∨ 64 < v then 64 else v
/-- How many clamps a descriptor's fields need (R58). -/
def winClamps (w : Nat) : Nat :=
  b2n (fld w 0 12 == 0) + b2n (fld w 12 4 == 0) + b2n (fld w 16 12 == 0) + b2n (fld w 28 6 == 0) + b2n (decide (64 < fld w 35 7))

/-- One activation row: its elements, its MX scales by group, the Line Buffer lines it reads. -/
structure Row where
  elems : List Nat
  scales : List Nat
  lines : List Nat

/-- Line Buffer bytes from a byte address, circular (R43). -/
def lbBytes (tl : Tile) (a n : Nat) : List Byte := (upTo n).map (fun i => rd8 tl.lb ((a + i) % 262144))

/-- Row q of the stream that slot `sl` defines, for activation format f (R42–R46). The spec gives the transpose buffer's latency
of 66 cycles (R46) and not the cycles in which it reads its 64 source lines: they are read afresh in the issue cycle of each row
(DESIGN CHOICE, log entry 120). -/
def streamRow (q : Part) (sl : ArrSlot) (f : Fmt) (tl : Tile) (row : Nat) : Row :=
  let pb := fld (q.pbase 0x1201 sl.pt) 0 12
  let base := sl.lba.toNat + pb
  let r := if f.bits = 16 then 2 else 1
  let w := q.reg (0x1220 + sl.win.toNat)
  let lineRow (ln : Nat) : Row :=
    let bytes := lbBytes tl (64 * lbLine ln) (64 * r)
    ⟨rowElems f bytes, (rdBytes tl.side (4 * lbLine ln) 4).map BitVec.toNat, (upTo r).map (fun i => lbLine (ln + i))⟩
  if sl.xpb then
    let pitch := if sl.win = 0 then r else winPitch w
    let per := if f.bits = 4 then 128 else 64
    let blk := base + (row / per) * r
    let srcs := (upTo 64).map (fun s => lbLine (blk + s * pitch))
    let col := row % per
    let el := srcs.map (fun ln => nth 0 (rowElems f (lbBytes tl (64 * ln) (64 * r))) col)
    ⟨if f.bits = 4 then el ++ List.replicate 64 0 else el, [127, 127, 127, 127],
      srcs.flatMap (fun ln => (upTo r).map (fun i => lbLine (ln + i)))⟩
  else if sl.win = 0 then lineRow (base + r * row)
  else
    let ox := row % winOw w
    let oy := row / winOw w
    if bit w 34 then
      let addr := 64 * (base + oy * winStride w * winPitch w) + ox * winStride w * winPxl w
      let n := winSpan w
      let ln := lbLine (addr / 64)
      ⟨rowElems f (lbBytes tl addr n ++ List.replicate (64 * r) 0), (rdBytes tl.side (4 * ln) 4).map BitVec.toNat,
        (upTo ((addr % 64 + n + 63) / 64)).map (fun i => lbLine (addr / 64 + i))⟩
    else lineRow (base + oy * winStride w * winPitch w + ox * winStride w * winPxl w)

/-- Keep of a BF16 product the bits of weight 2^(E − 48) and above, where E is the exponent of the leading bit of the
group's largest product (R26). -/
def bfTrunc (E : Int) : FVal → FVal
  | .fin n m e => if e < E - 48 then .fin n (m / 2 ^ (E - 48 - e).toNat) (E - 48) else .fin n m e
  | v => v

/-- The exponent of the leading bit of the largest finite product of a group. -/
def groupTop (ps : List FVal) : Option Int :=
  ps.foldl (fun acc v => match v with
    | .fin _ m e => if m = 0 then acc else
        (match acc with
          | none => some (floorLog2 m e)
          | some x => some (max x (floorLog2 m e)))
    | _ => acc) none

/-- The exact sum of a group's products (R26, R28); an exact zero is +0 unless every product is −0. -/
def groupSum (bf : Bool) (ps : List FVal) : FVal :=
  let ps := if bf then (match groupTop ps with | some E => ps.map (bfTrunc E) | none => ps) else ps
  match ps with
  | [] => .fin false 0 0
  | v :: vs => vs.foldl FVal.add v

/-- A group's value and flags: MX scales applied, one rounding to FP32 (R26, R35). -/
def groupValue (bf mx : Bool) (sa sw : Nat) (ps : List FVal) : Word × Word :=
  let g := groupSum bf ps
  let g := if mx then scaleBy sw (scaleBy sa g) else g
  let w := toF32 g
  let fl := (match g with | .fin _ _ _ => if isInf32 w then arrInf else 0 | _ => 0) ||| (if isNan32 w then arrNan else 0)
  (w, fl)

/-- Weight element k of column j of a plane. -/
def planeElem (pl : Plane) (k j : Nat) : Nat :=
  if pl.fmt = 8 then fld (mget 0 pl.cells (64 * (k / 2) + j)).toNat (4 * (k % 2)) 4
  else (mget 0 pl.cells (64 * k + j)).toNat

/-- The contributions of one activation row to column j (R26, R27). -/
def columnGroups (pl : Plane) (row : Row) (j : Nat) : List Word × Word :=
  let f := pl.fmt.toNat
  let af := arrActFmt f
  let wf := arrWtFmt f
  if fmtInt f then
    let sum := (upTo 64).foldl (fun (acc : Int) k =>
      let a : Int := if f = 11 then sfld (nth 0 row.elems k) 0 8 else (fld (nth 0 row.elems k) 0 8 : Nat)
      acc + a * sfld (planeElem pl k j) 0 8) 0
    ([BitVec.ofInt 32 sum], 0)
  else
    let ng := if f = 8 then 4 else 2
    let gs := (upTo ng).map (fun g =>
      let ps := (upTo 32).map (fun i =>
        (af.decode (nth 0 row.elems (32 * g + i))).mul (wf.decode (planeElem pl (32 * g + i) j)))
      groupValue (f == 9) (fmtMx f) (nth 0 row.scales g) (mget 0 pl.scales (4 * j + g)).toNat ps)
    (gs.map (·.1), gs.foldl (fun acc g => acc ||| g.2) 0)

/-- ACCSTEP codes (R47). -/
def stepOf (c : BitVec 2) : Nat := [1, 0, 2, 4].getD c.toNat 1

/-- The slots of a bundle that issue MAC or MACLOAD, lowest array first. -/
def macSlots (sls : List (Nat × ArrSlot)) : List (Nat × ArrSlot) := sls.filter (fun e => e.2.op == 1 || e.2.op == 3)

/-- The activation format of array a in a tile. -/
def actOf (tl : Tile) (a : Nat) : Nat := (mget plane0 tl.active a).fmt.toNat

/-- One cycle of the broadcast stream in one tile: cycle k of a hold of H that issues now (R42, R49, R51). -/
def macTile (p t : Nat) (sls : List (Nat × ArrSlot)) (k H : Nat) (s : State) : State :=
  match macSlots sls with
  | [] => s
  | (a0, sl0) :: rest =>
    let q := s.part p
    let tl := s.tile t
    let f := arrActFmt (actOf tl a0)
    let wide := f.bits == 16
    if wide && (k % 2 == 1 || decide (H ≤ k + 1)) then s else
    let rowN := if wide then k / 2 else k
    let row := streamRow q sl0 f tl rowN
    let c := q.seq.cyc
    let s := if row.lines.any (fun l => tl.pois .lb l) then consumeAt p q.seq.gid 3 s else s
    forEach ((a0, sl0) :: rest) (fun e s =>
      let a := e.1
      let pl := mget plane0 tl.active a
      if arrActFmt pl.fmt.toNat != f then s else
      let ent := (e.2.accb.toNat + rowN * stepOf e.2.accstep) % 1024
      forEach (upTo 64) (fun j s =>
        let g := columnGroups pl row j
        let lat := (if wide then 135 + 2 * j else 71 + j) + (if sl0.xpb then 66 else 0)
        launch p (c + lat) (.accAdd (BitVec.ofNat 7 t) (BitVec.ofNat 2 a) ent j e.2.accw (fmtInt pl.fmt.toNat) g.2 g.1) s) s) s

/-- One cycle of ACLR, ACC_STORE or ACC_LOAD (R48, R51). The spec does not say in which of its 4 cycles ACC_LOAD reads its
Scratchpad lines: they are read in the issue cycle (DESIGN CHOICE, log entry 120). -/
def accTile (p t : Nat) (e : Nat × ArrSlot) (k : Nat) (s : State) : State :=
  let q := s.part p
  let sl := e.2
  let ent := (sl.accb.toNat + k * stepOf sl.accstep) % 1024
  let line := sl.spa.toNat + fld (q.pbase 0x1201 sl.pt) 12 17 + 4 * k
  let c := q.seq.cyc
  let t7 := BitVec.ofNat 7 t
  let a2 := BitVec.ofNat 2 e.1
  if sl.op = 4 then launch p (c + 4) (.accSet t7 a2 ent (List.replicate 64 0)) s
  else if sl.op = 5 then launch p (c + 4) (.accStore t7 a2 ent line) s
  else if sl.op = 6 then
    let ws := (upTo 64).map (fun j => BitVec.ofNat 32 (rdLe (s.tile t).scratch (64 * spLine (line + j / 16) + 4 * (j % 16)) 4))
    launch p (c + 4) (.accSet t7 a2 ent ws) s
  else s

/-- Cycle k of a hold of H, for the ARR slots of a bundle in every tile (R49). -/
def arrCycle (p : Nat) (sls : List (Nat × ArrSlot)) (k H : Nat) (s : State) : State :=
  forEach (s.part p).tiles (fun t s =>
    forEach sls (fun e s => accTile p t e k s) (macTile p t sls k H s)) s

/-- FCLR (R48): under run-ahead the flags it clears are those that stand. -/
def arrFclr (p a : Nat) (s : State) : State :=
  forEach (s.part p).tiles (fun t s => s.modTile t (fun tl => { tl with arrStat := mset 0 tl.arrStat a 0 })) s

/-- LOAD of a slot, issued in the bundle's first cycle (R36, R50). -/
def arrLoad (p a : Nat) (sl : ArrSlot) (s : State) : State :=
  if 13 ≤ sl.fmt.toNat then clamp p 1 s
  else
    let s := leaseOnLoad p a s
    let q := s.part p
    startLoad p a ⟨sl, BitVec.ofNat 64 (q.pbase 0x1201 sl.pt), none⟩ q.seq.cyc false s

/-- Does a LOAD find both places of its loader taken: it holds the partition's issue (R36). -/
def loadHeld (q : Seq) (a : Nat) : Bool := (mget loader0 q.loaders a).waiting.isSome

/-- The planes of an array change places in every tile, with their records (R38, R131). -/
def swapPlanes (p a : Nat) (s : State) : State :=
  let s := forEach (s.part p).tiles (fun t s => s.modTile t (fun tl => { tl with
    active := mset plane0 tl.active a (mget plane0 tl.shadow a)
    shadow := mset plane0 tl.shadow a (mget plane0 tl.active a) })) s
  s.modPart p (fun q => q.modCtx q.seq.ctxB (fun c =>
    let ra := c.recA.find? (fun e => e.1 == a)
    let rs := c.recS.find? (fun e => e.1 == a)
    { c with
      recA := (match rs with | some e => mput c.recA a e.2 | none => mdel c.recA a)
      recS := (match ra with | some e => mput c.recS a e.2 | none => mdel c.recS a) }))

/-- Is the active plane of an array, the same in every tile, of the 16-bit class. -/
def activeWide (s : State) (p a : Nat) : Bool :=
  fmtWide (match (s.part p).tiles.head? with | some t => actOf (s.tile t) a | none => 0)

/-- FLIP of the arrays of a bundle at cycle F (R38–R41). What an undo pays for is the plane that leaves, which it flips back to
(R132); what the next FLIP waits for is the plane that comes (R41, log entry 121). -/
def flipArrays (p : Nat) (as : List Nat) (s : State) : State :=
  forEach as (fun a s =>
    let left := activeWide s p a
    let s := swapPlanes p a (leaseOnFlip p a s)
    let wide := activeWide s p a
    s.modSeq p (fun q => { q with
      loaders := mset loader0 q.loaders a { mget loader0 q.loaders a with flipAt := some q.cyc, flipWide := wide }
      gates := q.gates.map (fun g => { g with flipped := true, wide := g.wide || left }) })) s

/-- Arrays whose slot carries FLIP. -/
def flipsOf (sls : List (Nat × ArrSlot)) : List Nat := (sls.filter (fun e => e.2.flip)).map (·.1)

/-- Latest ready cycle of the shadow planes that a bundle flips. -/
def flipReady (q : Seq) (as : List Nat) : Nat := maxL (as.map (planeReady q))

/-- The clamps that a bundle's ARR slots count once: reserved opcodes, window descriptors at their first use, MX through
the transpose buffer, planes of another activation format (R42, R46, R48, R58). A first use under XPB = 1, which uses ROWPITCH
alone, counts ROWPITCH's clamp and is the descriptor's first use for its other fields too (DESIGN CHOICE, log entry 120). -/
def arrClamps (p : Nat) (sls : List (Nat × ArrSlot)) (s : State) : State :=
  let s := forEach sls (fun e s => clampIf (decide (8 ≤ e.2.op.toNat)) p 1 s) s
  match macSlots sls with
  | [] => s
  | (a0, sl0) :: rest =>
    let q := s.part p
    let a := 0x1220 + sl0.win.toNat
    let s := if sl0.win ≠ 0 ∧ q.isFresh a then
        useReg p a (forEach (upTo (if sl0.xpb then b2n (fld (q.reg a) 0 12 == 0) else winClamps (q.reg a)))
          (fun _ s => clamp p 1 s) s)
      else s
    let s := clampIf (sl0.xpb && q.tiles.any (fun t => fmtMx (actOf (s.tile t) a0))) p 1 s
    clampIf (q.tiles.any (fun t => rest.any (fun e =>
      arrActFmt (actOf (s.tile t) e.1) != arrActFmt (actOf (s.tile t) a0)))) p 1 s

/-- What a bundle's ARR slots do once, in its first cycle (R38, R49): flips, then FCLR and LOADs. -/
def arrOnce (p : Nat) (sls : List (Nat × ArrSlot)) (s : State) : State :=
  let s := flipArrays p (flipsOf sls) s
  let s := arrClamps p sls s
  forEach sls (fun e s =>
    if e.2.op = 7 then arrFclr p e.1 s
    else if e.2.op = 2 ∨ e.2.op = 3 then arrLoad p e.1 e.2 s
    else s) s

end Sys2Proof.Machine
end

