-- ==== Sys2Proof/Machine/Vector.lean ====
section
/-!
DEFINITION. The Vector Engine (R61–R95): streams, format conversion, chains of stages, scans, compress and expand,
reductions, tally slots.
-/

namespace Sys2Proof.Machine

/-- A stage of a chain (R73). -/
structure Stage where
  sop : Nat
  x : Nat
  y : Nat
  z : Nat
  aux : Nat
  dest : Nat

def stageOf (w : Nat) : Stage := ⟨fld w 0 6, fld w 6 4, fld w 10 4, fld w 14 4, fld w 18 4, fld w 22 2⟩

/-- The eight stages of chain n. -/
def chainStages (q : Part) (n : Nat) : List Stage :=
  let v := q.reg (0x2100 + 4 * n) + 2 ^ 64 * q.reg (0x2101 + 4 * n) + 2 ^ 128 * q.reg (0x2102 + 4 * n)
  (upTo 8).map (fun s => stageOf (fld v (24 * s) 24))

/-- Stage opcodes (R75). -/
def sopReserved (o : Nat) : Bool := inRange 0x25 0x27 o || decide (0x32 ≤ o)
def sopReduce (o : Nat) : Bool := inRange 0x28 0x31 o
def sopScan (o : Nat) : Bool := inRange 0x20 0x22 o
def sopCross (o : Nat) : Bool := inRange 0x20 0x31 o && !sopReserved o

/-- Stages before the first END; a reserved opcode acts as END (R73, R75). -/
def untilEnd (l : List Stage) : List Stage := l.takeWhile (fun s => s.sop != 0 && !sopReserved s.sop)

/-- The stages up to the first that breaks a placement rule (R76), with `i` the place of the first and `seen` whether a
cross-lane stage came before. -/
def placed : Nat → Bool → List Stage → List Stage
  | _, _, [] => []
  | i, seen, s :: rest =>
    let bad := sopCross s.sop &&
      (seen || ((sopReduce s.sop || s.sop == 0x23) && !rest.isEmpty) || (s.sop == 0x24 && i != 0))
    if bad then [] else s :: placed (i + 1) (seen || sopCross s.sop) rest

/-- The chain that runs. -/
def chainRuns (q : Part) (n : Nat) : List Stage := placed 0 false (untilEnd (chainStages q n))

/-- How many operands an opcode reads (R75). R73 lists SEL among the opcodes that use Z, R75 gives it X and Y alone: its Z is
not read (DESIGN CHOICE, log entry 124). -/
def sopArity (o : Nat) : Nat :=
  if o = 4 ∨ o = 0x1D then 3
  else if (inRange 1 6 o && o != 4) || o == 0x0C || inRange 0x18 0x1C o then 2 else 1

def stageOperands (s : Stage) : List Nat :=
  if s.sop = 0x24 then [s.y] else if s.sop = 0x31 then [] else [s.x, s.y, s.z].take (sopArity s.sop)

/-- Latency of a stage (R75), reductions apart. -/
def sopLatency (o : Nat) : Nat :=
  if inRange 0x09 0x17 o then 12
  else if sopScan o then 8 else if o = 0x23 ∨ o = 0x24 then 6 else if sopReduce o then 0 else 4

/-- Latency of a reduction (R89). -/
def redLatency (o rgrp : Nat) (rdir : Bool) : Nat :=
  if o = 0x2D ∨ o = 0x31 then (if rdir then 12 else 16 + rgrp) else (if rdir then 4 else 10 + rgrp)

/-- Bytes and lines of a vector in a format (R68). -/
def vecLines (f : Fmt) : Nat :=
  match f.bits with | 32 => 8 | 16 => 4 | 4 => 1 | _ => 2
def vecBytes (f : Fmt) : Nat := 64 * vecLines f

/-- Bytes of a tile's memory from a byte address, modulo its size. -/
def tileBytes (k : TMem) (tl : Tile) (a n : Nat) : List Byte := (upTo n).map (fun i => rd8 (tl.bytes k) ((a + i) % k.size))

/-- Raw bits of lane l in a packed vector (R25). -/
def laneRaw (f : Fmt) (bytes : List Byte) (l : Nat) : Nat :=
  match f.bits with
  | 32 => leNat ((bytes.drop (4 * l)).take 4)
  | 16 => leNat ((bytes.drop (2 * l)).take 2)
  | 6 => fld (leNat ((bytes.drop (64 * (l / 64))).take 48)) (6 * (l % 64)) 6
  | 4 => fld (nth 0 bytes (l / 2)).toNat (4 * (l % 2)) 4
  | _ => (nth 0 bytes l).toNat

/-- Input conversion to FP32 (R69). -/
def laneIn (f : Fmt) (raw scale : Nat) : Word :=
  match f with
  | .fp32 | .raw32 => BitVec.ofNat 32 raw
  | _ => toF32 (if f.isMx then scaleBy scale (f.decode raw) else f.decode raw)

/-- Element i of a packed stream at a byte address; MX scales from their stream at `sa` (R69). -/
def streamElem (k : TMem) (tl : Tile) (f : Fmt) (a sa i : Nat) : Word :=
  let v := i / 128
  let bytes := tileBytes k tl (a + v * vecBytes f) (vecBytes f)
  laneIn f (laneRaw f bytes (i % 128)) (rd8 tl.scratch ((sa + 4 * v + i % 128 / 32) % 8388608)).toNat

/-- Vector v of a packed stream. -/
def streamVec (k : TMem) (tl : Tile) (f : Fmt) (a sa v : Nat) : List Word :=
  let bytes := tileBytes k tl (a + v * vecBytes f) (vecBytes f)
  (upTo 128).map (fun l => laneIn f (laneRaw f bytes l) (rd8 tl.scratch ((sa + 4 * v + l / 32) % 8388608)).toNat)

/-- Lines a vector's read touches. -/
def streamLines (k : TMem) (f : Fmt) (a v : Nat) : List Nat :=
  (upTo (vecLines f)).map (fun i => (a + v * vecBytes f + 64 * i) % k.size / 64)

/-- An accumulator entry's 64 columns. -/
def accRow (tl : Tile) (a e : Nat) : List Word := (upTo 64).map (fun c => mget 0 tl.acc ((1024 * a + e % 1024) * 64 + c))

/-- Conversion of an accumulator source (R69). -/
def accIn (afmt : Nat) (w : Word) : Word := if afmt = 0xC then intToF32 w.toInt else w

/-- A broadcast word to all lanes. -/
def splat (w : Word) : List Word := List.replicate 128 w

/-- Pass bases of a VEC slot (R93). -/
def vecSpb (q : Part) (sl : VecSlot) : Nat := fld (q.pbase 0x2081 sl.pt) 12 17
def vecLbb (q : Part) (sl : VecSlot) : Nat := fld (q.pbase 0x2081 sl.pt) 0 12

/-- Byte address of the A stream. -/
def aAddr (q : Part) (sl : VecSlot) : Nat :=
  if sl.asrc = 6 then 64 * lbLine (sl.aspa.toNat % 4096 + vecLbb q sl) else 64 * spLine (sl.aspa.toNat + vecSpb q sl)
def aMem (sl : VecSlot) : TMem := if sl.asrc = 6 then .lb else .scratch
def spAddr (q : Part) (sl : VecSlot) (line : BitVec 17) : Nat := 64 * spLine (line.toNat + vecSpb q sl)
def mxIn (q : Part) (sl : VecSlot) : Nat := 64 * spLine (fld (q.reg 0x2084) 0 17 + vecSpb q sl)
def mxOut (q : Part) (sl : VecSlot) : Nat := 64 * spLine (fld (q.reg 0x2084) 17 17 + vecSpb q sl)

/-- Vector v of the A stream (R62, R63). -/
def aVec (q : Part) (sl : VecSlot) (tl : Tile) (v : Nat) : List Word :=
  let st := stepOf sl.astep
  let e := sl.aent.toNat
  let cv (l : List Word) := l.map (accIn sl.afmt.toNat)
  match sl.asrc.toNat with
  | 1 => cv (accRow tl 0 (e + st * v) ++ accRow tl 1 (e + st * v))
  | 2 => cv (accRow tl 2 (e + st * v) ++ accRow tl 3 (e + st * v))
  | 3 =>
    let e := e + st * (v / 2)
    if v % 2 = 0 then cv (accRow tl 0 e ++ accRow tl 1 e) else cv (accRow tl 2 e ++ accRow tl 3 e)
  | 4 =>
    let e := (e + st * v) % 1024 / 2 * 2
    cv (accRow tl sl.aarr.toNat e ++ accRow tl sl.aarr.toNat (e + 1))
  | 5 | 6 => streamVec (aMem sl) tl (vecFmt sl.afmt.toNat) (aAddr q sl) (mxIn q sl) v
  | _ => splat 0

/-- Operands B and B1 of vector v (R64). -/
def bVec (q : Part) (sl : VecSlot) (tl : Tile) (v : Nat) : List Word × List Word :=
  match sl.bsrc.toNat with
  | 1 => (streamVec .scratch tl (vecFmt sl.bfmt.toNat) (spAddr q sl sl.bspa) (mxIn q sl) v, splat 0)
  | 2 =>
    let a := spAddr q sl sl.bspa + 8 * (v / 2 ^ sl.rgrp.toNat)
    let w (o : Nat) := BitVec.ofNat 32 (leNat (tileBytes .scratch tl (a + o) 4))
    (splat (w 0), splat (w 4))
  | _ => (splat 0, splat 0)

/-- A vector register's lanes (R65). -/
def vregVec (tl : Tile) (r : Nat) : List Word := (upTo 128).map (fun l => mget 0 tl.vec.vregs (128 * (r % 16) + l))

/-- A mask register; M0 reads as all ones (R67). -/
def maskVal (tl : Tile) (m : Nat) : Nat := if m = 0 then 2 ^ 128 - 1 else (mget 0 tl.vec.masks m).toNat

/-- The mask stream's entry for vector v (R78). -/
def maskEntry (q : Part) (sl : VecSlot) (tl : Tile) (v : Nat) : Nat :=
  leNat (tileBytes .scratch tl (spAddr q sl sl.mspa + 16 * v) 16)

/-- A vector inside the chain: the streams, PREV, T0–T2, predicate and compare bits, flags (R74, R78, R90). -/
structure Lanes where
  a : List Word
  b : List Word
  b1 : List Word
  prev : List Word
  t0 : List Word
  t1 : List Word
  t2 : List Word
  gv0 : List Word
  gv1 : List Word
  lp : List Bool
  cb : List Bool
  flags : BitVec 4

/-- VEC_STAT bits (R91). -/
def vfEmpty : BitVec 4 := 1
def vfSat : BitVec 4 := 2
def vfInf : BitVec 4 := 4
def vfNan : BitVec 4 := 8

/-- An operand of a stage (R74). -/
def operand (L : Lanes) (sc : Nat → DWord) (sbase k : Nat) (st : Stage) (code : Nat) : List Word :=
  match code with
  | 0 => L.a | 1 => L.b | 2 => L.b1 | 3 => L.prev | 4 => L.t0 | 5 => L.t1 | 6 => L.t2
  | 7 => splat ((sc ((sbase + st.aux) % 64)).setWidth 32)
  | 8 => L.gv0 | 9 => L.gv1
  | 0xB => splat 0x3F800000
  | 0xC => (upTo 128).map (fun l => natToF32 (128 * k + l))
  | _ => splat 0


/-- INT32 conversion of CVTF (R70): NaN is 0; the flag is SAT. -/
def cvtf (x : Word) : Word × Bool := let r := toInt (-2147483648) 2147483647 (f32 x); (BitVec.ofInt 32 r.1, r.2)

/-- One lane of a stage without a cross-lane effect (R75). -/
def laneOp (op : Nat) (x y z : Word) (cb : Bool) : Word :=
  match op with
  | 0x01 => fadd x y
  | 0x02 => fsub x y
  | 0x03 => fmul x y
  | 0x04 => ffma x y z
  | 0x05 => fmax x y
  | 0x06 => fmin x y
  | 0x07 => fabs x
  | 0x08 => fneg x
  | 0x0B => fsqrt x
  | 0x0C => fdiv x y
  | 0x1C => if cb then x else y
  | 0x1D => if isNan32 x || isNan32 y || isNan32 z then nan32 else fmin (fmax x y) z
  | 0x1E => intToF32 x.toInt
  | 0x1F => (cvtf x).1
  | _ => if inRange 0x09 0x17 op then approx op x else x

/-- A compare stage's outcome in one lane (R75, R77). -/
def laneCmp (op : Nat) (x y : Word) : Bool :=
  match op with
  | 0x18 => flt x y
  | 0x19 => fle x y
  | 0x1A => feq x y
  | _ => !feq x y

def zip3 (f : Word → Word → Word → Bool → Word) (x y z : List Word) (c : List Bool) : List Word :=
  (upTo 128).map (fun l => f (nth 0 x l) (nth 0 y l) (nth 0 z l) (nth false c l))

/-- Flags of one FP32 operation (R90): a finite operation that overflows, a NaN from operands that are not NaN. -/
def opFlags (xs : List Word) (r : Word) : BitVec 4 :=
  (if isInf32 r && xs.all isFin32 then vfInf else 0) ||| (if isNan32 r && !(xs.any isNan32) then vfNan else 0)

/-- Is the infinity of an operation an exact one, a pole and no overflow: RCP, RSQRT, LOG and LOG2 at 0, a division by 0. -/
def atPole (op : Nat) (xs : List Word) : Bool :=
  if op = 9 ∨ op = 0xA ∨ op = 0xF ∨ op = 0x10 then fabs (nth 0 xs 0) == 0
  else op == 0xC && fabs (nth 0 xs 1) == 0

/-- Flags of one lane's operation (R70, R90). -/
def laneFlags (op : Nat) (xs : List Word) (r : Word) : BitVec 4 :=
  if op = 0x1F then (match xs with | x :: _ => if (cvtf x).2 then vfSat else 0 | [] => 0)
  else if op = 0x1E ∨ op = 0x1C then 0
  else if atPole op xs && isInf32 r then 0
  else opFlags xs r

/-- A result goes to PREV and, as DEST says, to a T register (R73). -/
def Lanes.put (L : Lanes) (d : Nat) (r : List Word) : Lanes :=
  { L with prev := r, t0 := if d = 1 then r else L.t0, t1 := if d = 2 then r else L.t1, t2 := if d = 3 then r else L.t2 }

/-- A lane-wise stage. A NaN result is the canonical one, that of SEL and of a compare too; CVTF delivers raw bits (R75, R77).
Flags are those of active lanes (log entry 11). -/
def laneStage (sc : Nat → DWord) (sbase k : Nat) (st : Stage) (L : Lanes) : Lanes :=
  let x := operand L sc sbase k st st.x
  let y := operand L sc sbase k st st.y
  let z := operand L sc sbase k st st.z
  if inRange 0x18 0x1B st.sop then
    let o := List.zipWith (laneCmp st.sop) x y
    { (L.put st.dest (x.map canon)) with cb := o, lp := List.zipWith (· && ·) L.lp o }
  else
    let r := zip3 (fun x y z c => if st.sop = 0x1F then laneOp 0x1F x y z c else canon (laneOp st.sop x y z c)) x y z L.cb
    let fl := (upTo 128).foldl (fun (acc : BitVec 4) l =>
      if nth false L.lp l then
        acc ||| laneFlags st.sop ([nth 0 x l, nth 0 y l, nth 0 z l].take (sopArity st.sop)) (nth 0 r l)
      else acc) 0
    { (L.put st.dest r) with flags := L.flags ||| fl }

/-- Identity of a scan (R79). -/
def scanId (op : Nat) : Word := if op = 0x21 then inf32 true else if op = 0x22 then inf32 false else 0

/-- A sum by a tree over the lane positions that R79 fixes only as fixed: where no order of additions can round or overflow,
every tree gives the exact sum, and infinities of one sign stand; else it is left open (log entry 7). The running value comes
first, then the lanes; `none` has no operand. -/
def treeSum (at_ : List (Option Word)) : Word :=
  let l := at_.filterMap id
  let vs := l.map f32
  let pos := vs.any (fun v => v == .inf false)
  let neg := vs.any (fun v => v == .inf true)
  if l.any isNan32 || (pos && neg) then nan32
  else
    let fins := vs.filter (fun v => match v with | .fin _ _ _ => true | _ => false)
    let nz := fins.filter (fun v => match v with | .fin _ m _ => m != 0 | _ => true)
    let g := nz.foldl (fun (acc : Int) v => match v with | .fin _ _ e => min acc e | _ => acc) 104
    let mag : Nat := nz.foldl (fun (acc : Nat) v => match v with | .fin _ m e => acc + m * 2 ^ (e - g).toNat | _ => acc) 0
    if pos || neg then (if floorLog2 mag g < 126 then inf32 neg else canon (Config.scanTree at_))
    else if mag < 2 ^ 24 then toF32 (fins.foldl FVal.add (.fin true 0 g)) else canon (Config.scanTree at_)

/-- The value of a scan over a stretch (R79). -/
def scanValue (op : Nat) (str : List (Option Word)) : Word :=
  if op = 0x20 then treeSum str
  else (str.filterMap id).foldl (fun a b => if op = 0x21 then fmax a b else fmin a b) (scanId op)

/-- A scan over the lanes of a vector (R79): lanes in order with the values that the running sum of the current stretch
was formed from. -/
def scanLanes (op : Nat) (excl : Bool) (x : List Word) (lp hd : List Bool) (run : Word) : List Word × Word × BitVec 4 :=
  let r := (upTo 128).foldl (fun (acc : List Word × List (Option Word) × BitVec 4) l =>
    -- delivered values, newest first; the stretch so far, its running value first, then a place for each lane; flags
    let str := if nth false hd l then some (scanId op) :: List.replicate l none else acc.2.1
    let str' := str ++ [if nth false lp l then some (nth 0 x l) else none]
    let fl : BitVec 4 := if op = 0x20 ∧ nth false lp l then opFlags (str'.filterMap id) (scanValue op str') else 0
    ((if excl then scanValue op str else scanValue op str') :: acc.1, str', acc.2.2 ||| fl)) ([], [some run], 0)
  (r.1.reverse, scanValue op r.2.1, r.2.2)

/-- Does a reduction take its words as INT32 (R82). -/
def redInt (op : Nat) : Bool := inRange 0x2E 0x30 op

/-- One element of a reduction (R82, R84); a NaN enters one of FP32 as the canonical NaN that its result would be (R77). -/
def redElem (op : Nat) (x : Word) (i : Nat) : LaneAcc :=
  let v := if redInt op then x else canon x
  ⟨1, if op = 0x29 then fmul v v else v, i, v, 0, 0x3F800000⟩

/-- Flags of the squaring of RSUMSQ. -/
def elemFlags (op : Nat) (x : Word) : BitVec 4 := if op = 0x29 then opFlags [x] (fmul x x) else 0

/-- A Welford record (count, mean, M2) of RWMERGE. -/
def redRecord (n mean m2 : Word) : LaneAcc := ⟨1, 0, 0, canon mean, canon m2, canon n⟩

/-- Merge of two Welford records (R84); every operation is one rounding. -/
def welford (n : Nat) (a b : LaneAcc) : LaneAcc × BitVec 4 :=
  if fabs a.cnt = 0 then ({ b with n := n }, 0)
  else if fabs b.cnt = 0 then ({ a with n := n }, 0)
  else
    let cn := fadd a.cnt b.cnt
    let d := fsub b.mean a.mean
    let f := fdiv b.cnt cn
    let mean := ffma d f a.mean
    let ms := fadd a.m2 b.m2
    let dd := fmul d d
    let nf := fmul a.cnt f
    let x := fmul dd nf
    let m2 := fadd ms x
    ({ a with n := n, cnt := cn, mean := mean, m2 := m2 },
      opFlags [a.cnt, b.cnt] cn ||| opFlags [b.mean, a.mean] d ||| opFlags [b.cnt, cn] f ||| opFlags [d, f, a.mean] mean |||
      opFlags [a.m2, b.m2] ms ||| opFlags [d] dd ||| opFlags [a.cnt, f] nf ||| opFlags [dd, nf] x ||| opFlags [ms, x] m2)

/-- Merge of two states, with its flags (R77, R84, R90). RARGMAX takes +0 and −0 as a tie, which goes to the lower index (R82),
though MAX orders them (DESIGN CHOICE, log entry 124). -/
def redMerge (op : Nat) (a b : LaneAcc) : LaneAcc × BitVec 4 :=
  if a.n = 0 then (b, 0) else if b.n = 0 then (a, 0) else
  let n := a.n + b.n
  match op with
  | 0x2A => ({ a with n := n, v := fmax a.v b.v }, 0)
  | 0x2B => ({ a with n := n, v := fmin a.v b.v }, 0)
  | 0x2C =>
    if isNan32 a.v then ({ a with n := n }, 0)
    else if isNan32 b.v then ({ b with n := n }, 0)
    else if flt a.v b.v then ({ b with n := n }, 0) else ({ a with n := n }, 0)
  | 0x2E =>
    let s := a.v.toInt + b.v.toInt
    if s < -2147483648 then ({ a with n := n, v := 0x80000000 }, vfSat)
    else if 2147483647 < s then ({ a with n := n, v := 0x7FFFFFFF }, vfSat)
    else ({ a with n := n, v := BitVec.ofInt 32 s }, 0)
  | 0x2F => ({ a with n := n, v := if a.v.toInt < b.v.toInt then b.v else a.v }, 0)
  | 0x30 => ({ a with n := n, v := if b.v.toInt < a.v.toInt then b.v else a.v }, 0)
  | 0x2D | 0x31 => welford n a b
  | _ => ({ a with n := n, v := fadd a.v b.v }, opFlags [a.v, b.v] (fadd a.v b.v))

/-- One level of the balanced pairwise tree. -/
def redPairs (op : Nat) : List LaneAcc → List LaneAcc × BitVec 4
  | a :: b :: rest =>
    let m := redMerge op a b
    let r := redPairs op rest
    (m.1 :: r.1, m.2 ||| r.2)
  | l => (l, 0)

/-- The tree over 2^n states. -/
def redTree (op : Nat) : Nat → List LaneAcc → LaneAcc × BitVec 4
  | 0, l => (l.headD laneAcc0, 0)
  | n + 1, l =>
    let r := redPairs op l
    let t := redTree op n r.1
    (t.1, r.2 ||| t.2)

/-- Result words of a reduction, with EMPTY (R82, R85). -/
def redWords (op : Nat) (sample : Bool) (a : LaneAcc) : List Word × Bool :=
  if a.n = 0 then
    (match op with
      | 0x2A => [inf32 true]
      | 0x2B => [inf32 false]
      | 0x2F => [0x80000000]
      | 0x30 => [0x7FFFFFFF]
      | 0x2C => [inf32 true, 0xFFFF]
      | 0x2D => [0, 0]
      | 0x31 => [0, 0, 0, 0]
      | _ => [0], true)
  else
    (match op with
      | 0x2C => [a.v, BitVec.ofNat 32 (a.i % 65536)]
      | 0x2D => [a.mean, if sample then (if a.cnt = 0x3F800000 then 0 else fdiv a.m2 (fsub a.cnt 0x3F800000)) else fdiv a.m2 a.cnt]
      | 0x31 => [a.cnt, a.mean, a.m2, 0]
      | _ => [a.v], false)

/-- The role a chain gives its tally slot (R86); `none` where it uses none. -/
def chainRole (st : List Stage) (rdir : Bool) : Option TallyRole :=
  match st.find? (fun s => sopCross s.sop) with
  | none => none
  | some s =>
    if sopScan s.sop then some (.scan s.sop)
    else if s.sop = 0x23 then some .compress
    else if s.sop = 0x24 then some .expand
    else if rdir then some (.lanes (s.sop + 64 * (s.aux % 2))) else some (.record s.sop)

/-- Roles that R86 tells apart, as it lists them: COMPRESS and EXPAND are two, scans of any opcode are one, and reductions of one
direction are one, whatever their opcode (DESIGN CHOICE, log entry 124). -/
def roleKind : TallyRole → Nat
  | .free => 0 | .scan _ => 1 | .compress => 2 | .expand => 3 | .record _ => 4 | .lanes _ => 5

/-- The slot as the chain finds it: in another role it is cleared first (R86). -/
def takeRole (r : TallyRole) (ty : Tally) : Tally :=
  if roleKind ty.role = roleKind r then { ty with role := r }
  else { tally0 with role := r, run := match r with | .scan op => scanId op | _ => 0 }

/-- An MX output block of 32 elements (R71): scale byte, element codes, SAT. -/
def mxBlock (f : Fmt) (xs : List Word) (act : List Bool) : Nat × List Nat × Bool :=
  let live := (List.zip xs act).filterMap (fun e => if e.2 then some e.1 else none)
  let bad := live.any (fun w => !isFin32 w)
  let amax := live.foldl (fun acc w => Nat.max acc (fabs w).toNat) 0
  let sb : Nat := if bad then 255 else if amax = 0 then 127
    else match f32 (BitVec.ofNat 32 amax) with
      | .fin _ m e => (max 0 (min 254 (floorLog2 m e - f.emax + 127))).toNat
      | _ => 127
  let els := List.zipWith (fun w (k : Bool) =>
    if bad ∨ k = false then (0, false) else f.encode (shiftExp (127 - (sb : Int)) (f32 w))) xs act
  (sb, els.map (·.1), els.any (·.2))

/-- Flags of an output conversion (R70, R90): SAT where it saturated, INF where a finite value became an infinity. -/
def convFlags (f : Fmt) (x : Word) : BitVec 4 :=
  match f with
  | .raw32 | .fp32 => 0
  | .bf16 | .fp16 => if isFin32 x ∧ (f.encode (f32 x)).1 % 2 ^ 15 = (if f = .bf16 then 0x7F80 else 0x7C00) then vfInf else 0
  | _ => if (f.encode (f32 x)).2 then vfSat else 0

/-- Bytes of a written vector with their write enables (R70–R72): for MX, the scale bytes; the flags of the conversion. -/
def packVec (f : Fmt) (xs : List Word) (lp : List Bool) : List (Bool × Byte) × List Byte × BitVec 4 :=
  let bytesOf (v w : Nat) : List Byte := leBytes w v
  if f.isMx then
    let blocks := (upTo 4).map (fun g => mxBlock f ((xs.drop (32 * g)).take 32) ((lp.drop (32 * g)).take 32))
    let codes := blocks.flatMap (·.2.1)
    let bytes : List (Bool × Byte) := match f.bits with
      | 8 => codes.map (fun c => (true, BitVec.ofNat 8 c))
      | 6 => (upTo 2).flatMap (fun h =>
          let v := ((codes.drop (64 * h)).take 64).zipIdx.foldl (fun acc e => acc + e.1 % 64 * 2 ^ (6 * e.2)) 0
          (bytesOf v 48).map (fun b => (true, b)) ++ List.replicate 16 (false, 0))
      | _ => (upTo 64).map (fun i => (true, BitVec.ofNat 8 (nth 0 codes (2 * i) % 16 + 16 * (nth 0 codes (2 * i + 1) % 16))))
    (bytes, blocks.map (fun b => BitVec.ofNat 8 b.1), if blocks.any (·.2.2) then vfSat else 0)
  else
    let w := f.bits / 8
    let enc := (upTo 128).map (fun l =>
      match f with
      | .raw32 | .fp32 => (nth 0 xs l).toNat
      | _ => (f.encode (f32 (nth 0 xs l))).1)
    ((enc.zipIdx.flatMap (fun e => (bytesOf e.1 w).map (fun b => (nth false lp e.2, b)))), [],
      (upTo 128).foldl (fun acc l => if nth false lp l then acc ||| convFlags f (nth 0 xs l) else acc) 0)

/-- Launch a write of bytes that may run past the end of a tile's memory: addresses are taken modulo its size (R67). -/
def launchMem (p at_ : Nat) (k : TMem) (t a : Nat) (bs : List (Bool × Byte)) (rank : Nat) (s : State) : State :=
  let a := a % k.size
  let n := k.size - a
  let s := launch p at_ (.mem k (BitVec.ofNat 7 t) a (bs.take n) rank) s
  if n < bs.length then launch p at_ (.mem k (BitVec.ofNat 7 t) 0 (bs.drop n) rank) s else s

/-- Write a result vector to the slot's destinations (R71, R72); `v` is its number. Returns the conversion's flags. -/
def writeVec (p t : Nat) (q : Part) (sl : VecSlot) (at_ v : Nat) (xs : List Word) (lp : List Bool) (toSp toLb : Bool)
    (s : State) : State × BitVec 4 :=
  if 14 ≤ sl.dfmt.toNat then (s, 0) else
  let f := vecFmt sl.dfmt.toNat
  let pk := packVec f xs lp
  let s := if toSp then
      let s := launchMem p at_ .scratch t (spAddr q sl sl.dspa + v * vecBytes f) pk.1 6 s
      if f.isMx then launchMem p at_ .scratch t (mxOut q sl + 4 * v) (pk.2.1.map (fun b => (true, b))) 6 s else s
    else s
  let s := if toLb then
      let ln := lbLine (sl.dlba.toNat + vecLbb q sl + v * vecLines f)
      let s := launchMem p at_ .lb t (64 * ln) pk.1 6 s
      if f.isMx then
        if f.bits = 4 then launchMem p at_ .side t (4 * ln) (pk.2.1.map (fun b => (true, b))) 6 s
        else
          let s := launchMem p at_ .side t (4 * ln) ((pk.2.1.take 2).map (fun b => (true, b))) 6 s
          launchMem p at_ .side t (4 * lbLine (ln + 1)) ((pk.2.1.drop 2).map (fun b => (true, b))) 6 s
      else s
    else s
  (s, if toSp || toLb then pk.2.2 else 0)

def State.tally (s : State) (t n : Nat) : Tally := mget tally0 (s.tile t).vec.tally n
def State.setTally (t n : Nat) (ty : Tally) (s : State) : State :=
  s.modTile t (fun tl => { tl with vec := { tl.vec with tally := mset tally0 tl.vec.tally n ty } })

/-- Bits of a 128-bit mask as booleans. -/
def maskBits (m : Nat) : List Bool := (upTo 128).map (fun l => bit m l)

/-- A chain on one vector: the lane-wise stages and scans in order, up to a last stage that COMPRESS or a reduction is. -/
def runStages (sc : Nat → DWord) (sl : VecSlot) (k : Nat) (hd : List Bool) : List Stage → Lanes → Tally → Lanes × Tally
  | [], L, ty => (L, ty)
  | st :: rest, L, ty =>
    if sopScan st.sop then
      let r := scanLanes st.sop (st.aux % 2 == 1) (operand L sc sl.sbase.toNat k st st.x) L.lp hd ty.run
      runStages sc sl k hd rest { (L.put st.dest r.1) with flags := L.flags ||| r.2.2 } { ty with run := r.2.1 }
    else if st.sop = 0x23 ∨ sopReduce st.sop ∨ st.sop = 0x24 then runStages sc sl k hd rest L ty
    else runStages sc sl k hd rest (laneStage sc sl.sbase.toNat k st L) ty

/-- The states of a vector entering a reduction: by lane, or by record for RWMERGE (R84). -/
def redInputs (op : Nat) (x : List Word) (lp : List Bool) (idx : Nat → Nat) : List LaneAcc :=
  (upTo 128).map (fun l =>
    if op = 0x31 then
      if l < 32 ∧ nth false lp (4 * l) then redRecord (nth 0 x (4 * l)) (nth 0 x (4 * l + 1)) (nth 0 x (4 * l + 2)) else laneAcc0
    else if nth false lp l then redElem op (nth 0 x l) (idx l) else laneAcc0)

/-- RWMERGE merges its records in record order (R84): those of a vector first, then the vectors of a group in issue order
(DESIGN CHOICE, log entry 124). -/
def redVector (op : Nat) (ins : List LaneAcc) : LaneAcc × BitVec 4 :=
  if op = 0x31 then ins.foldl (fun (a : LaneAcc × BitVec 4) b => let m := redMerge op a.1 b; (m.1, a.2 ||| m.2)) (laneAcc0, 0)
  else redTree op 7 ins

/-- Poison on the lines of the streams of vector v (R254). -/
def vecPois (q : Part) (sl : VecSlot) (tl : Tile) (v : Nat) (aSkip : Bool) : Bool :=
  let af := vecFmt sl.afmt.toNat
  let bf := vecFmt sl.bfmt.toNat
  let sp (a n : Nat) : Bool := (upTo ((a % 64 + n + 63) / 64)).any (fun i => tl.pois .scratch (spLine (a / 64 + i)))
  (!aSkip && (sl.asrc == 5 || sl.asrc == 6) && (streamLines (aMem sl) af (aAddr q sl) v).any (fun l => tl.pois (aMem sl) l)) ||
  (!aSkip && (sl.asrc == 5 || sl.asrc == 6) && af.isMx && sp (mxIn q sl + 4 * v) 4) ||
  (sl.bsrc == 1 && (streamLines .scratch bf (spAddr q sl sl.bspa) v).any (fun l => tl.pois .scratch l)) ||
  (sl.bsrc == 1 && bf.isMx && sp (mxIn q sl + 4 * v) 4) ||
  (sl.bsrc == 2 && sp (spAddr q sl sl.bspa + 8 * (v / 2 ^ sl.rgrp.toNat)) 8) ||
  ((sl.mstr == 1 || sl.mstr == 2) && sp (spAddr q sl sl.mspa + 16 * v) 16)

/-- Poison on a line that an EXPAND reads for elements i to j − 1 of its stream (R81, R254). -/
def expandPois (q : Part) (sl : VecSlot) (tl : Tile) (i j : Nat) : Bool :=
  let af := vecFmt sl.afmt.toNat
  (upTo (j - i)).any (fun d =>
    let e := i + d
    let b := aAddr q sl + e / 128 * vecBytes af + (if af.bits = 6 then e % 128 / 64 * 64 + e % 64 * 6 / 8 else e % 128 * af.bits / 8)
    tl.pois (aMem sl) (b % (aMem sl).size / 64) ||
      (af.isMx && tl.pois .scratch ((mxIn q sl + 4 * (e / 128)) % 8388608 / 64)))

/-- RUN on vector v of a hold of H, in one tile; `sc` gives the s-registers at the bundle's issue (R61–R90). A group that the
hold leaves incomplete forms no record, and RARGMAX with RDIR = 1 counts the vectors before its own (DESIGN CHOICE, log entry
124). -/
def runTile (p t : Nat) (sl : VecSlot) (sc : Nat → DWord) (v H : Nat) (s : State) : State :=
  let q := s.part p
  let tl := s.tile t
  let c := q.seq.cyc
  let st := chainRuns q sl.ch.toNat
  let k := v % 2 ^ sl.rgrp.toNat
  let ts := sl.tsl.toNat
  let expand := match st.head? with | some s0 => s0.sop == 0x24 | none => false
  let s := if vecPois q sl tl v expand then consumeAt p q.seq.gid 3 s else s
  let ty := match chainRole st sl.rdir with
    | some r => if v = 0 then takeRole r (s.tally t ts) else s.tally t ts
    | none => s.tally t ts
  let me := maskEntry q sl tl v
  let lp0 := maskVal tl sl.msk.toNat
  let lp := maskBits (if sl.mstr = 1 then Nat.land lp0 me else lp0)
  let hd := if sl.mstr = 2 then maskBits me else List.replicate 128 false
  let b := bVec q sl tl v
  let a := aVec q sl tl v
  let L0 : Lanes := ⟨a, b.1, b.2, splat 0, splat 0, splat 0, splat 0, vregVec tl (sl.vb0.toNat + k),
    vregVec tl (sl.vb1.toNat + k), lp, List.replicate 128 true, 0⟩
  -- EXPAND stands first (R81)
  let lead : Lanes × Tally :=
    match st.head? with
    | some s0 =>
      if s0.sop = 0x24 then
        let y := operand L0 sc sl.sbase.toNat k s0 s0.y
        if sl.asrc = 5 ∨ sl.asrc = 6 then
          let r := (upTo 128).foldl (fun (acc : List Word × Nat) l =>
            if nth false lp l then
              (streamElem (aMem sl) tl (vecFmt sl.afmt.toNat) (aAddr q sl) (mxIn q sl) acc.2 :: acc.1, acc.2 + 1)
            else (nth 0 y l :: acc.1, acc.2)) ([], ty.count)
          (L0.put s0.dest r.1.reverse, { ty with count := r.2 })
        else (L0.put s0.dest y, ty)
      else (L0, ty)
    | none => ({ L0 with prev := a }, ty)
  let s := if expand && (sl.asrc == 5 || sl.asrc == 6) && expandPois q sl tl ty.count lead.2.count then
      consumeAt p q.seq.gid 3 s else s
  let r := runStages sc sl k hd st lead.1 lead.2
  let L := r.1
  let ty := r.2
  let lat := 4 + sumL (st.map (fun s => sopLatency s.sop)) + (if (vecFmt sl.dfmt.toNat).isMx then 6 else 4)
  let toSp := sl.dst == 1 || sl.dst == 3
  let toLb := sl.dst == 2 || sl.dst == 3
  let lastSt := st.getLast?
  match lastSt with
  | some ls =>
    -- RWMERGE takes the A stream (R84)
    let x := if ls.sop = 0x31 then L.a else operand L sc sl.sbase.toNat k ls ls.x
    if ls.sop = 0x23 then
      -- COMPRESS (R80)
      let f := if (vecFmt sl.dfmt.toNat).isMx then Fmt.fp32 else vecFmt sl.dfmt.toNat
      let els := (upTo 128).filterMap (fun l => if nth false L.lp l then some (nth 0 x l) else none)
      let pend := ty.pend ++ els
      let first := ty.count - ty.pend.length
      let total := ty.count + els.length
      let upto_ := if H ≤ v + 1 then total else total / 128 * 128
      let n := upto_ - first
      let w := f.bits / 8
      let enc := (pend.take n).map (fun e => match f with | .raw32 | .fp32 => e.toNat | _ => (f.encode (f32 e)).1)
      let bytes := enc.flatMap (fun e => (leBytes w e).map (fun b => (true, b)))
      let wr := (toSp || toLb) && decide (sl.dfmt.toNat < 14)
      let fl := if wr then (pend.take n).foldl (fun acc e => acc ||| convFlags f e) L.flags else L.flags
      let lat := lat - (if (vecFmt sl.dfmt.toNat).isMx then 2 else 0)
      let s := s.setTally t ts { ty with count := total, pend := pend.drop n, flags := ty.flags ||| fl }
      let s := if toSp ∧ sl.dfmt.toNat < 14 ∧ n ≠ 0 then
        launchMem p (c + lat) .scratch t (spAddr q sl sl.dspa + w * first) bytes 6 s else s
      let s := if toLb ∧ sl.dfmt.toNat < 14 ∧ n ≠ 0 then
        launchMem p (c + lat) .lb t (64 * lbLine (sl.dlba.toNat + vecLbb q sl) + w * first) bytes 6 s else s
      launch p (c + lat) (.vflags (BitVec.ofNat 7 t) fl) s
    else if sopReduce ls.sop then
      let sample := ls.aux % 2 == 1
      let s2 := if toLb then writeVec p t q sl (c + lat) v x L.lp false true s else (s, 0)
      let sq := (upTo 128).foldl (fun acc l => if nth false L.lp l then acc ||| elemFlags ls.sop (nth 0 x l) else acc) (0 : BitVec 4)
      let fl0 := L.flags ||| s2.2 ||| sq
      let at_ := c + lat + redLatency ls.sop sl.rgrp.toNat sl.rdir - (if (vecFmt sl.dfmt.toNat).isMx then 2 else 0)
      if sl.rdir then
        let ins := redInputs ls.sop x L.lp (fun _ => Nat.min ty.vecs 0xFFFE)
        let merged := (upTo 128).map (fun l => redMerge ls.sop (mget laneAcc0 ty.lanes l) (nth laneAcc0 ins l))
        let fl := merged.foldl (fun acc m => acc ||| m.2) fl0
        let lanes' := merged.zipIdx.foldl (fun m e => mset laneAcc0 m e.2 e.1.1) ty.lanes
        let s := s2.1.setTally t ts { ty with lanes := lanes', vecs := ty.vecs + 1, flags := ty.flags ||| fl,
                                              nred := ty.nred + (L.lp.filter id).length }
        launch p at_ (.vflags (BitVec.ofNat 7 t) fl) s
      else
        let ins := redInputs ls.sop x L.lp (fun l => 128 * k + l)
        let vr := redVector ls.sop ins
        let prevAcc := if k = 0 then laneAcc0 else mget laneAcc0 ty.lanes 0
        let m := redMerge ls.sop prevAcc vr.1
        let isLast := k + 1 == 2 ^ sl.rgrp.toNat
        let ws := redWords ls.sop sample m.1
        let fl := fl0 ||| vr.2 ||| m.2 ||| (if isLast && ws.2 then vfEmpty else 0)
        let ty := { ty with lanes := mset laneAcc0 [] 0 m.1, flags := ty.flags ||| fl,
                            words := if isLast then ws.1 else ty.words, nred := if isLast then m.1.n else ty.nred }
        let s := s2.1.setTally t ts ty
        let g := v / 2 ^ sl.rgrp.toNat
        let off := if ws.1.length = 1 then
            (match sl.rpos.toNat with | 1 => 8 * g | 2 => 8 * g + 4 | _ => 4 * g)
          else 4 * ws.1.length * g
        let s := if isLast ∧ toSp then
          launchMem p at_ .scratch t (spAddr q sl sl.dspa + off)
            (ws.1.flatMap (fun w => (leBytes 4 w.toNat).map (fun b => (true, b)))) 6 s else s
        launch p at_ (.vflags (BitVec.ofNat 7 t) fl) s
    else
      let lpw := if expand then List.replicate 128 true else L.lp
      let w := writeVec p t q sl (c + lat) v L.prev lpw toSp toLb s
      let fl := L.flags ||| w.2
      let s := if (chainRole st sl.rdir).isSome then w.1.setTally t ts { ty with flags := ty.flags ||| fl } else w.1
      launch p (c + lat) (.vflags (BitVec.ofNat 7 t) fl) s
  | none =>
    let w := writeVec p t q sl (c + lat) v a L.lp toSp toLb s
    launch p (c + lat) (.vflags (BitVec.ofNat 7 t) w.2) w.1

/-- VLOAD of vector v (R67): cycles after the sixteenth write nothing. -/
def vloadTile (p t : Nat) (sl : VecSlot) (v : Nat) (s : State) : State :=
  let q := s.part p
  let tl := s.tile t
  let s := if vecPois q { sl with bsrc := 0, mstr := 0 } tl v false then consumeAt p q.seq.gid 3 s else s
  if 16 ≤ v then s
  else launch p (q.seq.cyc + 8) (.vreg (BitVec.ofNat 7 t) ((sl.vb0.toNat + v) % 16) (aVec q sl tl v)) s

/-- TCLR (R67). -/
def vecTclr (p n : Nat) (s : State) : State := forEach (s.part p).tiles (fun t s => s.setTally t n tally0) s

/-- TDRAIN's bytes (R87), with EMPTY. -/
def drainBytes (ty : Tally) : List Byte × Bool :=
  match ty.role with
  | .lanes op =>
    let o := op % 64
    let per := (upTo 128).map (fun l =>
      let a := mget laneAcc0 ty.lanes l
      let ws := redWords o (decide (64 ≤ op)) a
      let ws' := if o = 0x31 then
          (if fabs a.cnt = 0 then [a.mean, 0, a.cnt] else [a.mean, fdiv a.m2 a.cnt, a.cnt])
        else if o = 0x2D then ws.1 ++ [a.cnt] else ws.1
      (ws', ws.2))
    let cols := if o = 0x2D ∨ o = 0x31 then 3 else if o = 0x2C then 2 else 1
    ((upTo cols).flatMap (fun i => per.flatMap (fun w => leBytes 4 (nth 0 w.1 i).toNat)), per.any (·.2))
  | r =>
    let w0 : Nat := match r with
      | .scan _ => ty.run.toNat
      | .compress | .expand => ty.count
      | _ => (nth 0 ty.words 0).toNat
    let w1 : Nat := match r with | .record _ => (nth 0 ty.words 1).toNat | _ => 0
    let w2 : Nat := match r with | .record _ => ty.nred | _ => 0
    (leBytes 4 w0 ++ leBytes 4 w1 ++ leBytes 4 w2 ++ leBytes 4 ty.flags.toNat ++ List.replicate 48 0, false)

/-- TDRAIN (R87): it reaches the slot after every RUN issued before it has finished. -/
def vecTdrain (p : Nat) (sl : VecSlot) (s : State) : State :=
  let q := s.part p
  let after := maxL (q.seq.inflight.map (fun l => match l.w with
    | .mem _ _ _ _ 6 => l.at_
    | .vflags _ _ => l.at_
    | _ => 0))
  let at_ := Nat.max after q.seq.cyc + 8
  forEach q.tiles (fun t s =>
    let d := drainBytes (s.tally t sl.tsl.toNat)
    let s := launchMem p at_ .scratch t (spAddr q sl sl.dspa) (d.1.map (fun b => (true, b))) 6 s
    launch p at_ (.vflags (BitVec.ofNat 7 t) (if d.2 then vfEmpty else 0)) s) s

/-- MLOAD (R67): an MLOAD to M0 changes nothing. -/
def vecMload (p : Nat) (sl : VecSlot) (s : State) : State :=
  let q := s.part p
  if sl.msk = 0 then s else
  let a := spAddr q sl sl.aspa
  forEach q.tiles (fun t s =>
    let tl := s.tile t
    let s := if tl.pois .scratch (a / 64) then consumeAt p q.seq.gid 3 s else s
    launch p (q.seq.cyc + 8) (.mask (BitVec.ofNat 7 t) sl.msk.toNat (BitVec.ofNat 128 (leNat (tileBytes .scratch tl a 16)))) s) s

/-- A reserved ASRC makes the slot a NOP (R62). -/
def vecNop (sl : VecSlot) : Bool := sl.asrc == 7 && (sl.op == 1 || sl.op == 4)

/-- The clamps of a VEC slot, once for a bundle (R62–R86). A reserved code of a field that the opcode does not use neither acts
nor counts (DESIGN CHOICE, log entry 124). -/
def vecClamps (p : Nat) (sl : VecSlot) (s : State) : State :=
  let q := s.part p
  let cl (b : Bool) (s : State) := clampIf b p 2 s
  let op := sl.op.toNat
  let stream := op == 1 || op == 4
  let s := cl (decide (6 ≤ op)) s
  let s := cl (vecNop sl) s
  if !stream || vecNop sl then s else
  let accSrc := inRange 1 4 sl.asrc.toNat
  let memSrc := sl.asrc == 5 || sl.asrc == 6
  let s := cl (accSrc && !([0, 0xC, 0xD].contains sl.afmt.toNat)) s
  let s := cl (memSrc && decide (14 ≤ sl.afmt.toNat)) s
  if op = 4 then s else
  let s := cl (sl.bsrc == 3) s
  let s := cl (sl.bsrc == 1 && decide (14 ≤ sl.bfmt.toNat)) s
  let s := cl (sl.mstr == 3) s
  let whole := chainStages q sl.ch.toNat
  let cut := untilEnd whole
  let st := placed 0 false cut
  let s := cl ((whole.drop cut.length).head?.any (fun x => sopReserved x.sop)) s
  let s := cl (decide (st.length < cut.length)) s
  let nres := (st.flatMap stageOperands).filter (fun c => decide (0xD ≤ c))
  let s := forEach nres (fun _ s => clamp p 2 s) s
  let lastOp := match st.getLast? with | some x => x.sop | none => 0
  let s := cl (lastOp == 0x23 && inRange 5 9 sl.dfmt.toNat) s
  let s := cl ((if sopReduce lastOp then sl.dst == 2 || sl.dst == 3 else sl.dst != 0) && decide (14 ≤ sl.dfmt.toNat)) s
  let s := cl (st.any (fun x => x.sop == 0x24) && !memSrc) s
  let oneWord := sopReduce lastOp && lastOp != 0x2C && lastOp != 0x2D && lastOp != 0x31
  let s := cl (oneWord && !sl.rdir && sl.rpos == 3) s
  match chainRole st sl.rdir with
  | some r => cl (q.tiles.any (fun t =>
      let old := (s.tally t sl.tsl.toNat).role
      roleKind old != 0 && roleKind old != roleKind r)) s
  | none => s

/-- What a VEC slot does once, in the bundle's first cycle. -/
def vecOnce (p : Nat) (sl : VecSlot) (s : State) : State :=
  let s := vecClamps p sl s
  match sl.op.toNat with
  | 2 => vecTclr p sl.tsl.toNat s
  | 3 => vecTdrain p sl s
  | 5 => vecMload p sl s
  | _ => s

/-- Cycle k of a hold of H of a VEC slot, in every tile. -/
def vecCycle (p : Nat) (sl : VecSlot) (sc : Nat → DWord) (k H : Nat) (s : State) : State :=
  if vecNop sl then s
  else match sl.op.toNat with
    | 1 => forEach (s.part p).tiles (fun t s => runTile p t sl sc k H s) s
    | 4 => forEach (s.part p).tiles (fun t s => vloadTile p t sl k s) s
    | _ => s

end Sys2Proof.Machine
end

