-- ==== Sys2Proof/Machine/Update.lean ====
section
/-!
DEFINITION. The Update Unit (R145–R176): state records, step scalars, the optimizers, stochastic rounding, the compute
copy.
-/

namespace Sys2Proof.Machine

/-- Group descriptor fields with the values that are taken for reserved ones (R174). -/
def gdOpt (g : Nat) : Nat := fld g 0 2
def gdBf (g : Nat) : Bool := fld g 2 2 == 1
def gdW (g : Nat) : Nat := if 10 ≤ fld g 4 4 then 0 else fld g 4 4
def gdGradBf (g : Nat) : Bool := fld g 8 2 == 1
def gdSrm (g : Nat) : Bool := bit g 10
def gdSrc (g : Nat) : Bool := bit g 11 && gdW g == 1
def gdNest (g : Nat) : Bool := bit g 12
def gdClip (g : Nat) : Bool := bit g 13
def gdHyp (g : Nat) : Nat := fld g 14 3
def gdCoff (g : Nat) : Nat := fld g 17 17
def gdCsoff (g : Nat) : Nat := fld g 34 17
def gdSclay (g : Nat) : Bool := bit g 51

/-- Record length RL and its moment layout (R150): lines of m, lines of v. -/
def recLines (g : Nat) : Nat × Nat :=
  let m := if gdBf g then 1 else 2
  (m, if gdOpt g = 1 then m else 0)
def recLen (g : Nat) : Nat := 2 + (recLines g).1 + (recLines g).2

/-- The FP32 word 1.0. -/
def one32 : Word := 0x3F800000

/-- Clamps of a hyperparameter set (R175). -/
def clampBeta (w : Word) : Word := if isNan32 w ∨ flt w 0 then 0 else if flt one32 w then one32 else w
def clampEps (w : Word) : Word := if isNan32 w ∨ flt w 0x00800000 then 0x00800000 else w

/-- A hyperparameter set. -/
structure Hyp where
  b1 : Word
  b2 : Word
  eps : Word
  wd : Word
  maxnorm : Word

def hypRaw (q : Part) (h : Nat) : Hyp :=
  let r (j : Nat) := q.reg (0x30A0 + 4 * h + j)
  ⟨BitVec.ofNat 32 (r 0), BitVec.ofNat 32 (r 0 / 2 ^ 32), BitVec.ofNat 32 (r 1), BitVec.ofNat 32 (r 1 / 2 ^ 32), BitVec.ofNat 32 (r 2)⟩

def hypOf (q : Part) (h : Nat) : Hyp :=
  let x := hypRaw q h
  { x with b1 := clampBeta x.b1, b2 := clampBeta x.b2, eps := clampEps x.eps }

/-- Is MAXNORM one that R157 does not clip with. -/
def maxnormBad (w : Word) : Bool := isNan32 w || !flt 0 w

/-- What a STEP forms once for its bundle (R151, R152, R157). -/
structure StepK where
  copy : Bool
  skip : Bool
  clip : Bool
  lr : Word
  bc1 : Word
  bc2 : Word
  k : Word
  a1 : Word
  a2 : Word
  ebase : Nat
  estride : Nat
  t : Nat

def stepK (q : Part) (sl : UpdSlot) (sc : Nat → DWord) : StepK :=
  let g := q.reg (0x3090 + sl.gd.toNat)
  let h := hypOf q (gdHyp g)
  let s (i : Nat) := sc ((sl.sbase.toNat + i) % 64)
  let w (i : Nat) : Word := (s i).setWidth 32
  let clipOn := gdClip g && !maxnormBad h.maxnorm
  let skip := sl.op == 1 && gdOpt g != 3 && clipOn && !isFin32 (w 3)
  let clips := clipOn && flt h.maxnorm (w 3)
  let cf := if clips then fdiv h.maxnorm (w 3) else one32
  ⟨sl.op == 2 || gdOpt g == 3 || skip, skip, clips && sl.op == 1 && gdOpt g != 3 && !skip, w 0, w 1, w 2, fmul (w 4) cf,
    fsub one32 h.b1, fsub one32 h.b2, (s 5).toNat, (s 6).toNat, (s 7).toNat⟩

/-- One element's new state (R152, R153): p, m, v and whether it is kept. -/
def stepElem (g : Nat) (h : Hyp) (K : StepK) (G p m v : Word) : Word × Word × Word × Bool :=
  let gg := fmul G K.k
  let nlr := fneg K.lr
  let r : Word × Word × Word :=
    match gdOpt g with
    | 1 =>
      let m1 := ffma h.b1 m (fmul K.a1 gg)
      let v1 := ffma h.b2 v (fmul K.a2 (fmul gg gg))
      let u := fdiv (fmul m1 K.bc1) (fadd (fsqrt (fmul v1 K.bc2)) h.eps)
      (ffma nlr (ffma h.wd p u) p, m1, v1)
    | 2 =>
      let c := ffma h.b1 m (fmul K.a1 gg)
      let u : Word := if flt 0 c then one32 else if flt c 0 then 0xBF800000 else 0
      let m1 := ffma h.b2 m (fmul K.a2 gg)
      (ffma nlr (ffma h.wd p u) p, m1, v)
    | _ =>
      let m1 := ffma h.b1 m gg
      let d := if gdNest g then ffma h.b1 m1 gg else m1
      (ffma nlr (ffma h.wd p d) p, m1, v)
  let keep := !isFin32 G || !isFin32 gg || !isFin32 r.1 || !isFin32 r.2.1 || (gdOpt g == 1 && !isFin32 r.2.2)
  if keep then (p, m, v, true) else (r.1, r.2.1, r.2.2, false)

/-- A moment as it is stored (R154): its bits and SAT. -/
def storeMoment (g : Nat) (seed : DWord) (K : StepK) (stream : Word) (idx : Nat) (w : Word) : Nat × Bool :=
  if !gdBf g then (w.toNat, false)
  else if gdSrm g then
    let r := srBf16 w (srDraw seed (BitVec.ofNat 64 K.t) stream (BitVec.ofNat 64 idx))
    (r.1.toNat, r.2)
  else
    let b := (Fmt.bf16.encode (f32 w)).1
    if fld b 7 8 = 255 ∧ isFin32 w then (b / 32768 * 32768 + 0x7F7F, true) else (b, false)

/-- A compute-copy element that is not MX (R155). -/
def copyElem (g : Nat) (seed : DWord) (K : StepK) (idx : Nat) (p : Word) : Nat × Bool :=
  if gdSrc g ∧ isFin32 p then
    let r := srBf16 p (srDraw seed (BitVec.ofNat 64 K.t) 3 (BitVec.ofNat 64 idx))
    (r.1.toNat, r.2)
  else (vecFmt (gdW g)).encode (f32 p)

/-- Latency L (R158). -/
def updLatency (g : Nat) (copy : Bool) : Nat :=
  (if copy then 8 else if gdOpt g = 1 then 60 else 28) + (if 5 ≤ gdW g then 6 else 0) + (if gdSrm g || gdSrc g then 2 else 0)

/-- Bytes of compute copy and scale that a record writes (R155). -/
def copyBytes (g : Nat) : Nat :=
  let f := vecFmt (gdW g)
  if gdW g = 0 then 0 else 4 * f.bits + b2n f.isMx

/-- VN: active lanes in the last cycle (R149). -/
def vnLanes (v : BitVec 6) : Nat := if v = 0 ∨ 32 < v.toNat then 32 else v.toNat

/-- What one cycle of a UPD slot makes of one record: whether it consumed poison, its latency, the record's bytes with their
place, the copy's, the place and value of the scale byte, the flags, and how many lanes kept their old value. -/
structure UpdOut where
  pois : Bool
  lat : Nat
  dst : Nat
  bytes : List (Bool × Byte)
  copyAt : Nat
  copy : List (Bool × Byte)
  scale : Option (Nat × Nat)
  flags : BitVec 4
  kept : Nat

/-- Cycle c of a STEP or COPY of hold H in one tile (R149–R157); `sc` gives the s-registers at issue. -/
def updOut (q : Part) (tl : Tile) (t : Nat) (sl : UpdSlot) (sc : Nat → DWord) (c H : Nat) : UpdOut :=
  let g := q.reg (0x3090 + sl.gd.toNat)
  let h := hypOf q (gdHyp g)
  let K := stepK q sl sc
  let spb := fld (q.pbase 0x3081 sl.pt) 0 17
  let rl := recLen g
  let src := 64 * spLine (spb + sl.rspa.toNat + c * rl)
  let dst := 64 * spLine (spb + sl.wspa.toNat + c * rl)
  let gl := if gdGradBf g then 1 else 2
  let ga := 64 * spLine (spb + sl.gspa.toNat + c * gl)
  let seed := BitVec.ofNat 64 (q.reg 0x30C0)
  let rd (a n : Nat) := leNat (tileBytes .scratch tl a n)
  let act (l : Nat) : Bool := decide (c + 1 < H) || decide (l < vnLanes sl.vn)
  let lines (a n : Nat) : List Nat := (upTo n).map (fun i => (a / 64 + i) % 131072)
  let mw := if gdBf g then 2 else 4
  let mOff := 128
  let vOff := 128 + 64 * (recLines g).1
  let els := (upTo 32).map (fun l =>
    let P : Word := BitVec.ofNat 32 (rd (src + 4 * l) 4)
    let mom (off : Nat) : Word := if gdBf g then BitVec.ofNat 32 (rd (src + off + 2 * l) 2 * 65536) else BitVec.ofNat 32 (rd (src + off + 4 * l) 4)
    let M := mom mOff
    let V := if gdOpt g = 1 then mom vOff else 0
    let G : Word := if gdGradBf g then BitVec.ofNat 32 (rd (ga + 2 * l) 2 * 65536) else BitVec.ofNat 32 (rd (ga + 4 * l) 4)
    let r := if K.copy then (P, M, V, true) else stepElem g h K G P M V
    let idx := (K.ebase + q.rank t * K.estride + 32 * c + l) % 2 ^ 64
    let st (stream : Word) (w : Word) (off : Nat) : Nat × Bool :=
      if r.2.2.2 then (rd (src + off + mw * l) mw, false) else storeMoment g seed K stream idx w
    (r.1, st 1 r.2.1 mOff, st 2 r.2.2.1 vOff, r.2.2.2 && !K.copy, idx))
  let acts := (upTo 32).map act
  let live := (List.zip els acts).filterMap (fun e => if e.2 then some e.1 else none)
  let field (w : Nat) (f : Word × (Nat × Bool) × (Nat × Bool) × Bool × Nat → Nat) : List (Bool × Byte) :=
    (List.zip els acts).flatMap (fun e => (leBytes w (f e.1)).map (fun b => (e.2, b)))
  let bytes := field 4 (fun e => e.1.toNat) ++ field mw (fun e => e.2.1.1) ++ (if gdOpt g = 1 then field mw (fun e => e.2.2.1.1) else [])
  let w := gdW g
  let f := vecFmt w
  let cbase := spb + sl.wspa.toNat + gdCoff g
  let copy : List (Bool × Byte) × Nat × Option Nat × Bool :=
    if w = 0 then ([], 0, none, false)
    else if 5 ≤ w then
      let b := mxBlock f (els.map (·.1)) acts
      let packed : List Byte × Nat := match f.bits with
        | 8 => (b.2.1.map (BitVec.ofNat 8), 64 * (cbase + c / 2) + 32 * (c % 2))
        | 6 => (leBytes 24 (b.2.1.zipIdx.foldl (fun acc e => acc + e.1 % 64 * 2 ^ (6 * e.2)) 0), 64 * (cbase + c / 2) + 24 * (c % 2))
        | _ => ((upTo 16).map (fun i => BitVec.ofNat 8 (nth 0 b.2.1 (2 * i) % 16 + 16 * (nth 0 b.2.1 (2 * i + 1) % 16))),
            64 * (cbase + c / 4) + 16 * (c % 4))
      (packed.1.map (fun x => (true, x)), packed.2, some b.1, b.2.2)
    else
      let cs := els.map (fun e => copyElem g seed K e.2.2.2.2 e.1)
      let wd := f.bits / 8
      ((List.zip cs acts).flatMap (fun e => (leBytes wd e.1.1).map (fun b => (e.2, b))),
        64 * cbase + wd * 32 * c, none, (List.zip cs acts).any (fun e => e.1.2 && e.2))
  let kept := (live.filter (fun e => e.2.2.2.1)).length
  let sat := live.any (fun e => e.2.1.2 || e.2.2.1.2) || copy.2.2.2
  let fl : Nat := b2n (decide (0 < kept)) + 2 * b2n sat + 4 * b2n (K.clip && c == 0) + 8 * b2n (K.skip && c == 0)
  { pois := (lines src rl ++ (if K.copy then [] else lines ga gl)).any (fun l => tl.pois .scratch l)
    lat := updLatency g K.copy
    dst := dst
    bytes := bytes
    copyAt := copy.2.1
    copy := copy.1
    scale := copy.2.2.1.map (fun sb =>
      (64 * (spb + sl.wspa.toNat + gdCsoff g) + (if gdSclay g ∧ f.bits ≠ 4 then 4 * (c / 2) + c % 2 else c), sb))
    flags := BitVec.ofNat 4 fl
    kept := kept }

/-- Cycle c of a hold of H in one tile: the record is read, and what becomes of it is on its way (R147–R174). -/
def updTile (p t : Nat) (sl : UpdSlot) (sc : Nat → DWord) (c H : Nat) (s : State) : State :=
  let q := s.part p
  let o := updOut q (s.tile t) t sl sc c H
  let s := if o.pois then consumeAt p q.seq.gid 3 s else s
  let at_ := q.seq.cyc + o.lat
  let s := launchMem p at_ .scratch t o.dst o.bytes 7 s
  let s := if o.copy = [] then s else launchMem p at_ .scratch t o.copyAt o.copy 7 s
  let s := match o.scale with
    | none => s
    | some e => launchMem p at_ .scratch t e.1 [(true, BitVec.ofNat 8 e.2)] 7 s
  launch p at_ (.uflags (BitVec.ofNat 7 t) o.flags o.kept) s

/-- Clamps of a UPD slot, once for a bundle (R148, R149, R157, R165, R174, R175). -/
def updClamps (p : Nat) (sl : UpdSlot) (s : State) : State :=
  let cl (b : Bool) (s : State) := clampIf b p 3 s
  if 5 ≤ sl.op.toNat then clamp p 3 s
  else if sl.op ≠ 1 ∧ sl.op ≠ 2 then s
  else
    let q := s.part p
    let ga := 0x3090 + sl.gd.toNat
    let g := q.reg ga
    let s := cl (decide (32 < sl.vn.toNat)) s
    let s := if q.isFresh ga then
        useReg p ga (cl (bit g 11 && fld g 4 4 != 1) (cl (decide (2 ≤ fld g 8 2)) (cl (decide (10 ≤ fld g 4 4))
          (cl (decide (2 ≤ fld g 2 2)) (cl (fld g 0 2 == 3) s)))))
      else s
    let h := gdHyp g
    let a0 := 0x30A0 + 4 * h
    let r := hypRaw q h
    let s := if q.isFresh a0 then
        useReg p a0 (cl (r.b2 != clampBeta r.b2) (cl (r.b1 != clampBeta r.b1) s)) else s
    let s := if q.isFresh (a0 + 1) then useReg p (a0 + 1) (cl (r.eps != clampEps r.eps) s) else s
    if q.isFresh (a0 + 2) ∧ gdClip g then useReg p (a0 + 2) (cl (maxnormBad r.maxnorm) s) else s

/-- FCLR (R148). -/
def updFclrAll (p : Nat) (s : State) : State :=
  forEach (s.part p).tiles (fun t s => s.modTile t (fun tl => { tl with updStat := 0 })) s

/-- Cycle k of a hold of H of a UPD slot, in every tile. -/
def updCycle (p : Nat) (sl : UpdSlot) (sc : Nat → DWord) (k H : Nat) (s : State) : State :=
  if sl.op = 1 ∨ sl.op = 2 then forEach (s.part p).tiles (fun t s => updTile p t sl sc k H s) s else s

end Sys2Proof.Machine
end

