-- ==== Sys2Proof/Machine/Mover.lean ====
section
/-!
DEFINITION. The Movers (R107–R112).
-/

namespace Sys2Proof.Machine

/-- Memory codes of SEQ_MVDESC (R108). -/
def mvKind (c : Nat) : Option TMem :=
  match c with | 0 => some .scratch | 1 => some .lb | 2 => some .side | _ => none

/-- The tile at an offset from a tile, if it is on the die (R13). -/
def tileAt (t : Nat) (dx dy : Int) : Option Nat :=
  let x := (t % 16 : Nat) + dx
  let y := (t / 16 : Nat) + dy
  if 0 ≤ x ∧ x < 16 ∧ 0 ≤ y ∧ y < 8 then some (16 * y.toNat + x.toNat) else none

/-- Tiles between two coordinates on one axis, ends included. -/
def span (a b : Nat) : List Nat := (upTo (Nat.max a b + 1 - Nat.min a b)).map (fun i => Nat.min a b + i)

/-- The tiles of a route: X first, then Y, or Y first (R108). -/
def routeTiles (yFirst : Bool) (a b : Nat) : List Nat :=
  let ax := a % 16; let ay := a / 16; let bx := b % 16; let bY := b / 16
  if yFirst then (span ay bY).map (fun y => 16 * y + ax) ++ (span ax bx).map (fun x => 16 * bY + x)
  else (span ax bx).map (fun x => 16 * ay + x) ++ (span ay bY).map (fun y => 16 * y + bx)

/-! The mesh (R110, R111). -/

/-- The class M0–M2 that FCLK cycle `f` of a link goes to, from those that wait (R111); `m2Last` says that M2 was the last to be
given an eighth cycle while M0 waited. -/
def linkGrant (f : Nat) (w0 w1 w2 m2Last : Bool) : Option Nat :=
  if f % 8 = 7 ∧ w0 then some (if w1 && w2 then (if m2Last then 1 else 2) else if w1 then 1 else if w2 then 2 else 0)
  else if f % 8 = 7 ∧ w1 then some (if w2 then 2 else 1)
  else if w0 then some 0 else if w1 then some 1 else if w2 then some 2 else none

/-- Coordinates from a to b, a first. -/
def walk (a b : Nat) : List Nat := if a ≤ b then span a b else (span a b).reverse

/-- The links of a route in order, each by its tile and direction: 0 east, 1 west, 2 south, 3 north. -/
def routeLinks (yFirst : Bool) (a b : Nat) : List Nat :=
  let xs (y : Nat) := (walk (a % 16) (b % 16)).dropLast.map (fun x => 4 * (16 * y + x) + (if a % 16 < b % 16 then 0 else 1))
  let ys (x : Nat) := (walk (a / 16) (b / 16)).dropLast.map (fun y => 4 * (16 * y + x) + (if a / 16 < b / 16 then 2 else 3))
  if yFirst then ys (a % 16) ++ xs (b / 16) else xs (a / 16) ++ ys (b % 16)

/-- 64-byte lines that a 2,048-bit link carries in an FCLK cycle. -/
def linkLines : Nat := 4

/-- The FCLK cycle, `f` or later, in which a Mover line crosses a link (R111). Whether lines of the lower classes wait at an eighth
cycle is a free value: what the other units send and when is not given (log entry 125). -/
def crossLink (p k : Nat) : Nat → Nat → State → Nat × State
  | 0, f, s => (f, s)
  | n + 1, f, s =>
    let l := mget meshLink0 (s.seq p).links k
    let settled (l : MeshLink) (s : State) : State := s.modSeq p (fun q => { q with links := mset meshLink0 q.links k l })
    if f % 8 = 7 ∧ mget 0 l.eighth f = 0 then
      let (v, s) := fresh s
      let g := (linkGrant f true (bit v 0) (bit v 1) l.m2Last).getD 0
      crossLink p k n f (settled { l with
        eighth := mset 0 l.eighth f (g + 1), m2Last := if g = 0 then l.m2Last else g == 2 } s)
    else if (f % 8 = 7 ∧ mget 0 l.eighth f ≠ 1) ∨ linkLines ≤ mget 0 l.used f then crossLink p k n (f + 1) s
    else (f, settled { l with used := mmod 0 l.used f (· + 1) } s)

/-- A line crosses the links of a route one after another, at each an FCLK cycle later at the earliest; links in `done_` have
already carried it to another destination. Answers the FCLK cycle in which it has crossed the last. -/
def crossLinks (p : Nat) (done_ : List Nat) : List Nat → Nat → State → Nat × State
  | [], f, s => (f, s)
  | k :: ks, f, s =>
    if done_.contains k then crossLinks p done_ ks (f + 1) s
    else let r := crossLink p k 8192 f s; crossLinks p done_ ks (r.1 + 1) r.2

/-- What a link has carried in FCLK cycles before `f` no longer matters. -/
def MeshLink.prune (f : Nat) (l : MeshLink) : MeshLink :=
  { l with used := mfilter (fun c => decide (f ≤ c)) l.used, eighth := mfilter (fun c => decide (f ≤ c)) l.eighth }

/-- A Mover line leaves in ACLK cycle c by the routes given, one for each destination: the ACLK cycle in which the last of them
has brought it over the mesh. Without more Mover lines than R110 allows it is no later than R110's bound. -/
def meshTime (p c : Nat) (routes : List (List Nat)) (s : State) : Nat × State :=
  let s := s.modSeq p (fun q => { q with links := q.links.map (fun e => (e.1, e.2.prune (c / 2))) })
  let r := routes.foldl (fun (acc : Nat × List Nat × State) ks =>
    let x := crossLinks p acc.2.1 ks (c / 2) acc.2.2
    (Nat.max acc.1 x.1, acc.2.1 ++ ks, x.2)) (c / 2, [], s)
  (2 * r.1 + 5, r.2.2)

/-- Hops between two tiles. -/
def hops (a b : Nat) : Nat := (span (a % 16) (b % 16)).length + (span (a / 16) (b / 16)).length - 2

/-- Where a RUN's tile reads and writes: source tile, destination tiles, hop count; `none` where something leaves the
partition (R110, R112). -/
def mvRoute (q : Part) (d t : Nat) : Option (Nat × List Nat × Nat) :=
  match tileAt t (sfld d 4 5) (sfld d 9 4) with
  | none => none
  | some src =>
    let dests? : Option (List Nat) := if bit d 22 then some q.tiles else (tileAt t (sfld d 13 5) (sfld d 18 4)).map (fun x => [x])
    match dests? with
    | none => none
    | some ds =>
      if q.hasTile src && ds.all (fun x => (routeTiles (bit d 57) src x).all q.hasTile) then
        some (src, ds, if bit d 22 then maxL (q.tiles.map (hops t)) else maxL (ds.map (hops src)))
      else none

/-- Line of a tile's memory: pass base, offset, step (R109). -/
def mvLine (k : TMem) (pb off step i : Nat) : Nat :=
  match k with
  | .scratch => spLine (fld pb 0 17 + off + i * step)
  | .lb => lbLine (fld pb 51 12 + off + i * step)
  | .side => (off + i * step) % 256

/-- Cycle k of a hold of a MOV slot in one tile (R109–R111): the line lands at R110's bound, or later where the links of its route
are overloaded. -/
def movTile (p t : Nat) (m : BitVec 1) (sl : MovSlot) (k : Nat) (s : State) : State :=
  let q := s.part p
  let d := q.reg (0x40 + sl.desc.toNat)
  match mvKind (fld d 0 2), mvKind (fld d 2 2), mvRoute q d t with
  | some sk, some dk, some (src, ds, h) =>
    let pb := q.pbase 0x10 sl.pt
    let a := 64 * mvLine sk pb sl.src.toNat (fld d 23 17) k
    let b := 64 * mvLine dk pb sl.dst.toNat (fld d 40 17) k
    let tl := s.tile src
    let s := s.modSeq p (fun q => { q with movTok := mset 0 q.movTok sl.tok.toNat (mget 0 q.movTok sl.tok.toNat + 1) })
    let m' := meshTime p q.seq.cyc (ds.map (routeLinks (bit d 57) src)) s
    let s := m'.2
    launch p (Nat.max (q.seq.cyc + 6 + 4 * h) m'.1) (.mover dk (ds.map (BitVec.ofNat 7)) b (rdBytes (tl.bytes sk) a 64) (tl.pois sk (a / 64))
      sl.tok m) s
  | _, _, _ => s

/-- A MOV slot whose opcode is RUN and whose descriptor's kinds are not reserved. -/
def movRuns (q : Part) (sl : MovSlot) : Bool :=
  let d := q.reg (0x40 + sl.desc.toNat)
  sl.op == 1 && (mvKind (fld d 0 2)).isSome && (mvKind (fld d 2 2)).isSome

/-- Does a tile's move leave the partition (R112). -/
def movLeaves (q : Part) (sl : MovSlot) : Bool :=
  movRuns q sl && q.tiles.any (fun t => (mvRoute q (q.reg (0x40 + sl.desc.toNat)) t).isNone)

/-- Clamps of a bundle's MOV slots (R107, R108, R112): reserved codes for each slot, moves that leave the partition once. -/
def movClamps (p : Nat) (sls : List MovSlot) (s : State) : State :=
  let q := s.part p
  let s := forEach sls (fun sl s => clampIf (sl.op != 0 && !movRuns q sl) p 5 s) s
  clampIf (sls.any (movLeaves q)) p 5 s

/-- Cycle k of a hold of a MOV slot, in every tile. -/
def movCycle (p : Nat) (m : BitVec 1) (sl : MovSlot) (k : Nat) (s : State) : State :=
  if movRuns (s.part p) sl then forEach (s.part p).tiles (fun t s => movTile p t m sl k s) s else s

/-- The n-th Mover line on its way. -/
def nthMover : List Landing → Nat → Option Landing
  | [], _ => none
  | l :: ls, n => match l.w with
    | .mover _ _ _ _ _ _ _ => if n = 0 then some l else nthMover ls (n - 1)
    | _ => nthMover ls n

/-- A Mover line arrives ahead of its bound (R110: "no later than"). -/
def moverArrive (p n : Nat) (s : State) : State :=
  match nthMover (s.seq p).inflight n with
  | none => s
  | some l => landAt p { l with at_ := now s p } (s.modSeq p (fun q => { q with inflight := q.inflight.erase l }))

end Sys2Proof.Machine
end

