-- ==== Sys2Proof/Machine/Scalar.lean ====
section
/-!
DEFINITION. The SCL slot (R104, R105) and the Check-Value Unit it feeds (R407–R410).
-/

namespace Sys2Proof.Machine

/-- One CVU feed enters the running value, lowest byte first (R407, R408). -/
def cvuTake (c : Cvu) (bs : List Byte) : Cvu :=
  { c with val := BitVec.ofNat 64 (bs.foldl (crcFeed c.alg.toNat) c.val.toNat) }

/-- The oldest queued feed is processed. -/
def Cvu.step (c : Cvu) : Cvu :=
  match c.queue with
  | [] => c
  | b :: bs => { cvuTake c b with queue := bs }

/-- All queued feeds are processed, in order. -/
def Cvu.drain (c : Cvu) : Cvu := { c.queue.foldl cvuTake c with queue := [] }

/-- A CHECK's comparison (R409): 32-bit algorithms compare bits [31:0]. -/
def cvuMatches (c : Cvu) : Bool :=
  if c.alg = 2 then cvuRes c == c.exp.toNat else cvuRes c == fld c.exp.toNat 0 32

/-- The CVU mismatch interrupt takes effect (R410). -/
def cvuInterrupt (p : Nat) (halt : Bool) (s : State) : State :=
  if halt then partFault p 2 0x33 0 s else report 0 2 0x51 p 0 s

/-- A write of CVU_CTL (R409): ALG and HALT, then CHECK on the value before INIT, then INIT. A mismatch is held while a
gate is unresolved (R410). -/
def cvuCtl (p : Nat) (alg : Nat) (init check halt : Bool) (s : State) : State :=
  let s := clampIf (alg == 3) p 4 s
  let s := s.modPart p (fun q => { q with cvu := { q.cvu.drain with alg := if alg = 3 then 0 else BitVec.ofNat 2 alg, halt := halt } })
  let c := (s.part p).cvu
  let good := cvuMatches c
  let s := if check then
      let s := s.modPart p (fun q => { q with cvu := { q.cvu with stat := q.cvu.stat ||| (if good then 2 else 1) } })
      if good then s
      else if (s.seq p).gates ≠ [] then cqPush p 1 (.cvuMismatch halt) s else cvuInterrupt p halt s
    else s
  if init then
    s.modPart p (fun q => { q with cvu := { q.cvu with val := BitVec.ofNat 64 (crcInit q.cvu.alg.toNat) } })
  else s

/-- An RWR of a CVU register: after every CVUF issued before it, with no delay (R408). -/
def cvuWrite (p a v : Nat) (s : State) : State :=
  let s := s.modPart p (fun q => { q with cvu := q.cvu.drain })
  let c := (s.part p).cvu
  let upd (c : Cvu) : State := s.modPart p (fun q => { q with cvu := c })
  let v32 := BitVec.ofNat 64 (fld v 0 32 + fld c.val.toNat 32 32 * 2 ^ 32)
  if a = 0x100 then cvuCtl p (fld v 0 2) (bit v 2) (bit v 3) (bit v 4) s
  else if a = 0x101 then upd { c with val := if c.alg = 2 then BitVec.ofNat 64 v else v32 }
  else if a = 0x103 then upd { c with exp := BitVec.ofNat 64 v }
  else if a = 0x104 then upd { c with stat := c.stat &&& ~~~(BitVec.ofNat 2 v) }
  else s

/-- A CVUF finds the queue full: a place frees first (R408). -/
def cvuFeed (p : Nat) (bs : List Byte) (s : State) : State :=
  s.modPart p (fun q =>
    let c := if 8 ≤ q.cvu.queue.length then q.cvu.step else q.cvu
    { q with cvu := { c with queue := c.queue ++ [bs] } })

/-- Signed order of two double words. -/
def sltD (a b : DWord) : Bool := decide (a.toInt < b.toInt)

/-- IMM sign-extended from bit 39. -/
def immS (i : BitVec 40) : DWord := i.signExtend 64

/-- The s-register a one-cycle or four-cycle SCL opcode writes, and its latency (R104); `none` for the others. -/
def sclAlu (op : Nat) (a b d : DWord) (imm : BitVec 40) : Option (DWord × Nat) :=
  let w (x : DWord) : Word := x.setWidth 32
  match op with
  | 0x01 => some (immS imm, 1)
  | 0x02 => some (a + b, 1)
  | 0x03 => some (a - b, 1)
  | 0x04 => some (a + immS imm, 1)
  | 0x05 => some (a * b, 1)
  | 0x06 => some (a &&& b, 1)
  | 0x07 => some (a ||| b, 1)
  | 0x08 => some (a ^^^ b, 1)
  | 0x09 => some (a <<< (b.toNat % 64), 1)
  | 0x0A => some (a >>> (b.toNat % 64), 1)
  | 0x0B => some (a.sshiftRight (b.toNat % 64), 1)
  | 0x0C => some (if sltD a b then 1 else 0, 1)
  | 0x0D => some (if a.toNat < b.toNat then 1 else 0, 1)
  | 0x0E => some (if a = b then 1 else 0, 1)
  | 0x0F => some (if sltD b a then b else a, 1)
  | 0x10 => some (if sltD a b then b else a, 1)
  | 0x11 => some ((fadd (w a) (w b)).setWidth 64, 4)
  | 0x12 => some ((fmul (w a) (w b)).setWidth 64, 4)
  | 0x13 => some ((ffma (w a) (w b) (w d)).setWidth 64, 4)
  | _ => none

/-- Is an opcode one of the table's (R104). -/
def sclKnown (op : Nat) : Bool := decide (op ≤ 0x13) || inRange 0x18 0x1D op

/-- A result of the SCL slot becomes visible `lat` cycles on, in the context that issues; the s-register that LOOP writes
takes none (R101). -/
def sclResult (p lat : Nat) (skip : Option SReg) (d : SReg) (v : DWord) (s : State) : State :=
  if skip == some d then s else launch p (now s p + lat) (.sreg (s.seq p).ctxB d v) s

/-- RRD (R104, R105): an address that is none reads 0 and is clamped; CVU registers are read after the queued feeds. -/
def sclRrd (p : Nat) (skip : Option SReg) (d : SReg) (a : Nat) (s : State) : State :=
  let cvu := inRange 0x100 0x1FF a
  let feeds := sumL ((s.part p).cvu.queue.map List.length)
  let s := if cvu then s.modPart p (fun q => { q with cvu := q.cvu.drain }) else s
  let lat := if a = 0x101 ∨ a = 0x102 then Nat.max 8 feeds else 8
  match regRead s p a with
  | some v => sclResult p lat skip d (BitVec.ofNat 64 v) s
  | none => sclResult p 8 skip d 0 (clamp p 4 s)

/-- RWR (R104–R106). -/
def sclRwr (p a : Nat) (v : DWord) (s : State) : State :=
  if inRange 0x100 0x104 a then cvuWrite p a v.toNat s
  else if regExists s p a then launch p (now s p + 3) (.reg (s.seq p).ctxB (BitVec.ofNat 16 a) v) s
  else clamp p 4 s

/-- Scratchpad address of SLD, SLD8 and SST (R104): tile, line, byte of the word. -/
def sldTile (imm : BitVec 40) : Nat := fld imm.toNat 17 7
def sldLine (imm : BitVec 40) : Nat := fld imm.toNat 0 17
def sldByte (imm : BitVec 40) : Nat := 64 * sldLine imm + 8 * fld imm.toNat 24 3

/-- SLD and SLD8 (R104, R105): a tile outside the partition reads 0 and is clamped. -/
def sclSld (p : Nat) (n : Nat) (skip : Option SReg) (d : SReg) (imm : BitVec 40) (s : State) : State :=
  let t := sldTile imm
  let ok := (s.part p).hasTile t
  let base := if n = 1 then sldByte imm else 64 * sldLine imm
  let s := clampIf (!ok) p 4 s
  let tl := s.tile t
  forEach (upTo n) (fun k s =>
    sclResult p 12 skip (d + BitVec.ofNat 6 k) (if ok then BitVec.ofNat 64 (rdLe tl.scratch (base + 8 * k) 8) else 0) s) s

/-- The delivery slot whose completion word a Scratchpad address is (R368). -/
def completionSlot (q : Part) (t line word : Nat) : Option Nat :=
  match q.tiles.head? with
  | none => none
  | some t0 =>
    let off := (line + 131072 - q.dlvLine % 131072) % 131072
    if t = t0 ∧ word = 7 ∧ off % 2 = 1 ∧ off / 2 < q.dlvCount then some (off / 2) else none

/-- A completion store is released: its step waits for the host link (R368). -/
def releaseStore (p slot : Nat) (s : State) : State :=
  s.modPart p (fun q => { q with dlv := q.dlv.map (fun e =>
    if e.1 = slot then (e.1, e.2.map (fun d => { d with stored := true })) else e) })

/-- SST (R104, R105, R368). -/
def sclSst (p : Nat) (v : DWord) (imm : BitVec 40) (s : State) : State :=
  let q := s.part p
  let t := sldTile imm
  if !(q.hasTile t) then clamp p 4 s
  else
    let s := launch p (now s p + 4) (.mem .scratch (BitVec.ofNat 7 t) (sldByte imm)
      ((leBytes 8 v.toNat).map (fun b => (true, b))) 4) s
    match completionSlot q t (sldLine imm) (fld imm.toNat 24 3) with
    | none => s
    | some k =>
      match mget none q.dlv k with
      | none => clamp p 0xA s
      | some _ => if q.seq.gates ≠ [] then cqPush p 1 (.complete (BitVec.ofNat 16 k)) s else releaseStore p k s

/-- CVUF (R104, R408): size code 3 feeds nothing and is clamped. -/
def sclCvuf (p : Nat) (v : DWord) (size : Nat) (s : State) : State :=
  if size = 3 then clamp p 4 s else cvuFeed p (leBytes (2 ^ size) v.toNat) s

/-- The SCL slot, in the bundle's first cycle (R104). `skip` is the s-register that LOOP writes, whose SCL result is
discarded (R101). -/
def sclSlot (p : Nat) (sl : SclSlot) (skip : Option SReg) (s : State) : State :=
  let c := (s.part p).ctx
  let a := c.sreg sl.a.toNat
  let b := c.sreg sl.b.toNat
  let op := sl.sopc.toNat
  match sclAlu op a b (c.sreg sl.d.toNat) sl.imm with
  | some (v, lat) => sclResult p lat skip sl.d v s
  | none =>
    match op with
    | 0x18 => sclRrd p skip sl.d (fld sl.imm.toNat 0 16) s
    | 0x19 => sclRwr p (fld sl.imm.toNat 0 16) a s
    | 0x1A => sclSld p 1 skip sl.d sl.imm s
    | 0x1B => sclSld p 8 skip sl.d sl.imm s
    | 0x1C => sclSst p a sl.imm s
    | 0x1D => sclCvuf p a (fld sl.imm.toNat 0 2) s
    | _ => clampIf (!(sclKnown op)) p 4 s

end Sys2Proof.Machine
end

