-- ==== Sys2Proof/Machine/Hbm.lean ====
section
/-!
DEFINITION. The HBM memory system (R213–R245) and its integrity and encryption (R246–R274): translation, windows, channel
mapping, reading and writing a line, the decoder's outcomes, pins, rows, thermal levels, retrains, key slots.
-/

namespace Sys2Proof.Machine

def State.modHbm (f : Hbm → Hbm) (s : State) : State := { s with hbm := f s.hbm }

def State.chan (s : State) (c : Nat) : Chan := mget chan0 s.hbm.chans c
def State.modChan (c : Nat) (f : Chan → Chan) (s : State) : State :=
  s.modHbm (fun h => { h with chans := mmod chan0 h.chans c f })
def State.therm (s : State) (k : Nat) : Therm := mget therm0 s.hbm.therm k
def State.keyReg (s : State) (k : Nat) : KeyReg := mget keyReg0 s.hbm.keys k
def State.modKey (k : Nat) (f : KeyReg → KeyReg) (s : State) : State :=
  s.modHbm (fun h => { h with keys := mmod keyReg0 h.keys k f })
def State.arb (s : State) (k : Nat) : PcArb := mget pcArb0 s.hbm.arbs k
def State.modArb (k : Nat) (f : PcArb → PcArb) (s : State) : State :=
  s.modHbm (fun h => { h with arbs := mmod pcArb0 h.arbs k f })

/-- Device byte address of a partition line (R218); `none` is a hole. -/
def translate (s : State) (p line : Nat) : Option Nat :=
  match s.hbm.slabs.find? (fun e => e.2.avail && e.2.grants p && e.2.pslot.toNat == line / 2 ^ 23) with
  | some (n, _) => some (n * 2 ^ 29 + 64 * (line % 2 ^ 23))
  | none => none

/-- The end E of p's window, in lines (R219). -/
def windowEnd (s : State) (p : Nat) : Nat :=
  let l := (s.hbm.slabs.filter (fun e => e.2.grants p)).map (fun e => e.2.pslot.toNat + 1)
  2 ^ 23 * maxL l

/-- A request for n lines from line a, clamped into the window (R219): first line, count, whether it was clamped. -/
def windowClamp (s : State) (p a n : Nat) : Nat × Nat × Bool :=
  let e := windowEnd s p
  let a := a % 2 ^ 34
  if e < n then (0, e, true) else if e < a + n then (e - n, n, true) else (a, n, false)

/-- The slab of a device address. -/
def slabOf (dev : Nat) : Nat := dev / 2 ^ 29

/-- Is a line one of the window's holes, or in a shared slab (R219). -/
def lineHole (s : State) (p line : Nat) : Bool := (translate s p line).isNone
def lineShared (s : State) (p line : Nat) : Bool :=
  match translate s p line with | some d => (s.slab (slabOf d)).shared | none => false

/-- The first line of each partition slab that a run of lines touches: a run holds a hole or a shared line when one of these is. -/
def runSlabs (a n : Nat) : List Nat :=
  if n = 0 then [] else (upTo ((a + n - 1) / 2 ^ 23 + 1 - a / 2 ^ 23)).map (fun i => 2 ^ 23 * (a / 2 ^ 23 + i))

/-- A read, or a write, of lines that a descriptor names (R219): first line, count, and whether it is clamped, at the window or at a
hole or, for a write, at a shared slab. -/
def readClamp (s : State) (p a n : Nat) : Nat × Nat × Bool :=
  let c := windowClamp s p a n
  (c.1, c.2.1, c.2.2 || (runSlabs c.1 c.2.1).any (lineHole s p))
def writeClamp (s : State) (p a n : Nat) : Nat × Nat × Bool :=
  let c := windowClamp s p a n
  (c.1, c.2.1, c.2.2 || (runSlabs c.1 c.2.1).any (fun l => lineHole s p l || lineShared s p l))

/-- Channel and pseudo-channel of a device address (R220), and its block index within the channel. -/
def chanOf (s : State) (dev : Nat) : Nat × Nat × Nat :=
  let b := dev / 512
  let n := if s.hbm.mapout.isSome then 255 else 256
  let q := b / n
  let h := Nat.xor (Nat.xor (fld q 0 8) (fld q 8 8)) (fld q 16 6)
  let i := (b % n + h) % n
  let c := match s.hbm.mapout with
    | none => i
    | some m => if i < m.toNat then i else i + 1
  (c, dev / 64 % 8 % 2, q)

/-- Stack of a channel (R13). -/
def stackOf (c : Nat) : Nat := c / 32

/-- The address of line j of block q of channel c (R220 solved for B). -/
def devAt (s : State) (c q j : Nat) : Nat :=
  let n := if s.hbm.mapout.isSome then 255 else 256
  let h := Nat.xor (Nat.xor (fld q 0 8) (fld q 8 8)) (fld q 16 6)
  let i := match s.hbm.mapout with | some m => if c < m.toNat then c else c - 1 | none => c
  512 * (q * n + (i + n - h % n) % n) + 64 * j

/-- Where a line lies in its channel (R221). Bits 5:4 of the bank are the stack ID, 3:2 the bank group, 1:0 the bank in it; `byte`
is its offset in the row of its pseudo-channel. -/
structure Place where
  chan : Nat
  pc : Nat
  row : Nat
  bank : Nat
  byte : Nat

def placeOf (s : State) (dev : Nat) : Place :=
  let (c, pc, q) := chanOf s dev
  let row := fld q 8 14
  ⟨c, pc, row, Nat.xor (fld q 2 6) (fld row 0 6), 256 * (q % 4) + 64 * (dev / 64 % 8 / 2)⟩

def Place.sid (x : Place) : Nat := fld x.bank 4 2
def Place.group (x : Place) : Nat := fld x.bank 2 2

/-- A DRAM row as one number: pseudo-channel, bank, row (R221). -/
def rowKey (c pc bank row : Nat) : Nat := (2 * c + pc) * 2 ^ 20 + bank * 2 ^ 14 + row
def rowOf (s : State) (dev : Nat) : Nat := let x := placeOf s dev; rowKey x.chan x.pc x.bank x.row
def rowChan (row : Nat) : Nat := row / 2 ^ 21
def rowPc (row : Nat) : Nat := row / 2 ^ 20 % 2
def rowBank (row : Nat) : Nat := fld row 14 6
def rowNo (row : Nat) : Nat := fld row 0 14

/-- The 16 lines of a row (R221, R258). -/
def rowDevs (s : State) (row : Nat) : List Nat :=
  let q := 2 ^ 8 * rowNo row + 4 * Nat.xor (rowBank row) (fld (rowNo row) 0 6)
  (upTo 4).flatMap (fun i => (upTo 4).map (fun j => devAt s (rowChan row) (q + i) (2 * j + rowPc row)))

/-- Is class C3 served in a stack (R234). -/
def c3Runs (s : State) (stack : Nat) : Bool := (s.therm stack).level == 0

/-- Does a channel serve lines: its stack runs and nothing holds it (R235, R237). -/
def chanServes (s : State) (c : Nat) : Bool :=
  (s.therm (stackOf c)).level != 3 && (s.chan c).hold.isNone && !(s.chan c).lost

/-- Index of the key slot that serves a slab (R262). -/
def slotOf (e : Slab) : Nat := if e.shared then 32 + e.kslot.toNat else e.owner.toNat

/-- Key of an epoch; of the current epoch. -/
def KeyReg.key (k : KeyReg) (epoch : Bool) : Option Nat := if epoch then k.k1 else k.k0
def KeyReg.curKey (k : KeyReg) : Option Nat := k.key k.cur
def KeyReg.setKey (epoch : Bool) (v : Option Nat) (k : KeyReg) : KeyReg := if epoch then { k with k1 := v } else { k with k0 := v }

/-- Fields of line metadata (R250). -/
def mdPois (m : Half) : Bool := m.getLsbD 0
def mdEpoch (m : Half) : Bool := m.getLsbD 1
def mdOwner (m : Half) : Nat := fld m.toNat 2 5
def mdMake (pois epoch : Bool) (owner : Nat) : Half := BitVec.ofNat 16 (b2n pois + 2 * b2n epoch + 4 * (owner % 32))

/-- OWNER that a slab's lines carry. -/
def slabOwner (e : Slab) : Nat := if e.shared then e.kslot.toNat else e.owner.toNat

/-- Has a sweep passed a line (R251, R265). -/
def swept (w : Sweep) (dev : Nat) : Bool :=
  !(w.waits.contains dev) && (decide (slabOf dev < w.slab) || (slabOf dev == w.slab && decide (dev % 2 ^ 29 / 64 < w.line)))

/-- The metadata check (R251). -/
def metaOk (s : State) (dev : Nat) (m : Half) : Bool :=
  let e := s.slab (slabOf dev)
  let k := s.keyReg (slotOf e)
  let resv := fld m.toNat 7 9 == 0
  if !e.valid || (mget none s.glazeSlabs (slabOf dev)).isSome then resv
  else
    let ep := mdEpoch m
    let epochOk := (k.key ep).isSome && (match k.sweep with
      | none => ep == k.cur
      | some w => ep == k.cur || !(swept w dev))
    resv && mdOwner m == slabOwner e && epochOk

/-- The keys behind an identity (R261, R263): those of a Crust package, or a draw of the TC's generator, whose two keys differ. -/
def keyPair (s : State) (k : Nat) : KeyPair :=
  match mget none s.hbm.crustKeys k with
  | some kp => kp
  | none => ⟨Config.drawKey k, Config.drawKey k ^^^ BitVec.ofNat 256 (1 + Config.drawDiff k % (2 ^ 256 - 1))⟩

/-- Block j of a line as it stands on the pins, ciphertext (R246, R261). -/
def cipherBlock (s : State) (dev : Nat) (l : Line) (j : Nat) : BitVec 128 :=
  let k := nth 0 l.keys j
  if k = 0 then blockOf l.bytes j else let kp := keyPair s k; xtsEnc kp.k1 kp.k2 dev j (blockOf l.bytes j)

/-- A line decrypted under key `rk` (R246 step 3): a block that stands encrypted under that key gives its plaintext, any other what
the cipher makes of its ciphertext. -/
def decryptLine (s : State) (dev : Nat) (l : Line) (rk : Nat) : List Byte :=
  (upTo 4).flatMap (fun j =>
    if nth 0 l.keys j = rk then (l.bytes.drop (16 * j)).take 16
    else let kp := keyPair s rk; leBytes 16 (xtsDec kp.k1 kp.k2 dev j (cipherBlock s dev l j)).toNat)

/-- A line with symbols in error that the decoder leaves: the blocks they touch stand as ciphertext (R247). -/
def spoilLine (s : State) (dev : Nat) (l : Line) (bad : List SymErr) (errMd : Half) : Line :=
  let hit (j : Nat) : Bool := bad.any (fun e => decide (e.1 < 64) && e.1 / 16 == j)
  if bad = [] ∧ errMd = 0 then l else
  { bytes := (upTo 4).flatMap (fun j =>
      if hit j then
        (leBytes 16 (cipherBlock s dev l j).toNat).zipIdx.map (fun b =>
          bad.foldl (fun acc e => if e.1 = 16 * j + b.2 then acc ^^^ e.2 else acc) b.1)
      else (l.bytes.drop (16 * j)).take 16)
    keys := (upTo 4).map (fun j => if hit j then 0 else nth 0 l.keys j)
    md := l.md ^^^ errMd }

/-- A line as its cells hold it and whether it fails the code: one that nothing has written since start-up holds whatever its cells
hold (R393). -/
def heldLine (s : State) (dev : Nat) : Line × Bool :=
  match mget none s.hbm.lines dev with
  | some m => (⟨rdBytes s.hbm.cells dev 64, m.keys, m.md⟩, false)
  | none =>
    let b := s.tc.boots.toNat
    (⟨(upTo 64).map (fun i => Config.coldByte b (dev + i)), [0, 0, 0, 0], Config.coldMeta b dev⟩, Config.coldFails b dev % 2 == 1)

/-- The Crumb cache set of a line (R230). -/
def cacheSet (s : State) (dev : Nat) : Nat := stackOf (chanOf s dev).1 * 8192 + Config.crumbSet dev % 8192

/-- A line reaches its cells (R246). A cached copy follows (R232), a write-back that waits for the line is superseded (R255), and the
code is good again. -/
def storeLine (dev : Nat) (l : Line) (s : State) : State :=
  let set := cacheSet s dev
  s.modHbm (fun h => { h with
    cells := wrBytes h.cells dev l.bytes
    lines := mset none h.lines dev (some ⟨l.md, l.keys⟩)
    flaws := mset [] h.flaws dev []
    cache := mmod [] h.cache set (List.map (fun e => if e.dev = dev then { e with line := l } else e))
    wbq := h.wbq.filter (fun w => w.dev != dev) })

/-- A line as it is written: all of it encrypted under one key (R246). -/
def lineOf (bytes : List Byte) (pois epoch : Bool) (owner key : Nat) : Line :=
  ⟨bytes, [key, key, key, key], mdMake pois epoch owner⟩

/-- A line of p's own write reaches the base die (R219, R246, R264): under the current epoch of the slab's slot, or
discarded with a clamp when that is empty. A write of a shared line is discarded. -/
def writeLine (p dev : Nat) (bytes : List Byte) (pois : Bool) (s : State) : State :=
  let e := s.slab (slabOf dev)
  if e.shared then s else
  let k := s.keyReg (slotOf e)
  match k.curKey with
  | none => clamp p 9 s
  | some key => storeLine dev (lineOf bytes pois k.cur (slabOwner e) key) s

/-- Pin and its symbols (R248). -/
def symPin (i : Nat) : Nat := if i < 64 then i % 32 else if i < 70 then 32 + (i - 64) / 2 else 35
def pinSyms (pin : Nat) : List Nat := if pin < 32 then [pin, pin + 32] else [64 + 2 * (pin - 32), 65 + 2 * (pin - 32)]

/-- What the decoder makes of the symbols in error (R249): `residue` is what stays wrong in the line it delivers. -/
inductive Decoded where
  | clean (residue : List SymErr)
  | corrected (n : Nat) (syms : List SymErr) (residue : List SymErr)
  | uncorrectable

/-- Symbols in error of the code, zero differences apart. -/
def codeErrs (errs : List SymErr) : List SymErr := errs.filter (fun e => decide (e.1 < 70) && e.2 != 0)

/-- Two error patterns put together: what stays wrong when a correction is applied, or when a further error meets one. -/
def residueOf (errs corr : List SymErr) : List SymErr :=
  (upTo 72).filterMap (fun i =>
    let v (l : List SymErr) : Byte := l.foldl (fun acc e => if e.1 = i then acc ^^^ e.2 else acc) 0
    let r := v errs ^^^ v corr
    if r = 0 then none else some (i, r))

/-- The decoder (R249); `susp` is the suspect pin of the pseudo-channel, 0x3F for none. Symbols in error that form a codeword give
zero syndromes: the line is clean, and wrong. -/
def decodeErrs (susp : Nat) (errs : List SymErr) : Decoded :=
  let e := codeErrs errs
  if e = [] then .clean [] else
  let syn := rsSyndromes e
  if syn.all (· == 0) then .clean e else
  let fix := if susp < 35 then
      (match pinSyms susp with | [i, j] => rsErased syn i j | _ => none)
    else rsLocate syn
  match fix with
  | none => .uncorrectable
  | some c =>
    let c := c.filter (fun x => x.2 != 0)
    .corrected c.length c (residueOf e c)

/-- Add to a saturating 16-bit counter (R269). -/
def sat16 (n : Nat) : Nat := Nat.min 0xFFFF (n + 1)

/-- Put a write-back into the C3 queue (R255). -/
def queueWb (dev : Nat) (l : Line) (pois : Bool) (s : State) : State :=
  s.modHbm (fun h => { h with wbq := h.wbq ++ [⟨dev, l, pois⟩] })

/-- Record an entry of the repair record; beyond 8,184 it is not recorded and an Info event is (R385). -/
def recordRepair (r : RepairEnt) (s : State) : State :=
  if s.repairs.length < 8184 then s.modRepairs (fun l => l ++ [r]) else report 0 0 0x0004 0xFF 0 s

/-- A channel is lost (R238, R259). -/
def loseChan (c : Nat) (s : State) : State :=
  if (s.chan c).lost then s
  else deviceFault 4 0x41 c (recordRepair (.lost c) (s.modChan c (fun x => { x with lost := true })))

/-- A pin becomes suspect (R257): a second one in its pseudo-channel loses the channel (R259). -/
def suspectPin (c pc pin : Nat) (s : State) : State :=
  let x := s.chan c
  let cur := nth 0x3F x.susp pc
  if cur = pin then s
  else if cur ≠ 0x3F then loseChan c s
  else report 0 5 0x11 0xFF (c + 256 * pin) (s.modChan c (fun x => { x with susp := x.susp.set pc pin }))

/-- One error attributed to a pin: 16 distinct lines within 320,000 AON ticks make it suspect (R257). -/
def pinError (c pc pin dev : Nat) (s : State) : State :=
  let key := (2 * c + pc) * 36 + pin
  let t := s.aon.toNat
  let win := (mget [] s.hbm.pinWin key).filter (fun e => decide (t < e.2 + 320000) && e.1 != dev)
  let win := win ++ [(dev, t)]
  let s := s.modHbm (fun h => { h with pinWin := mset [] h.pinWin key win })
  if 16 ≤ win.length then suspectPin c pc pin s else s

/-- Mark a row for repair (R258); with the store full it is counted, recorded and stays in use (R259, R271). -/
def markRow (row : Nat) (s : State) : State :=
  let st := stackOf (rowChan row)
  let r := mget rowRep0 s.hbm.rowRep st
  if r.rows.contains row || r.marked.contains row || r.copying == some row || r.full.contains row then s
  else if r.used + r.marked.length + b2n r.copying.isSome < 512 then
    s.modHbm (fun h => { h with rowRep := mset rowRep0 h.rowRep st { r with marked := r.marked ++ [row] } })
  else recordRepair (.overRow row) (s.modHbm (fun h => { h with
    rowRep := mset rowRep0 h.rowRep st { r with overs := sat16 r.overs, full := r.full ++ [row] } }))

/-- A partition's number for an event about a line, 0xFF for none: the event is the base die's. -/
def evLine (code cls dev : Nat) (s : State) : State := report cls 5 code 0xFF dev s

/-- A read of a line whose code corrects `n` symbols at `syms` (R251, R257): counted, reported, its pins charged; a scrub adds
it to its row's count (R258); the corrected line `l` waits to be written back. -/
def correctLine (dev c pc susp n : Nat) (syms : List SymErr) (l : Line) (scrub : Bool) (s : State) : State :=
  let pins := (syms.map (fun e => symPin e.1)).eraseDups
  let two := decide (2 ≤ n) || pins.contains susp
  let s := s.modChan c (fun x => if two then { x with corr2 := sat16 x.corr2 } else { x with corr1 := sat16 x.corr1 })
  let s := report 1 5 0x10 0xFF (c + 256 * pins.foldl Nat.min (nth 0 pins 0) + 2 ^ 14 * b2n two) s
  let s := forEach pins (fun pin s => if pin = susp then s else pinError c pc pin dev s) s
  queueWb dev l false (if scrub && pins.any (fun pin => pin != susp) then scrubCount (rowOf s dev) dev s else s)
where
  /-- A line corrected by a scrub counts toward its row once (R258). -/
  scrubCount (row dev : Nat) (s : State) : State :=
    let l := (mget [] s.hbm.scrubCorr row).filter (fun x => x != dev) ++ [dev]
    let s := s.modHbm (fun h => { h with scrubCorr := mset [] h.scrubCorr row l })
    if 4 ≤ l.length then markRow row s else s

/-- The metadata bits that symbols 70 and 71 change. -/
def metaErr (errs : List SymErr) : Half :=
  errs.foldl (fun (acc : Half) e =>
    let v : Half := e.2.setWidth 16
    if e.1 = 70 then acc ^^^ v else if e.1 = 71 then acc ^^^ (v <<< (8 : Nat)) else acc) 0

/-- A line that the decoder passes, or that a Crumb cache holds (R246 steps 2 to 4): its metadata are checked, and it is decrypted
under the key that they select. One that fails is treated as an uncorrectable one (R251). `scrub`: the reader decrypts nothing. -/
def judgeLine (dev : Nat) (l : Line) (scrub : Bool) (s : State) : State × List Byte × Bool :=
  let zero := List.replicate 64 (0 : Byte)
  if metaOk s dev l.md then
    if mdPois l.md then (s, zero, true)
    else if scrub then (s, zero, false)
    else (s, decryptLine s dev l (((s.keyReg (slotOf (s.slab (slabOf dev)))).key (mdEpoch l.md)).getD 0), false)
  else
    let (c, pc, _) := chanOf s dev
    let s := s.modChan c (fun x => { x with badMeta := sat16 x.badMeta })
    let s := pinError c pc 35 dev s
    (markRow (rowOf s dev) (queueWb dev l true (evLine 0x20 2 dev s)), zero, true)

/-- A line is decoded (R246 step 1): `errs` are the symbols that have come to stand otherwise in its cells since its last read. The
answer is the line as decoded, `none` where it is uncorrectable. -/
def decodeLine (dev : Nat) (errs : List SymErr) (scrub : Bool) (s : State) : State × Option Line :=
  let (c, pc, _) := chanOf s dev
  let (l, fails) := heldLine s dev
  let all := residueOf (mget [] s.hbm.flaws dev) errs
  let s := s.modHbm (fun h => { h with flaws := mset [] h.flaws dev all })
  match if fails then Decoded.uncorrectable else decodeErrs (nth 0x3F (s.chan c).susp pc) all with
  | .uncorrectable =>
    let s := evLine 0x20 2 dev (s.modChan c (fun x => { x with uncorr := sat16 x.uncorr }))
    (markRow (rowOf s dev) (queueWb dev (spoilLine s dev l all (metaErr all)) true s), none)
  | .corrected n syms res =>
    let l := spoilLine s dev l res (metaErr all)
    (correctLine dev c pc (nth 0x3F (s.chan c).susp pc) n syms l scrub s, some l)
  | .clean res => (s, some (spoilLine s dev l res (metaErr all)))

/-- A line is read through the base die (R246–R258). The answer is its 64 bytes and POISON. `scrub` says that the read is the
patrol's, which decrypts nothing and counts its corrections by row. -/
def readLine (dev : Nat) (errs : List SymErr) (scrub : Bool) (s : State) : State × List Byte × Bool :=
  match decodeLine dev errs scrub s with
  | (s, some l) => judgeLine dev l scrub s
  | (s, none) => (s, List.replicate 64 (0 : Byte), true)

/-- Bytes cut into 64-byte lines, the last filled with zeros. -/
def toLines (bs : List Byte) : List (List Byte) :=
  (upTo ((bs.length + 63) / 64)).map (fun i => let l := (bs.drop (64 * i)).take 64; l ++ List.replicate (64 - l.length) 0)

/-- A fresh key identity from the TC's generator (R263). -/
def newKey (s : State) : Nat × State := (s.hbm.nextKey, s.modHbm (fun h => { h with nextKey := h.nextKey + 1 }))

/-- Private slabs of a partition, ascending. -/
def privateSlabs (s : State) (p : Nat) : List Nat :=
  (s.hbm.slabs.filter (fun e => e.2.valid && !e.2.shared && e.2.owner.toNat == p)).map (·.1)

/-- Slabs that a key slot serves (R262). -/
def slotSlabs (s : State) (k : Nat) : List Nat := (s.hbm.slabs.filter (fun e => e.2.valid && slotOf e.2 == k)).map (·.1)

/-- EFFECTIVE weights (R227, R240). -/
def weightSum (s : State) : Nat := sumL ((upTo 32).map (fun p => (mget 0 s.hbm.weights p).toNat))
def effective (s : State) (p : Nat) : Nat :=
  let w := (mget 0 s.hbm.weights p).toNat
  let t := weightSum s
  if t ≤ 256 then w else w * 256 / t

end Sys2Proof.Machine
end

