-- ==== Sys2Proof/Machine/Arbiter.lean ====
section
/-!
DEFINITION. The controllers' arbitration (R225–R227, R234, R237): which requests stand at a channel, which work of class C3 is
pending there, to whom a line slot goes, and the lines that the device's own units read and write in their slots.
-/

namespace Sys2Proof.Machine

/-- Lines of 64 bytes that a part of a checkpoint section takes. -/
def ckSrcLines : CkSrc → Nat
  | .bytes b => cdiv b.length 64
  | .lines _ n _ => n

def ckLines (l : List CkSrc) : Nat := sumL (l.map ckSrcLines)

/-- Units of a section: 16 lines each (R445). -/
def secUnits (l : List CkSrc) : Nat := cdiv (ckLines l) 16

/-- The sections with their first units (R445): unit 0 is the header. -/
def secStarts : Nat → List (Nat × List CkSrc) → List (Nat × Nat × List CkSrc)
  | _, [] => []
  | u, (k, l) :: r => (u, k, l) :: secStarts (u + secUnits l) r

/-- Places in a section at which a partition line stands. -/
def ckPlaces (pline : Nat) : Nat → List CkSrc → List (Nat × Option Nat)
  | _, [] => []
  | o, c :: r =>
    (match c with
      | .lines f n k => if f ≤ pline ∧ pline < f + n then [(o + (pline - f), k)] else []
      | .bytes _ => []) ++ ckPlaces pline (o + ckSrcLines c) r

/-- Has a checkpoint still to read a line of a state buffer (R162). -/
def ckUnread (j : CkJob) (pline : Nat) : Bool :=
  (mget none j.extra pline).isNone &&
  (secStarts 1 j.secs).any (fun x => x.2.1 == 3 && (ckPlaces pline 0 x.2.2).any (fun o => decide (j.next ≤ x.1 + o.1 / 16)))

/-- Is a write line held by a checkpoint's drain (R162): in a draining buffer and not yet drained. -/
def drainHolds (q : Part) (pline : Nat) : Bool := q.ckp.jobs.any (fun j => ckUnread j pline)

/-- Item i of a section: captured bytes or a partition line. -/
def ckItem : List CkSrc → Nat → Option (List Byte ⊕ Nat)
  | [], _ => none
  | .bytes b :: r, i => if i < cdiv b.length 64 then some (.inl (padTo 64 ((b.drop (64 * i)).take 64))) else ckItem r (i - cdiv b.length 64)
  | .lines f n _ :: r, i => if i < n then some (.inr (f + i)) else ckItem r (i - n)

/-- The 16 items of unit u. -/
def unitItems (secs : List (Nat × List CkSrc)) (u : Nat) : List (List Byte ⊕ Nat) :=
  match (secStarts 1 secs).find? (fun x => decide (x.1 ≤ u) && decide (u < x.1 + secUnits x.2.2)) with
  | none => []
  | some x => (upTo 16).filterMap (fun i => ckItem x.2.2 (16 * (u - x.1) + i))

/-- Is a request at its channel: not yet served, and past its Crumb engine. -/
def LineReq.atChan (l : LineReq) : Bool := l.arrived.isNone && (!l.crumb || l.miss)

/-- The requests for a channel. -/
def chanLines (s : State) (c : Nat) : List LineReq :=
  (upTo 32).flatMap (fun p => (s.seq p).lines.filter (fun l => l.atChan && (chanOf s l.dev).1 == c))

/-- Does a request stand in its channel's queue: after a hold the 128 oldest do, the rest are held at their tiles (R237). -/
def inQueue (s : State) (c : Nat) (l : LineReq) : Bool :=
  !(s.chan c).backlog || decide (((chanLines s c).filter (fun x => decide (x.id < l.id))).length < 128)

/-- Pseudo-channel of a line: 2·channel + pseudo-channel. -/
def pcOf (s : State) (dev : Nat) : Nat := let x := chanOf s dev; 2 * x.1 + x.2.1

/-- Does a read wait at pseudo-channel k in a class. -/
def waitsAt (s : State) (k cls : Nat) (l : LineReq) : Bool :=
  l.write.isNone && l.atChan && l.cls == cls && pcOf s l.dev == k && inQueue s (k / 2) l

/-- The partitions whose reads wait. -/
def classWaits (s : State) (k cls : Nat) : List Nat := (upTo 32).filter (fun p => (s.seq p).lines.any (waitsAt s k cls))

/-- The line at which a sweep stands (R265). -/
def sweepPlace (s : State) (k : Nat) (w : Sweep) : Option Nat :=
  ((slotSlabs s k).filter (fun n => decide (w.slab ≤ n) && (mget none s.glazeSlabs n).isNone && (s.slab n).avail)).head?.map
    (fun n => n * 2 ^ 29 + 64 * (if n = w.slab then w.line else 0))

/-- The lines of a checkpoint's next unit that are still to be read (R162, R446). -/
def drainNext (s : State) (p : Nat) : List Nat :=
  match (s.part p).ckp.jobs with
  | j :: _ => if !j.captured then [] else
      (unitItems j.secs j.next).filterMap (fun x => match x with
        | .inr l => if (mget none j.extra l).isNone then translate s p l else none
        | .inl _ => none)
  | [] => []

/-- The lines that class C3's work wants next (R225, R255, R258, R265, R334, R446). The scrub's reads come at their own pace. -/
def c3Lines (s : State) : List Nat :=
  s.hbm.wbq.map (·.dev)
    ++ s.hbm.keys.filterMap (fun e => e.2.sweep.bind (sweepPlace s e.1))
    ++ s.glazeSlabs.filterMap (fun e => e.2.bind (fun j => if j.next < 2 ^ 23 then some (e.1 * 2 ^ 29 + 64 * j.next) else none))
    ++ s.hbm.rowRep.flatMap (fun e => (e.2.marked.take 1).flatMap (fun r => (rowDevs s r).take 1))
    ++ (upTo 32).flatMap (drainNext s)

/-- Is work of class C3 pending at a pseudo-channel whose stack is below Warn. -/
def c3Pending (s : State) (k : Nat) : Bool := c3Runs s (stackOf (k / 2)) && (c3Lines s).any (fun d => pcOf s d == k)

/-- The class that a slot goes to (R226), by who waits in C0, C1, C2 and C3: C3 once 31 slots have passed it by; in a Hot stack C2
once 7 slots have (R234); then C0, but at most 16 slots in a row while a lower class waits; a formed write batch; C1; C2; C3. -/
def slotClass (s : State) (k : Nat) (w0 w1 w2 : List Nat) (w3 : Bool) : Option Nat :=
  let a := s.arb k
  if w3 ∧ 31 ≤ a.c3gap then some 3
  else if (s.therm (stackOf (k / 2))).level = 2 ∧ w2 ≠ [] ∧ 7 ≤ a.hot then some 2
  else if w0 ≠ [] ∧ ¬ ((w1 ≠ [] ∨ w2 ≠ [] ∨ w3) ∧ 16 ≤ a.c0run) then some 0
  else if a.batch ≠ 0 ∧ a.wq ≠ [] then some 2
  else if w1 ≠ [] then some 1
  else if w2 ≠ [] then some 2
  else if w3 then some 3 else none

/-- The partition that a class's slot goes to (R227): the one whose next slot of the window is due first by its EFFECTIVE
weight; when only partitions without weight wait, they take turns (log entry 14). -/
def pickPart (s : State) (a : PcArb) (cls : Nat) (ps : List Nat) : Option Nat :=
  let got (p : Nat) := mget 0 a.served (32 * cls + p)
  let ws := ps.filter (fun p => effective s p != 0)
  if ws = [] then
    match ps.find? (fun p => decide (mget 0 a.rr cls ≤ p)) with
    | some p => some p
    | none => ps.head?
  else ws.foldl (fun acc p => match acc with
    | none => some p
    | some b => if (got p + 1) * effective s b < (got b + 1) * effective s p then some p else some b) none

/-- A slot of class `cls` has gone to p: the share's window of 256 slots (R227) and the runs of R226 and R234 move on. -/
def noteSlot (k cls p : Nat) (s : State) : State :=
  let gap := decide (cls ≠ 3) && c3Pending s k
  let hot := decide ((s.therm (stackOf (k / 2))).level = 2)
  let free := effective s p == 0
  s.modArb k (fun a =>
    let n := sumL ((upTo 32).map (fun i => mget 0 a.served (32 * cls + i)))
    let l := if 256 ≤ n then a.served.filter (fun e => e.1 / 32 != cls) else a.served
    { a with
      served := if cls < 3 ∧ p < 32 then mmod 0 l (32 * cls + p) (· + 1) else a.served
      rr := if cls < 3 ∧ free then mset 0 a.rr cls (p + 1) else a.rr
      c0run := if cls = 0 then a.c0run + 1 else 0
      hot := if cls ≠ 2 ∧ hot ∧ a.wq ≠ [] then a.hot + 1 else 0
      c3gap := if gap then a.c3gap + 1 else 0 })

/-- Would the next slot of a line's pseudo-channel go to a request that a unit of the device makes for p in a class (R225–R227,
R235, R237). -/
def lineMay (s : State) (cls p dev : Nat) : Bool :=
  let k := pcOf s dev
  let a := s.arb k
  let add (c : Nat) (l : List Nat) : List Nat := if c = cls ∧ !l.contains p then l ++ [p] else l
  let w0 := add 0 (classWaits s k 0)
  let w1 := add 1 (classWaits s k 1)
  let w2 := add 2 a.wq.eraseDups
  chanServes s (k / 2) && (slotClass s k w0 w1 w2 (cls == 3 || c3Pending s k) == some cls) &&
    (cls == 3 || (pickPart s a cls (if cls = 0 then w0 else if cls = 1 then w1 else w2) == some p))

/-- The same for lines of p's memory: a hole takes no slot. -/
def unitMay (s : State) (cls p : Nat) (lines : List Nat) : Bool :=
  lines.all (fun l => match translate s p l with | none => true | some dev => lineMay s cls p dev)

/-- One line of a partition's memory read by a unit of the device in a slot of a class (R225): holes read as zeros (R219). -/
def partRead (cls p line : Nat) (s : State) : State × List Byte × Bool :=
  match translate s p line with
  | none => (s, List.replicate 64 0, false)
  | some dev => readLine dev [] false (noteSlot (pcOf s dev) cls p s)

/-- One line written to a partition's memory by a unit of the device: accepted into the write queue of its pseudo-channel, from
which reads are forwarded (R224), where it takes its slot in class C2 (R225). -/
def partWrite (p line : Nat) (bytes : List Byte) (pois : Bool) (s : State) : State :=
  match translate s p line with
  | none => s
  | some dev => (writeLine p dev bytes pois s).modArb (pcOf s dev) (fun a => { a with wq := a.wq ++ [p] })

/-- Consecutive lines of a partition's memory: their bytes and whether any is poisoned. -/
def partReadN (cls p : Nat) : Nat → Nat → State → State × List Byte × Bool
  | _, 0, s => (s, [], false)
  | line, n + 1, s =>
    let r := partRead cls p line s
    let r' := partReadN cls p (line + 1) n r.1
    (r'.1, r.2.1 ++ r'.2.1, r.2.2 || r'.2.2)

/-- Consecutive lines written. -/
def partWriteN (p line : Nat) (bs : List Byte) (s : State) : State :=
  (toLines bs).zipIdx.foldl (fun s e => partWrite p (line + e.2) e.1 false s) s

end Sys2Proof.Machine
end

