-- ==== Sys2Proof/Machine/Memory.lean ====
section
/-!
DEFINITION. The MEM slot (R113–R117), the Crumb path's requests (R116, R230–R233), the controllers' grants (R226, R227)
and the arrival of lines at the tiles.
-/

namespace Sys2Proof.Machine

/-- A request counts toward its token (R117); a resolved token starts afresh, and under run-ahead what it held is kept for an
undo. -/
def tokAdd (t : Nat) (q : Seq) : Seq :=
  let k := mget tok0 q.memTok t
  let k' : Tok := if k.cnt = 0 then ⟨1, [], if q.gates = [] then [] else (q.gid, k.pois) :: k.cleared⟩
    else { k with cnt := k.cnt + 1 }
  { q with memTok := mset tok0 q.memTok t k' }

/-- One line of a request is done, which carried POISON or not: the request stops counting with its last (R117), and a token
that resolves is an event (R122). -/
def lineDone (req : Nat) (pois : Bool) (q : Seq) : Seq :=
  match q.reqs.find? (fun r => r.id == req) with
  | none => q
  | some r =>
    let k := mget tok0 q.memTok r.tok.toNat
    let k := { k with pois := if pois && !k.pois.contains r.gid then r.gid :: k.pois else k.pois }
    if r.left ≤ 1 then
      let q := { q with reqs := q.reqs.filter (fun x => x.id != req)
                        memTok := mset tok0 q.memTok r.tok.toNat { k with cnt := k.cnt - 1 } }
      if k.cnt = 1 then q.arrives (256 + r.tok.toNat) else q
    else
      { q with reqs := q.reqs.map (fun x => if x.id = req then { x with left := x.left - 1 } else x)
               memTok := mset tok0 q.memTok r.tok.toNat k }

/-- Open a request of `n` lines on a token; with none it resolves at once. -/
def openReq (p : Nat) (tok : Byte) (n : Nat) (s : State) : Nat × State :=
  let q := s.seq p
  let id := q.nextReq
  (id, s.modSeq p (fun q =>
    let q := { q with nextReq := id + 1 }
    if n = 0 then q
    else { tokAdd tok.toNat q with reqs := q.reqs ++ [⟨id, tok, n, q.gid⟩] }))

/-- Descriptor of a MEM slot. -/
def memDesc (q : Part) (sl : MemSlot) : Nat := q.reg (0x80 + sl.desc.toNat)
def memKind (d : Nat) : TMem := if d % 4 = 1 then .lb else .scratch
def memLen (d : Nat) : Nat := fld d 29 16 + 1

/-- Tile-side line i of a transfer (R115). -/
def memTileLine (q : Part) (sl : MemSlot) (k : TMem) (i : Nat) : Nat :=
  let pb := q.pbase 0x10 sl.pt
  match k with
  | .lb => lbLine (fld pb 51 12 + sl.spa.toNat + i)
  | _ => spLine (fld pb 0 17 + sl.spa.toNat + i)

/-- First partition line of the tile of rank r (R115). -/
def memFirst (q : Part) (sl : MemSlot) (d r : Nat) : Nat :=
  (fld (q.pbase 0x10 sl.pt) 17 34 + sl.addr.toNat + r * fld d 3 26) % 2 ^ 34

/-- The Crumb engine of a stack takes the oldest request that waits for room in its queue of 256 (R230). -/
def crumbFill (st : Nat) (s : State) : State :=
  let q := mget [] s.hbm.crumbQ st
  let waits (p : Nat) : List (Nat × Nat) := ((s.seq p).lines.filter (fun l => l.crumb && !l.miss && l.arrived.isNone &&
    stackOf (chanOf s l.dev).1 == st && !q.any (fun e => e.2 == l.id))).map (fun l => (p, l.id))
  match ((upTo 32).flatMap waits).foldl (fun (acc : Option (Nat × Nat)) e => match acc with
      | none => some e
      | some b => if e.2 < b.2 then some e else some b) none with
  | some e => if q.length < 256 then
      s.modHbm (fun h => { h with crumbQ := mset [] h.crumbQ st (q ++ [(BitVec.ofNat 5 e.1, e.2)]) }) else s
  | none => s

/-- Add a line to the partition's outstanding lines, as the latest of all; one for a Crumb engine enters its queue. -/
def addLine (p : Nat) (l : LineReq) (s : State) : State :=
  let n := s.hbm.nextLine
  let s := (s.modSeq p (fun q => { q with lines := q.lines ++ [{ l with id := n }] })).modHbm (fun h => { h with nextLine := n + 1 })
  if l.crumb && l.arrived.isNone then crumbFill (stackOf (chanOf s l.dev).1) s else s

/-- A read request (R115): a hole's line delivers zeros without POISON (R219). -/
def memReadReq (p cls : Nat) (sl : MemSlot) (s : State) : State :=
  let q := s.part p
  let d := memDesc q sl
  let k := memKind d
  let bc := bit d 2
  let srcs : List (Nat × List Nat) := if bc then [(memFirst q sl d 0, q.tiles)]
    else (q.tiles.zipIdx).map (fun e => (memFirst q sl d e.2, [e.1]))
  let runs := srcs.map (fun e => (windowClamp s p e.1 (memLen d), e.2))
  let lines := runs.flatMap (fun r => (upTo r.1.2.1).map (fun i => (r.1.1 + i, i, r.2)))
  let anyHole := lines.any (fun l => lineHole s p l.1)
  let s := clampIf (runs.any (fun r => r.1.2.2) || anyHole) p 6 s
  -- with an empty window every line asked for delivers zeros
  let zeros := if windowEnd s p = 0 then srcs.flatMap (fun e => (upTo (memLen d)).map (fun i => (i, e.2))) else []
  let (id, s) := openReq p sl.tok (lines.length + zeros.length) s
  let gid := (s.seq p).gid
  let dest (ts : List Nat) (i : Nat) := ts.map (fun t => (BitVec.ofNat 7 t, memTileLine q sl k i))
  let s := forEach lines (fun l s =>
    let dev := translate s p l.1
    addLine p ⟨0, id, cls, dev.getD 0, false, false, none, k, dest l.2.2 l.2.1, gid,
      if dev.isNone then some (List.replicate 64 0, false) else none, l.1⟩ s) s
  forEach zeros (fun z s => addLine p ⟨0, id, cls, 0, false, false, none, k, dest z.2 z.1, gid, some (List.replicate 64 0, false), 0⟩ s) s

/-- Captured lines of a write leave their tiles (R115, R219): those of holes and of shared slabs are discarded. -/
def sendWrite (p req gid : Nat) (lines : List (Nat × List Byte × Bool)) (s : State) : State :=
  forEach lines (fun l s =>
    match translate s p l.1 with
    | none => s.modSeq p (lineDone req l.2.2)
    | some dev =>
      if (s.slab (slabOf dev)).shared then s.modSeq p (lineDone req l.2.2)
      else addLine p ⟨0, req, 2, dev, false, false, some l.2, .scratch, [], gid, none, l.1⟩ s) s

/-- A WRITE request (R115): its lines are captured at issue; under run-ahead they wait in the commit queue (R127). -/
def memWriteReq (p : Nat) (sl : MemSlot) (s : State) : State :=
  let q := s.part p
  let d := memDesc q sl
  let k := memKind d
  let s := clampIf (bit d 2) p 6 s
  let runs := q.tiles.zipIdx.map (fun e => (windowClamp s p (memFirst q sl d e.2) (memLen d), e.1))
  let lines := runs.flatMap (fun r => (upTo r.1.2.1).map (fun i =>
    let tl := s.tile r.2
    let tline := memTileLine q sl k i
    (r.1.1 + i, rdBytes (tl.bytes k) (64 * tline) 64, tl.pois k tline)))
  let s := clampIf (runs.any (fun r => r.1.2.2) || lines.any (fun l => lineHole s p l.1 || lineShared s p l.1)) p 6 s
  let (id, s) := openReq p sl.tok lines.length s
  if (s.seq p).gates ≠ [] then cqPush p (Nat.max 1 (cdiv (64 * lines.length) 512)) (.memWrite lines sl.tok id) s
  else sendWrite p id 0 lines s

/-- A CRUMB request (R116): every tile's index list starts to issue; with BCAST the first tile's, landing in every tile. -/
def memCrumbReq (p : Nat) (sl : MemSlot) (s : State) : State :=
  let q := s.part p
  let d := memDesc q sl
  let k := memKind d
  let bc := bit d 2
  let n := memLen d
  let ts := if bc then q.tiles.take 1 else q.tiles
  let (id, s) := openReq p sl.tok (n * ts.length) s
  let pb := q.pbase 0x10 sl.pt
  s.modSeq p (fun sq => { sq with crumbs := sq.crumbs ++ ts.map (fun t =>
    { req := id, t := BitVec.ofNat 7 t, idxLine := fld pb 0 17 + sl.spa.toNat, next := 0, len := n,
      adb := fld pb 17 34 + sl.addr.toNat, dkind := k, dst := memTileLine q sl k (fld d 45 17), bcast := bc, gid := sq.gid }) })

/-- The MEM slot, in the bundle's first cycle (R113, R114). -/
def memSlot (p : Nat) (sl : MemSlot) (s : State) : State :=
  let op := sl.op.toNat
  if op = 0 then s
  else if 5 ≤ op ∨ 2 ≤ memDesc (s.part p) sl % 4 then clamp p 6 s
  else if op = 1 then memReadReq p 1 sl s
  else if op = 2 then memWriteReq p sl s
  else if op = 3 then memCrumbReq p sl s
  else memReadReq p 0 sl s

/-- A tile's Crumb request issues its next index to the fabric (R116, R230): an index at or beyond the window's end is
taken as its last line, a hole delivers zeros (R219). The clamp is counted once for the request, at its first such index. -/
def crumbIssue (p t : Nat) (s : State) : State :=
  let q := s.part p
  match q.seq.crumbs.find? (fun c => c.t.toNat == t && decide (c.next < c.len)) with
  | none => s
  | some c =>
    let i := rdLe (s.tile t).scratch ((64 * spLine c.idxLine + 4 * c.next) % 8388608) 4
    let e := windowEnd s p
    let l := (c.adb + i) % 2 ^ 34
    let line := if e ≤ l then e - 1 else l
    let dev := if e = 0 then none else translate s p line
    let hit := decide (e ≤ l) || dev.isNone
    let first := hit && !(q.seq.crumbs.any (fun x => x.req == c.req && x.bcast != c.bcast)) && !(mget false q.fresh (2 ^ 20 + c.req))
    let s := if first then clamp p 6 (s.modPart p (fun q => { q with fresh := mset false q.fresh (2 ^ 20 + c.req) true })) else s
    let ts := if c.bcast then q.tiles else [t]
    let ln := match c.dkind with | .lb => lbLine (c.dst + c.next) | _ => spLine (c.dst + c.next)
    let lr : LineReq := ⟨0, c.req, 0, dev.getD 0, true, false, none, c.dkind, ts.map (fun u => (BitVec.ofNat 7 u, ln)), c.gid,
      if dev.isNone then some (List.replicate 64 0, false) else none, line⟩
    let s := s.modSeq p (fun sq => { sq with crumbs := (sq.crumbs.map (fun x =>
      if x = c then { x with next := x.next + 1 } else x)).filter (fun x => decide (x.next < x.len)) })
    addLine p lr s

/-- The n-th of a partition's lines that pass a test. -/
def nthLine (q : Seq) (f : LineReq → Bool) (n : Nat) : Option LineReq := (q.lines.filter f)[n]?

/-- Remove one occurrence of a line. -/
def dropLine (p : Nat) (l : LineReq) (s : State) : State := s.modSeq p (fun q => { q with lines := q.lines.erase l })

/-- A line reaches its tiles (R117, R253): a memory arrival of R112. -/
def lineArrive (p : Nat) (l : LineReq) (bytes : List Byte) (pois : Bool) (s : State) : State :=
  let s := dropLine p l s
  let s := forEach l.dests (fun d s =>
    writeTile p l.gid l.kind d.1.toNat (64 * d.2) (bytes.map (fun b => (true, b))) 2 pois s) s
  s.modSeq p (lineDone l.req pois)

/-- A controller accepts a write line (R117, R224, R232): writes of one partition to one line in issue order. -/
def writeAccept (p n : Nat) (s : State) : State :=
  let q := s.seq p
  match nthLine q (fun l => l.write.isSome) n with
  | none => s
  | some l0 =>
    match q.lines.find? (fun l => l.write.isSome && l.dev == l0.dev) with
    | none => s
    | some l =>
      match l.write with
      | none => s
      | some (bytes, pois) =>
        let (c, pc, _) := chanOf s l.dev
        if !(chanServes s c) || !(inQueue s c l) || drainHolds (s.part p) l.pline || decide (64 ≤ (s.arb (2 * c + pc)).wq.length) then s
        else
          let s := dropLine p l s
          let s := writeLine p l.dev bytes pois s
          let s := s.modArb (2 * c + pc) (fun a => { a with wq := a.wq ++ [p] })
          s.modSeq p (lineDone l.req pois)

/-- POISON in the metadata, and the check's own fields as it wants them (R255). -/
def poisMd (s : State) (dev : Nat) (md : Half) : Half :=
  let e := s.slab (slabOf dev)
  if !e.valid || (mget none s.glazeSlabs (slabOf dev)).isSome then mdMake true (mdEpoch md) (mdOwner md)
  else mdMake true (s.keyReg (slotOf e)).cur (slabOwner e)

/-- A line enters its stack's cache (R230, R233): in a free way of the partition's mask, else in place of the least recently used
line of those ways. -/
def crumbAlloc (p dev : Nat) (l : Line) (s : State) : State :=
  let set := cacheSet s dev
  let es := mget [] s.hbm.cache set
  let mine := (upTo 16).filter (fun w => bit (mget 0 s.hbm.ways p).toNat w)
  let victim : Option Nat := match mine.filter (fun w => !(es.any (fun e => e.way == w))) with
    | w :: _ => some w
    | [] => ((es.filter (fun e => mine.contains e.way)).getLast?).map (·.way)
  match victim with
  | none => s
  | some w => s.modHbm (fun h => { h with cache := mset [] h.cache set (⟨w, dev, l⟩ :: es.filter (fun e => e.way != w)) })

/-- A line's data are on their way to its tiles. -/
def giveLine (p : Nat) (l : LineReq) (r : List Byte × Bool) (s : State) : State :=
  s.modSeq p (fun q => { q with lines := q.lines.map (fun x => if x = l then { x with arrived := some r } else x) })

/-- A read takes its slot: the line is decoded; a Crumb miss enters the cache, poisoned where it is uncorrectable (R230, R232). -/
def serveRead (p : Nat) (l : LineReq) (errs : List SymErr) (s : State) : State :=
  let s := noteSlot (pcOf s l.dev) l.cls p s
  if !l.miss then let r := readLine l.dev errs false s; giveLine p l r.2 r.1
  else match decodeLine l.dev errs false s with
    | (s, some x) => let r := judgeLine l.dev x false (crumbAlloc p l.dev x s); giveLine p l r.2 r.1
    | (s, none) =>
      let zero := List.replicate 64 (0 : Byte)
      giveLine p l (zero, true) (crumbAlloc p l.dev ⟨zero, [0, 0, 0, 0], poisMd s l.dev 0⟩ s)

/-- Grant one read of a class to a partition: its oldest at the pseudo-channel. -/
def grantRead (k cls p : Nat) (errs : List SymErr) (s : State) : State :=
  match (s.seq p).lines.find? (waitsAt s k cls) with
  | none => s
  | some l => serveRead p l errs s

/-- Grant a waiting write of the queue its slot: the oldest of the partition whose turn it is (R227). -/
def grantWrite (k : Nat) (s : State) : State :=
  let a := s.arb k
  match pickPart s a 2 a.wq.eraseDups with
  | none => s
  | some p => noteSlot k 2 p (s.modArb k (fun a => { a with wq := a.wq.erase p, batch := a.batch - 1 }))

/-- A channel's hold is over and its queue has drained to what the channel holds (R237). -/
def settleBacklog (c : Nat) (s : State) : State :=
  if (s.chan c).backlog && (s.chan c).hold.isNone && decide ((chanLines s c).length ≤ 128) then
    s.modChan c (fun x => { x with backlog := false })
  else s

/-- A line slot of a pseudo-channel is granted (R226). A stopped stack or held channel grants nothing (R235, R237). A slot that goes
to class C3 is taken by the command of its work. -/
def slotGrant (c pc : Nat) (errs : List SymErr) (s : State) : State :=
  let k := 2 * c + pc
  let a := s.arb k
  if !(chanServes s c) then s else
  let w0 := classWaits s k 0
  let w1 := classWaits s k 1
  match slotClass s k w0 w1 a.wq (c3Pending s k) with
  | some 0 => (match pickPart s a 0 w0 with | some p => settleBacklog c (grantRead k 0 p errs s) | none => s)
  | some 1 => (match pickPart s a 1 w1 with | some p => settleBacklog c (grantRead k 1 p errs s) | none => s)
  | some 2 => grantWrite k s
  | _ => s

/-- A write batch forms (R226): 32 lines wait, or the oldest has waited 1 µs, which the command says. -/
def batchForm (c pc : Nat) (s : State) : State :=
  s.modArb (2 * c + pc) (fun a => if a.batch = 0 then { a with batch := Nat.min 32 a.wq.length } else a)

/-- A Crumb engine looks request `l` of p up (R230–R233): a hit is served from the cached copy, whose metadata are checked and
which is decrypted on the way out. A miss waits at its pseudo-channel in class C0, holding up nothing behind it (R225, R237); where
the next slot is its own it is read at once. -/
def crumbLookup (st p : Nat) (l : LineReq) (errs : List SymErr) (s : State) : State :=
  let set := cacheSet s l.dev
  let es := mget [] s.hbm.cache set
  match es.find? (fun e => e.dev == l.dev) with
  | some e =>
    let r := judgeLine l.dev e.line false (s.modHbm (fun h => { h with
      cache := mset [] h.cache set (e :: es.erase e)
      crbHits := mmod 0 h.crbHits st (· + 1) }))
    giveLine p l r.2 r.1
  | none =>
    let l' := { l with miss := true }
    let s := (s.modSeq p (fun q => { q with lines := q.lines.map (fun x => if x = l then l' else x) })).modHbm
      (fun h => { h with crbMisses := mmod 0 h.crbMisses st (· + 1) })
    if lineMay s 0 p l.dev ∧ (s.seq p).lines.find? (waitsAt s (pcOf s l.dev) 0) = some l' then serveRead p l' errs s else s

/-- A Crumb engine serves the oldest request of its queue (R230, R231). -/
def crumbAccess (st : Nat) (errs : List SymErr) (s : State) : State :=
  match mget [] s.hbm.crumbQ st with
  | [] => s
  | (p, id) :: rest =>
    let s := s.modHbm (fun h => { h with crumbQ := mset [] h.crumbQ st rest })
    crumbFill st (match (s.seq p.toNat).lines.find? (fun l => l.id == id) with
      | none => s
      | some l => crumbLookup st p.toNat l errs s)

end Sys2Proof.Machine
end

