-- ==== Sys2Proof/Machine/HbmEvents.lean ====
section
/-!
DEFINITION. The events of the memory system: grants, refresh, the Crumb engines, write-backs, row and lane repairs, patrol
scrub, thermal levels, retrains (R226–R238, R255–R260), and the keys' loads, flips and sweeps (R262–R267).
-/

namespace Sys2Proof.Machine

/-- May class C3 serve a line (R234, R237): its stack is below Warn and its channel serves. -/
def c3Serves (s : State) (dev : Nat) : Bool :=
  let c := (chanOf s dev).1
  c3Runs s (stackOf c) && chanServes s c

/-- The next line of a walk in class C3: first a line that waited for its stack and may go now, else the line at the
walk's place. The flag says that the place moves on. -/
def c3Pick (s : State) (waits : List Nat) (place : Option Nat) : Option (Nat × Bool) :=
  match waits.find? (c3Serves s) with
  | some d => some (d, false)
  | none => place.map (fun d => (d, true))

/-- Lines that wait after a pick. -/
def c3Waits (s : State) (waits : List Nat) (d : Nat) (moved : Bool) : List Nat :=
  if moved then (if c3Serves s d then waits else waits ++ [d]) else waits.erase d

/-- Does a line's slot go to class C3 now (R226). -/
def c3May (s : State) (dev : Nat) : Bool := c3Serves s dev && lineMay s 3 0 dev

/-- A slot of a line's pseudo-channel goes to class C3. -/
def c3Take (dev : Nat) (s : State) : State := noteSlot (pcOf s dev) 3 0 s

/-- A write-back reaches the cells (R255): the line as corrected, or as read with POISON. -/
def serveWb (w : WriteBack) (s : State) : State :=
  storeLine w.dev (if w.pois then { w.line with md := poisMd s w.dev w.line.md } else w.line) s

/-- A write-back of a stack takes its slot: the oldest that may. -/
def writeBack (st : Nat) (s : State) : State :=
  match s.hbm.wbq.find? (fun w => stackOf (chanOf s w.dev).1 == st && c3May s w.dev) with
  | none => s
  | some w => serveWb w (c3Take w.dev s)

def State.rowRep (s : State) (st : Nat) : RowRep := mget rowRep0 s.hbm.rowRep st
def State.modRowRep (st : Nat) (f : RowRep → RowRep) (s : State) : State :=
  s.modHbm (fun h => { h with rowRep := mmod rowRep0 h.rowRep st f })

/-- One line of a row is copied (R258): corrected, or poisoned where it is uncorrectable or fails its check. -/
def copyLine (dev : Nat) (s : State) : State :=
  let s := (readLine dev [] true (c3Take dev s)).1
  match s.hbm.wbq.find? (fun w => w.dev == dev && w.pois), s.hbm.wbq.find? (fun w => w.dev == dev) with
  | some w, _ => serveWb w s
  | none, some w => serveWb w s
  | none, none => s

/-- The copy of a marked row into a free entry (R258). From here on the entry and the row hold the same, since every write goes to
both. -/
def rowCopy (st : Nat) (s : State) : State :=
  let r := s.rowRep st
  match r.marked, r.copying with
  | row :: rest, none =>
    if r.used < 512 ∧ (rowDevs s row).all (c3Serves s) ∧ ((rowDevs s row).take 1).all (c3May s) then
      forEach (rowDevs s row) copyLine (s.modRowRep st (fun r => { r with marked := rest, copying := some row }))
    else s
  | _, _ => s

/-- The copy ends: the row is served from its entry, and the repair is recorded (R256, R258, R259). At Warn it waits (R235). -/
def rowCopyEnd (st : Nat) (s : State) : State :=
  match (s.rowRep st).copying with
  | none => s
  | some row =>
    if (rowDevs s row).any (fun d => !c3Serves s d) then s else
    let s := s.modRowRep st (fun r => { r with copying := none, used := r.used + 1, rows := r.rows ++ [row] })
    report 0 5 0x11 0xFF (rowChan row + 2 * 2 ^ 16) (recordRepair (.row row) s)

/-- Does the scrub visit a slab: it exists and is not under a Glaze (R260). -/
def scrubs (s : State) (n : Nat) : Bool := (s.slab n).avail && (mget none s.glazeSlabs n).isNone

/-- The scrub moves on to the next slab once every line of its slab has been read, or ends its pass and restarts at slab 0 (R260). -/
def scrubSettle (s : State) : State :=
  let here := scrubs s s.hbm.scrubSlab
  if here && (decide (s.hbm.scrubLine < 2 ^ 23) || !s.hbm.scrubWaits.isEmpty) then s
  else
    let first (lo : Nat) := (upTo 768).find? (fun n => decide (lo ≤ n) && scrubs s n)
    match first (s.hbm.scrubSlab + 1) with
    | some n => s.modHbm (fun h => { h with scrubSlab := n, scrubLine := 0, scrubWaits := [] })
    | none => s.modHbm (fun h => { h with
        scrubPasses := h.scrubPasses + 1, scrubSlab := (first 0).getD 0, scrubLine := 0, scrubWaits := [], scrubCorr := [] })

/-- Patrol scrub reads one line: one of its slab that waited and may go now, else the line at its place, which waits where its stack
serves no class C3 (R235, R260). -/
def scrubRead (errs : List SymErr) (s : State) : State :=
  let s := scrubSettle s
  let n := s.hbm.scrubSlab
  match c3Pick s s.hbm.scrubWaits
      (if scrubs s n && decide (s.hbm.scrubLine < 2 ^ 23) then some (n * 2 ^ 29 + 64 * s.hbm.scrubLine) else none) with
  | none => s
  | some (dev, moved) =>
    let go := !moved || c3Serves s dev
    if go && !c3May s dev then s else
    let w := c3Waits s s.hbm.scrubWaits dev moved
    let s := if go then (readLine dev errs true (c3Take dev s)).1 else s
    scrubSettle (s.modHbm (fun h => { h with scrubWaits := w, scrubLine := if moved then h.scrubLine + 1 else h.scrubLine }))

/-- The level that a reading calls for (R234). -/
def thermLevel (cur t : Nat) : Nat :=
  if cur = 3 ∨ 105 ≤ t then 3
  else if 100 ≤ t then 2
  else if cur = 2 then (if t < 97 then 1 else 2)
  else if 95 ≤ t then 1
  else if cur = 1 then (if t < 92 then 0 else 1)
  else 0

def State.modTherm (st : Nat) (f : Therm → Therm) (s : State) : State :=
  s.modHbm (fun h => { h with therm := mmod therm0 h.therm st f })

/-- A stack's temperature is read (R234, R242); a reading at Trip stops the stack at once (R235). -/
def tempReadout (st : Nat) (t : Byte) (s : State) : State :=
  let x := s.therm st
  let lvl := thermLevel x.level.toNat t.toNat
  let s := s.modTherm st (fun x => { x with
    temp := t
    peak := if x.peak.toNat < t.toNat then t else x.peak
    next := if lvl = x.level.toNat ∨ lvl = 3 then none else some (BitVec.ofNat 2 lvl)
    level := if lvl = 3 then 3 else x.level })
  if lvl = 3 ∧ x.level ≠ 3 then deviceFault 4 0x40 st s else s

/-- The controller applies a stack's level (R234, R242): rises are counted, and Hot is a cause of ALERT_N (R480). -/
def levelApply (st : Nat) (s : State) : State :=
  let x := s.therm st
  match x.next with
  | none => s
  | some l =>
    let s := s.modTherm st (fun x => { x with
      level := l
      next := none
      warnCnt := if x.level = 0 then x.warnCnt + 1 else x.warnCnt
      hotCnt := if l = 2 ∧ x.level ≠ 2 then x.hotCnt + 1 else x.hotCnt })
    if l = 2 then setCause 4 s else s

/-- Has a channel's 100 ms since its last retrain or repair passed (R236). -/
def holdAllowed (s : State) (c : Nat) : Bool :=
  let x := s.chan c
  x.hold.isNone && !x.lost && (match x.lastHold with | none => true | some t => decide (t + 3200000 ≤ s.aon.toNat))

def startHold (c : Nat) (h : Hold) (s : State) : State :=
  s.modChan c (fun x => { x with hold := some h, lastHold := some s.aon.toNat, backlog := true })

/-- A periodic retrain begins (R235, R236): one at a time in the module, none in a Hot stack. -/
def retrain (c : Nat) (s : State) : State :=
  let busy := s.hbm.chans.any (fun e => e.2.hold == some .retrain)
  if !busy && holdAllowed s c && decide ((s.therm (stackOf c)).level.toNat < 2) then startHold c .retrain s else s

/-- Spare lanes of a pseudo-channel: their places in SPA0, SPB0, SPA1, SPB1 (R270). -/
def freeSpare (x : Chan) (pc : Nat) : Option Nat := [2 * pc, 2 * pc + 1].find? (fun i => nth 0x3F x.spares i == 0x3F)

/-- A lane repair begins (R257). -/
def laneRepair (c pc : Nat) (s : State) : State :=
  let x := s.chan c
  if nth 0x3F x.susp pc != 0x3F && (freeSpare x pc).isSome && holdAllowed s c then startHold c (.repair pc) s else s

/-- A hold ends (R237, R238, R257). -/
def holdEnd (c : Nat) (ok : Bool) (hclk : BitVec 12) (s : State) : State :=
  match (s.chan c).hold with
  | none => s
  | some h =>
    let s := settleBacklog c (s.modChan c (fun x => { x with
      hold := none, maxHold := if x.maxHold.toNat < hclk.toNat then hclk else x.maxHold }))
    if !ok then loseChan c s
    else match h with
      | .retrain => s.modChan c (fun x => { x with retrains := x.retrains + 1 })
      | .repair pc =>
        let x := s.chan c
        let pin := nth 0x3F x.susp pc
        match freeSpare x pc with
        | none => s
        | some i =>
          let s := s.modChan c (fun x => { x with repairs := x.repairs + 1, spares := x.spares.set i pin, susp := x.susp.set pc 0x3F })
          report 0 5 0x11 0xFF (c + 256 * pin + 2 ^ 16) (recordRepair (.lane c pc (i % 2) pin) s)

/-- A load that is on its way is in effect. -/
def KeyReg.settle (x : KeyReg) : KeyReg :=
  match x.loading with
  | none => x
  | some (e, id) => { KeyReg.setKey e (some id) x with loading := none }

/-- A rotation of slot k begins (R265 step 1). The TC's loads take effect in the order of its commands. -/
def beginRotate (k : Nat) (heads : List Work) (mgmt : List DWord) (s : State) : State :=
  let (id, s) := newKey s
  s.modKey k (fun x => { x.settle with loading := some (!x.cur, id), running := true, heads := heads, mgmt := mgmt })

/-- A KEY_ROTATE reaches the TC (R267). -/
def keyRotate (k : Nat) (heads : List Work) (mgmt : List DWord) (s : State) : State :=
  let x := s.keyReg k
  if !x.running && !x.waiting then beginRotate k heads mgmt s
  else
    let s := clampIf (x.waiting && decide (k < 32)) k 9 s
    s.modKey k (fun x => { x with waiting := true, waitHeads := x.waitHeads ++ heads, waitMgmt := x.waitMgmt ++ mgmt })

/-- A key load is in effect in all base dies (R263). -/
def keyLoaded (k : Nat) (s : State) : State :=
  match (s.keyReg k).loading with
  | none => s
  | some _ => s.modKey k (fun x => { x.settle with flipDue := x.running })

/-- Is a Glaze writing lines for a partition's slot (R336). -/
def glazesFor (s : State) (p : Nat) : Bool :=
  s.glazeSlabs.any (fun e => match e.2 with | some j => j.dest.any (fun d => d.1.toNat == p) | none => false)

/-- The current epoch of a slot flips and its sweep begins (R265 steps 2, 3). -/
def epochFlip (k : Nat) (s : State) : State :=
  if (s.keyReg k).flipDue && !(decide (k < 32) && glazesFor s k) then
    s.modKey k (fun x => { x with cur := !x.cur, flipDue := false, sweep := some ⟨0, 0, 0, []⟩ })
  else s

/-- The rotation ends: the old epoch is destroyed and what waits for it completes (R265 steps 4, 5). -/
def sweepEnd (k : Nat) (s : State) : State :=
  let x := s.keyReg k
  let s := s.modKey k (fun x =>
    { KeyReg.setKey (!x.cur) none x with sweep := none, running := false, heads := [], mgmt := [], rots := x.rots + 1 })
  let s := forEach x.heads (fun w s => complete w stDone 0 [] s) s
  forEach x.mgmt (fun c s => respond 0x0122 0 c [] true s) s

/-- The sweep visits a line (R265): one of the current epoch is only read; any other is decrypted under its epoch and written back
under the current one. A poisoned line takes the current epoch as it stands. -/
def sweepVisit (k dev : Nat) (errs : List SymErr) (s : State) : State :=
  match decodeLine dev errs false (c3Take dev s) with
  | (s, none) => s
  | (s, some l) =>
    let x := s.keyReg k
    if !metaOk s dev l.md then (judgeLine dev l true s).1
    else if mdEpoch l.md = x.cur then s
    else
      let own := slabOwner (s.slab (slabOf dev))
      storeLine dev (if mdPois l.md then { l with md := mdMake true x.cur own }
        else lineOf (decryptLine s dev l ((x.key (mdEpoch l.md)).getD 0)) false x.cur own (x.curKey.getD 0)) (c3Take dev s)

/-- The sweep after the line that it has picked: a slab is finished when its last line has been visited and none of it waits (R273). -/
def sweepNext (s : State) (w : Sweep) (waits : List Nat) (dev : Nat) (moved : Bool) : Sweep :=
  let n := slabOf dev
  let line := dev % 2 ^ 29 / 64 + 1
  let rest := c3Waits s waits dev moved
  let left := rest.any (fun d => slabOf d == n)
  if moved then
    if line = 2 ^ 23 then ⟨n + 1, 0, w.doneSlabs + b2n (!left), rest⟩ else ⟨n, line, w.doneSlabs, rest⟩
  else { w with waits := rest, doneSlabs := w.doneSlabs + b2n (decide (n < w.slab) && !left) }

/-- The sweep visits its next line, or ends (R265, R266). -/
def sweepLine (k : Nat) (errs : List SymErr) (s : State) : State :=
  match (s.keyReg k).sweep with
  | none => s
  | some w =>
    let waits := w.waits.filter (fun d => (slotSlabs s k).contains (slabOf d) && (mget none s.glazeSlabs (slabOf d)).isNone)
    match c3Pick s waits (sweepPlace s k w) with
    | none => if waits = [] then sweepEnd k s else s
    | some (dev, moved) =>
      let go := !moved || c3Serves s dev
      if go && !c3May s dev then s else
      let w' := sweepNext s w waits dev moved
      let s := if go then sweepVisit k dev errs s else s
      s.modKey k (fun x => { x with sweep := some w' })

/-- A waiting KEY_ROTATE begins as a whole (R267). -/
def rotateDeferred (k : Nat) (s : State) : State :=
  let x := s.keyReg k
  if x.waiting && !x.running then
    (beginRotate k x.waitHeads x.waitMgmt s).modKey k (fun x => { x with waiting := false, waitHeads := [], waitMgmt := [] })
  else s

/-- Number of a key slot. -/
def slotNo (k : KeySlot) : Nat := match k with | .part p => p.toNat | .shared n => 32 + n.toNat | .glaze => 40

def execLineSlotGrant (c : ChanId) (pc : BitVec 1) (errs : List SymErr) (s : State) : Res :=
  .next (slotGrant c.toNat pc.toNat errs s)
def execWriteBatchForm (c : ChanId) (pc : BitVec 1) (s : State) : Res := .next (batchForm c.toNat pc.toNat s)
/-- A refresh occupies its banks (R214): it takes time and changes no state that the spec names (log entry 9). -/
def execRefresh (_ : ChanId) (_ : BitVec 1) (s : State) : Res := .next s
def execCrumbLineAccess (st : StackId) (errs : List SymErr) (s : State) : Res := .next (crumbAccess st.toNat errs s)
def execWriteBack (st : StackId) (s : State) : Res := .next (writeBack st.toNat s)
def execRowRepairCopy (st : StackId) (s : State) : Res := .next (rowCopy st.toNat s)
def execRowRepairCopyEnd (st : StackId) (s : State) : Res := .next (rowCopyEnd st.toNat s)
def execPatrolScrubRead (errs : List SymErr) (s : State) : Res := .next (scrubRead errs s)
def execStackTempReadout (st : StackId) (t : Byte) (s : State) : Res := .next (tempReadout st.toNat t s)
def execThermalLevelApply (st : StackId) (s : State) : Res := .next (levelApply st.toNat s)
def execPeriodicRetrain (c : ChanId) (s : State) : Res := .next (retrain c.toNat s)
def execLaneRepair (c : ChanId) (pc : BitVec 1) (s : State) : Res := .next (laneRepair c.toNat pc.toNat s)
def execRetrainHoldEnd (c : ChanId) (ok : Bool) (hclk : BitVec 12) (s : State) : Res := .next (holdEnd c.toNat ok hclk s)
def execEpochFlip (k : KeySlot) (s : State) : Res := .next (epochFlip (slotNo k) s)
def execSweepLine (k : KeySlot) (errs : List SymErr) (s : State) : Res := .next (sweepLine (slotNo k) errs s)
def execKeyRotateDeferredStart (k : KeySlot) (s : State) : Res := .next (rotateDeferred (slotNo k) s)
/-- KEY_ROTATE of partition p (R265, R368). -/
def execKeyRotate (p : PartId) (h : EntryHead) (s : State) : Res :=
  .next (startEntry p.toNat h 0x09 anyBody (fun w s => keyRotate p.toNat [w] [] s) s)

end Sys2Proof.Machine
end

