-- ==== Sys2Proof/Machine/Glaze.lean ====
section
/-!
DEFINITION. The Glaze's slab overwrite (R333–R336), reads of host memory and of storage endpoints (R311, R348, R349).
-/

namespace Sys2Proof.Machine

/-- Is a descriptor in a partition's range (R181). -/
def inRangeOf (s : State) (p i : Nat) : Bool := decide (fbase s p ≤ i) && decide (i < fbase s p + fcount s p)

def State.modSlab (n : Nat) (f : Slab → Slab) (s : State) : State :=
  s.modHbm (fun h => { h with slabs := mmod slab0 h.slabs n f })

/-- Both epochs of a slot are destroyed (R263, R334 step 1); a rotation that runs has then nothing left to sweep. -/
def destroyKeys (k : Nat) (s : State) : State :=
  s.modKey k (fun x => { x with
    k0 := none, k1 := none, loading := none, flipDue := false
    sweep := if x.running && x.sweep.isNone then some ⟨0, 0, 0, []⟩ else x.sweep })

/-- A slab's overwrite begins (R263, R334): the glaze key is loaded when no other overwrite runs. -/
def startGlaze (n : Nat) (dest : Option (PartId × BitVec 11)) (diss : Option Nat) (s : State) : State :=
  let s := if s.glazeKey.isSome then s else
    let (id, s) := newKey s
    s.setGlazeKey (some id)
  s.modGlazeSlabs (fun g => mset none g n (some ⟨dest, 0, [], diss⟩))

/-- One line of a slab's overwrite (R263, R334 step 2, R336). -/
def glazeLine (n : Nat) (s : State) : State :=
  match mget none s.glazeSlabs n with
  | none => s
  | some j =>
    match c3Pick s j.waits (if j.next < 2 ^ 23 then some (n * 2 ^ 29 + 64 * j.next) else none) with
    | none => s
    | some (dev, moved) =>
      let owner := match j.dest with | some d => d.1.toNat | none => 0
      let epoch := match j.dest with | some d => (s.keyReg d.1.toNat).cur | none => false
      let j' : GlazeJob := { j with next := if moved then j.next + 1 else j.next, waits := c3Waits s j.waits dev moved }
      let go := !moved || c3Serves s dev
      if go && !c3May s dev then s else
      let s := if go then storeLine dev (lineOf (List.replicate 64 0) false epoch owner (s.glazeKey.getD 0)) (c3Take dev s) else s
      s.modGlazeSlabs (fun g => mset none g n (some j'))

/-- Has a slab's overwrite written every line. -/
def glazeDone (s : State) (n : Nat) : Bool :=
  match mget none s.glazeSlabs n with | some j => decide (2 ^ 23 ≤ j.next) && j.waits.isEmpty | none => false

/-- A slab's overwrite ends: the slab joins its new owner or the free pool, and the glaze key is destroyed with the last
overwrite (R263, R340). A Crust region's slabs stay its own. -/
def glazeEnd (n : Nat) (s : State) : State :=
  match mget none s.glazeSlabs n with
  | none => s
  | some j =>
    let s := s.modGlazeSlabs (fun g => mset none g n none)
    let s := if s.glazeSlabs = [] then s.setGlazeKey none else s
    match j.dest with
    | some (p, ps) => (s.modSlab n (fun e => { e with valid := true, shared := false, owner := p, pslot := ps, grant := 0 })).modSeq
        p.toNat (Seq.arrives 1280)
    | none => s

/-- The lowest request tag that is free (R348). -/
def freeTag (s : State) : Option Nat := (upTo 1024).find? (fun t => (mget none s.host.mrds t).isNone)

/-- An MRD for a unit (R348): whole 64-byte lines, 64 to 4,096 bytes. While every tag is in use the read waits. -/
def hostRead (r : Req) (addr len : Nat) (s : State) : State :=
  match freeTag s with
  | none => s.modHost (fun h => { h with waiting := h.waiting ++ [(r, addr, len)] })
  | some t =>
    let skip := addr % 64
    let n := Nat.max 64 (Nat.min 4096 (64 * cdiv (skip + len) 64))
    hostSend (.mrd t (addr - skip) n) (s.modHost (fun h => { h with
      mrds := mset none h.mrds t (some ⟨r, addr - skip, n, [], h.nextMrd, skip, Nat.min len (n - skip)⟩), nextMrd := h.nextMrd + 1 }))

/-- A tag is free again: the oldest read that waits for one goes. -/
def nextRead (s : State) : State :=
  match s.host.waiting with
  | [] => s
  | (r, a, n) :: rest => hostRead r a n (s.modHost (fun h => { h with waiting := rest }))

/-- The work that a read was for has ended: its answer will be passed over. -/
def dropReads (f : Req → Bool) (s : State) : State :=
  (s.modHost (fun h => { h with
    mrds := h.mrds.map (fun e => (e.1, e.2.map (fun m => if f m.req then { m with req := .gone } else m)))
    waiting := h.waiting.filter (fun e => !f e.1) })).modPcl (fun x =>
    { x with srds := x.srds.map (fun r => if f r.req then { r with req := .gone } else r) })

/-- Storage ports send with the credits of VC 0 (log entry 21). -/
def storageVc : Nat := 0

/-- A storage read of 1 KiB units (R311): the 8-byte payload gives the count. The first `skip` bytes are passed over on
arrival. -/
def storageRead (r : Req) (port stream unit count skip : Nat) (s : State) : State :=
  let s := s.modPcl (fun x => { x with srds := x.srds ++ [⟨port, stream, unit, count, r, [], skip⟩] })
  sendFrame port tSrd (mkFrame s storageVc stream 0 0 unit (leBytes 8 count)) s

/-- A storage write of one unit (R311). -/
def storageWrite (port stream unit : Nat) (data : List Byte) (s : State) : State :=
  sendFrame port tSwr (mkFrame s storageVc stream 0 0 unit data) s

/-- Is a port a storage port (R284). -/
def isStorage (s : State) (q : Nat) : Bool := decide (q < 6) && roleOf s q == 2

/-- Bytes of a package or image from its source: host memory, a storage endpoint (16-bit stream and first unit), at an
offset; what a storage endpoint sends before the offset in its unit is passed over on arrival. -/
def fetchFrom (r : Req) (src port srca off len : Nat) (s : State) : State :=
  if src = 0 then hostRead r (srca + off) len s
  else storageRead r port (srca % 2 ^ 16) (srca / 2 ^ 16 + off / 1024) (Nat.max 1 (Nat.min 4 (cdiv (off % 1024 + len) 1024)))
    (off % 1024) s

def execGlazeOverwriteLine (n : SlabId) (s : State) : Res := .next (glazeLine n.toNat s)

end Sys2Proof.Machine
end

