-- ==== Sys2Proof/Machine/Fillings.lean ====
section
/-!
DEFINITION. Crusts and Fillings (R177–R212): the Filling Table, staging and eviction, pins and the stale walk, the sort of a
batch and the staging of its units.
-/

namespace Sys2Proof.Machine

def State.desc (s : State) (i : Nat) : Desc := mget desc0 s.fills.descs i
def State.crust (s : State) (v : Nat) : Crust := mget crust0 s.fills.crusts v
def State.modCrust (v : Nat) (f : Crust → Crust) (s : State) : State :=
  s.modFills (fun x => { x with crusts := mmod crust0 x.crusts v f })
def State.stage (s : State) (i : Nat) : Option StageJob := mget none s.fills.stages i
def State.setStage (i : Nat) (j : Option StageJob) (s : State) : State :=
  (if j.isNone then dropReads (fun r => r == .stage i) s else s).modFills (fun x => { x with stages := mset none x.stages i j })

/-- Partition whose descriptor range holds a descriptor (R181). -/
def ownerOf (s : State) (i : Nat) : Nat := ((upTo 32).find? (fun p => inRangeOf s p i)).getD 0

/-- A descriptor's 128 bytes (R182). -/
def descBytes (s : State) (i : Nat) : List Byte :=
  let d := s.desc i
  leBytes 8 (d.state.toNat + 8 * b2n d.cv + 16 * ownerOf s i + 512 * b2n d.evreq + 2 ^ 16 * d.gen.toNat + 2 ^ 32 * d.pins)
    ++ leBytes 8 d.wloc ++ leBytes 8 d.wlen ++ leBytes 8 d.oloc ++ leBytes 8 d.olen
    ++ leBytes 8 (d.layers + 2 ^ 8 * d.experts + 2 ^ 16 * d.dmodel + 2 ^ 28 * d.dff + 2 ^ 40 * d.mats + 2 ^ 42 * d.wfmt)
    ++ leBytes 8 (d.pltiles + 2 ^ 8 * d.slice) ++ leBytes 4 d.magic.toNat ++ leBytes 4 d.version.toNat
    ++ padTo 48 d.digest ++ List.replicate 16 0

/-- A descriptor changes; a mirrored one is sent to the twin (R457). -/
def modDesc (i : Nat) (f : Desc → Desc) (s : State) : State :=
  let s := s.modFills (fun x => { x with descs := mmod desc0 x.descs i f })
  let p := ownerOf s i
  if mirrors s p then sendTwin 0x10 1 p 0 (leBytes 8 i ++ descBytes s i) s else s

/-- A stage ends without its descriptor becoming Resident (R185, R188). -/
def endStage (i status : Nat) (result : List Byte) (s : State) : State :=
  match s.stage i with
  | none => s
  | some j => complete j.work status 0 result (s.setStage i none)

/-- A descriptor enters Empty (R186): GEN increments, EVREQ and PINS clear, a stage completes ABORTED, and an eviction that
was PENDING posts a Filling freed notification (R188). -/
def freeDesc (i : Nat) (post : Bool) (s : State) : State :=
  let d := s.desc i
  let p := ownerOf s i
  let was := d.state == 3 || (d.state == 4 && d.evreq)
  let s := modDesc i (fun d => { d with state := 0, gen := d.gen + 1, evreq := false, pins := 0 }) s
  let s := if d.state = 1 then endStage i stAborted [] s else s
  if was && post then notify 2 p (i + 2 ^ 16 * (s.desc i).gen.toNat) s else s

/-- A forced eviction (R185, R194): a stale walk becomes due. -/
def evictForce (i : Nat) (s : State) : State :=
  if (s.desc i).state = 0 then s
  else (freeDesc i true s).modFills (fun x => { x with walkNext := BitVec.ofNat 14 i :: x.walkNext })

/-- Does a stale walk that is outstanding cover a descriptor (R194). -/
def walkCovers (s : State) (i : Nat) : Bool :=
  (s.fills.walk.getD []).contains (BitVec.ofNat 14 i) || s.fills.walkNext.contains (BitVec.ofNat 14 i)

/-- An eviction without FORCE (R185): the outcome's code. -/
def evictPlain (i : Nat) (s : State) : Nat × State :=
  let d := s.desc i
  if d.state = 0 then (stDone, s)
  else if d.state = 1 then (stDone, freeDesc i true s)
  else if d.state = 4 then (stPending, modDesc i (fun d => { d with evreq := true }) s)
  else if d.pins = 0 then (stDone, freeDesc i true s)
  else if d.state = 2 then (stPending, modDesc i (fun d => { d with state := 3 }) s)
  else (stPending, s)

/-- FILLING_EVICT (R181, R185, R188). -/
def fillingEvict (p : Nat) (w : Work) (i : Nat) (force : Bool) (s : State) : State :=
  if standbyRefuses s p || !inRangeOf s p i then refuse w 8 s
  else if force then complete w stDone 0 [] (evictForce i s)
  else let r := evictPlain i s; complete w r.1 0 [] r.2

/-- Shape fields of a header with the clamps of R183: the descriptor and how many clamps it took. -/
def headerDesc (h : List Byte) (b : StageBody) (gen : Half) : Desc × Nat :=
  let n (off lo w : Nat) := fld (leNat ((h.drop off).take 8)) lo w
  let nz (v : Nat) := if v = 0 then 1 else v
  let ex := n 40 8 7; let pt := n 48 0 8; let wf := n 40 42 4
  let layers := nz (n 40 0 8); let pl := Nat.min 128 (nz pt); let sl := nz (n 48 8 16)
  let wl := n 16 0 34
  let least := layers * pl * sl
  ({ state := 1, cv := bit (n 0 0 8) 3, evreq := false, gen := gen, pins := 0, wloc := b.wloc.toNat, wlen := Nat.max wl least,
     oloc := b.oloc.toNat, olen := b.olen.toNat, layers := layers, experts := Nat.min 64 (nz ex), dmodel := nz (n 40 16 12),
     dff := nz (n 40 28 12), mats := if n 40 40 2 = 0 then 2 else n 40 40 2, wfmt := if 13 ≤ wf then 0 else wf,
     pltiles := pl, slice := sl, magic := BitVec.ofNat 32 (n 56 0 32), version := BitVec.ofNat 32 (n 56 32 32),
     digest := (h.drop 64).take 48 },
   b2n (n 40 0 8 == 0) + b2n (ex == 0) + b2n (n 40 16 12 == 0) + b2n (n 40 28 12 == 0) + b2n (pt == 0) + b2n (n 48 8 16 == 0)
     + b2n (decide (128 < pt)) + b2n (decide (64 < ex)) + b2n (n 40 40 2 == 0) + b2n (decide (13 ≤ wf)) + b2n (decide (wl < least)))

/-- Ask for the next part of a stage's package. -/
def stageAsk (i : Nat) (s : State) : State :=
  match s.stage i with
  | none => s
  | some j =>
    if j.body.src = 2 then s else
    let d := s.desc i
    let off := match j.hdr with | none => 0 | some _ => 128 + j.img.length
    let left := match j.hdr with | none => 128 | some _ => 64 * d.wlen - j.img.length
    if left = 0 then s
    else fetchFrom (.stage i) j.body.src.toNat j.body.port.toNat j.body.srca.toNat off left s

/-- The header of a package has been read (R184): it is checked before the descriptor leaves Empty. -/
def stageHeader (i : Nat) (h : List Byte) (pois : Bool) (s : State) : State :=
  match s.stage i with
  | none => s
  | some j =>
    let p := j.work.p
    let r := headerDesc h j.body (s.desc i).gen
    let d := r.1
    if pois then endStage i stPoison [] s
    else if d.magic ≠ 0x4C4C4946 ∨ d.version ≠ 1 ∨ (s.crust (b2n d.cv)).state ≠ 2 ∨ (s.desc i).state ≠ 0 then
      refuse j.work 8 (s.setStage i none)
    else
      -- two requests: the image that is written at WLOC, and the optimizer area at OLOC (R189, R219)
      let wc := writeClamp s p d.wloc d.wlen
      let oc := windowClamp s p d.oloc d.olen
      let s := forEach (upTo r.2) (fun _ s => clamp p 8 s) s
      let s := clampIf (oc.2.2 && decide (0 < d.olen)) p 6 (clampIf wc.2.2 p 6 s)
      let s := s.setStage i (some { j with hdr := some h })
      stageAsk i (modDesc i (fun _ => { d with wloc := wc.1, wlen := wc.2.1, oloc := oc.1, olen := oc.2.1 }) s)

/-- Image bytes that were staged go to the twin (R457): 15 lines a record, behind the descriptor and line. -/
def mirrorImage (p i line : Nat) (bs : List Byte) (s : State) : State :=
  if mirrors s p then
    forEach (upTo (cdiv bs.length 960)) (fun k s =>
      sendTwin 0x11 1 p 0 (leBytes 2 i ++ leBytes 6 (line + 15 * k) ++ (bs.drop (960 * k)).take 960) s) s
  else s

/-- Image bytes arrive (R189): written to the partition's memory at WLOC; after them `bad` bytes could not be read, and their
lines are stored poisoned (R350). -/
def stageBytes (i : Nat) (bs : List Byte) (bad : Nat) (s : State) : State :=
  match s.stage i with
  | none => s
  | some j =>
    match j.hdr with
    | none => stageHeader i (bs.take 128) (decide (bs.length < 128)) s
    | some _ =>
      let d := s.desc i
      let p := j.work.p
      let line := d.wloc + j.img.length / 64
      let bs := bs.take (64 * d.wlen - j.img.length)
      let lost := Nat.min bad (64 * d.wlen - j.img.length - bs.length)
      let s := mirrorImage p i (j.img.length / 64) bs (partWriteN p line bs s)
      let s := (upTo (cdiv lost 64)).foldl (fun s k => partWrite p (line + cdiv bs.length 64 + k) (List.replicate 64 0) true s) s
      let s := s.setStage i (some { j with img := j.img ++ bs ++ List.replicate lost 0, bad := j.bad || decide (0 < bad) })
      if bad = 0 then stageAsk i s else s

/-- A stage begins (R194): no stale walk that covers its descriptor is outstanding. -/
def stageBegin (i : Nat) (s : State) : State :=
  match s.stage i with
  | none => s
  | some j =>
    let src := readClamp s j.work.p (j.body.srca.toNat % 2 ^ 34) 2
    if j.begun || walkCovers s i || (j.body.src == 2 && !unitMay s 1 j.work.p [src.1, src.1 + 1]) then s
    else
      let s := s.setStage i (some { j with begun := true })
      if j.body.src = 2 then
        let c := readClamp s j.work.p (j.body.srca.toNat % 2 ^ 34) 2
        let r := partReadN 1 j.work.p c.1 2 (clampIf c.2.2 j.work.p 6 s)
        stageHeader i r.2.1 r.2.2 r.1
      else stageAsk i s

/-- FILLING_STAGE (R181, R185, R368). -/
def fillingStage (p : Nat) (w : Work) (b : StageBody) (s : State) : State :=
  let i := b.fidx.toNat
  if b.src = 3 ∨ (b.src = 1 ∧ isStorage s b.port.toNat = false) then refuse w 0xA s
  else if standbyRefuses s p || !inRangeOf s p i || (s.desc i).state != 0 || (s.stage i).isSome then refuse w 8 s
  else stageBegin i (s.setStage i (some ⟨w, b, false, none, [], false, false⟩))

/-- The request for the image of a stage whose source is partition memory (R219): it follows the header's two lines. -/
def stageImage (i : Nat) (j : StageJob) (s : State) : Nat × Nat × Bool :=
  readClamp s j.work.p (j.body.srca.toNat + 2) (s.desc i).wlen

/-- May the lines of such an image be read in class C1 (R225). -/
def stageMay (i : Nat) (j : StageJob) (s : State) : Bool :=
  j.body.src != 2 || (let c := stageImage i j s; unitMay s 1 j.work.p ((upTo c.2.1).map (c.1 + ·)))

/-- Its bytes, and whether a line carried POISON. -/
def stageLocal (i : Nat) (j : StageJob) (s : State) : State × List Byte × Bool :=
  let c := stageImage i j s
  let r := partReadN 1 j.work.p c.1 c.2.1 s
  (r.1, padTo (64 * (s.desc i).wlen) r.2.1, r.2.2)

/-- Image bytes from the package in partition memory that come before its first poisoned line. -/
def cleanLines (p line : Nat) : Nat → State → List Byte
  | 0, _ => []
  | n + 1, s =>
    let r := partRead 1 p line s
    if r.2.2 then [] else r.2.1 ++ cleanLines p (line + 1) n r.1

/-- Staging ends at a poisoned line (R185): the lines before it have been written (R189), POISON, and the descriptor returns
to Empty. -/
def stagePoison (i : Nat) (s : State) : State :=
  match s.stage i with
  | none => s
  | some j =>
    if j.hdr.isNone ∨ (s.desc i).state ≠ 1 ∨ !stageMay i j s then s
    else
      let r := if j.body.src = 2 then stageLocal i j s else (s, [], j.bad)
      if r.2.2 then
        let d := s.desc i
        let p := j.work.p
        let r := if j.body.src = 2 then
            let c := stageImage i j s
            let bs := cleanLines p c.1 c.2.1 s
            (mirrorImage p i 0 bs (partWriteN p d.wloc bs (clampIf c.2.2 p 6 r.1)), true)
          else (r.1, true)
        let s := modDesc i (fun d => { d with state := 0, gen := d.gen + 1, evreq := false, pins := 0 }) r.1
        endStage i stPoison [] s
      else r.1

/-- Staging ends with its last line (R185, R189): the digest decides. A mirrored stage completes when the twin has
acknowledged the Resident record (R458). -/
def stageEnd (i : Nat) (s : State) : State :=
  match s.stage i with
  | none => s
  | some j =>
    let d := s.desc i
    if j.hdr.isNone ∨ d.state ≠ 1 ∨ !stageMay i j s then s
    else
      let r := if j.body.src = 2 then stageLocal i j s else (s, j.img, j.bad)
      let s := r.1
      if r.2.2 then stagePoison i s
      else if r.2.1.length < 64 * d.wlen then s
      else
        let s := if j.body.src = 2 then
            mirrorImage j.work.p i 0 r.2.1 (partWriteN j.work.p d.wloc r.2.1 (clampIf (stageImage i j s).2.2 j.work.p 6 s))
          else s
        let dig := Config.sha384 r.2.1
        let free := d.digest.all (fun b => b == 0)
        if free || dig == d.digest then
          let s := modDesc i (fun d => { d with state := 2, digest := dig, evreq := false }) s
          if mirrors s j.work.p then s.setStage i (some { j with acks := true, img := dig })
          else endStage i stDone (dig.take 16) s
        else
          let s := modDesc i (fun d => { d with state := 0, gen := d.gen + 1, evreq := false, pins := 0 }) s
          endStage i stDigest (dig.take 16) s

/-- Stages that wait for the twin end when it has acknowledged everything sent on VC 1, or no longer mirrors their partition
(R458). -/
def stageAcked (s : State) : State :=
  let v := (s.port 6).vc 1
  let drained := portUp s 6 && v.sent == [] && v.queue == []
  forEach s.fills.stages (fun e s => match e.2 with
    | some j => if j.acks && (drained || !mirrors s j.work.p) then endStage e.1 stDone (j.img.take 16) s else s
    | none => s) s

/-- Is a context's pin valid (R190). -/
def pinValid (s : State) (c : CtxRec) : Bool :=
  let d := s.desc c.fidx.toNat
  c.pinned && !c.stale && c.pgen == d.gen && (d.state == 2 || d.state == 3 || d.state == 4)

/-- A descriptor loses a pin: an Evict-pending one without pins becomes Empty (R185, R193). -/
def unpin (i : Nat) (s : State) : State :=
  let s := modDesc i (fun d => { d with pins := d.pins - 1 }) s
  if (s.desc i).state = 3 ∧ (s.desc i).pins = 0 then freeDesc i true s else s

/-- A context's pin is released (R193): a pin that is not valid leaves PINS unchanged. -/
def pinRelease (p c : Nat) (s : State) : State :=
  let r := s.ctxRec (cbase s p + c)
  let i := r.fidx.toNat
  let valid := pinValid s r
  let s := if r.pinned then modCtxRec p c (fun r => { r with pinned := false, stale := false }) s else s
  if valid then unpin i s else s

/-- A context is released: its record is zeroed after its pin (R367). -/
def ctxRelease (p c : Nat) (s : State) : State := modCtxRec p c (fun _ => ctxRec0) (pinRelease p c s)

/-- A stale walk begins (R194): it covers every forced eviction since the last one began. -/
def staleWalk (s : State) : State :=
  if s.fills.walk.isSome || s.fills.walkNext.isEmpty then s
  else s.modFills (fun x =>
    let ctxs' := x.ctxs.map (fun e =>
      if e.2.pinned && x.walkNext.contains e.2.fidx && e.2.pgen != (mget desc0 x.descs e.2.fidx.toNat).gen then
        (e.1, { e.2 with stale := true })
      else e)
    { x with walk := some x.walkNext, walkNext := [], ctxs := ctxs' })

/-- A stale walk has visited every context (R194). -/
def staleWalkEnd (s : State) : State := s.modFills (fun x => { x with walk := none })

/-- Training begins (R210): the target's GEN is recorded. -/
def trainBegin (p i : Nat) (s : State) : Option (FillId × Half) × State :=
  let d := s.desc i
  if inRangeOf s p i && d.state == 2 then (some (BitVec.ofNat 14 i, d.gen), modDesc i (fun d => { d with state := 4 }) s)
  else (none, clamp p 8 s)

/-- Training ends (R185, R210). -/
def trainEnd (t : Option (FillId × Half)) (s : State) : State :=
  match t with
  | none => s
  | some (i, g) =>
    let d := s.desc i.toNat
    if d.gen ≠ g ∨ d.state ≠ 4 then s
    else if d.evreq then
      (if d.pins = 0 then freeDesc i.toNat true s else modDesc i.toNat (fun d => { d with state := 3 }) s)
    else modDesc i.toNat (fun d => { d with state := 2 }) s

/-- A partition reset's effect on the partition's descriptors; the open batch, its order table and all staging in progress are
discarded (R209). -/
def fillReset (p : Nat) (s : State) : State :=
  let s := s.modPart p (fun q => { q with fill := { fillPart0 with srec := q.fill.srec } })
  let s := forEach ((s.fills.stages.map (·.1)).filter (inRangeOf s p)) (fun i s =>
    if (s.desc i).state = 1 then s else endStage i stAborted [] s) s
  forEach ((s.fills.descs.map (·.1)).filter (inRangeOf s p)) (fun i s =>
    let d := s.desc i
    if d.state = 1 ∨ d.state = 3 then freeDesc i false s
    else if d.state = 4 then modDesc i (fun d => { d with state := 2, evreq := false, pins := 0 }) s
    else if d.pins ≠ 0 then modDesc i (fun d => { d with pins := 0 }) s
    else s) s

/-- Descriptors of p that touch a slab's lines (R208) are force-evicted before it leaves. -/
def evictSlab (p pslot : Nat) (s : State) : State :=
  let touches (loc n : Nat) : Bool := decide (0 < n) && decide (loc / 2 ^ 23 ≤ pslot) && decide (pslot ≤ (loc + n - 1) / 2 ^ 23)
  forEach ((s.fills.descs.filter (fun e => inRangeOf s p e.1 && (touches e.2.wloc e.2.wlen || touches e.2.oloc e.2.olen))).map (·.1))
    (fun i s => evictForce i s) s

/-- Descriptors that name a Crust version and are not Empty: FILLS (R179, R212). -/
def crustFills (s : State) (v : Nat) : Nat := (s.fills.descs.filter (fun e => e.2.state != 0 && b2n e.2.cv == v)).length

/-- A Crust version becomes Absent: its slot's keys are destroyed and its region is glazed (R333, R335). -/
def crustRelease (v : Nat) (s : State) : State :=
  let s := s.modCrust v (fun _ => crust0)
  let s := destroyKeys (32 + crustKslot s v) s
  forEach (crustRegion s v) (fun n s => startGlaze n none none s) s

/-- A Retiring version whose last descriptor is Empty becomes Absent (R179). -/
def crustAbsent (v : Nat) (s : State) : State :=
  if (s.crust v).state = 3 ∧ crustFills s v = 0 then crustRelease v s else s

/-- The Crust version that a serving program names, and whether it serves now (R180). -/
def servesCv (s : State) (p : Nat) : Bool :=
  let v := b2n (srecCv (s.part p).fill.srec)
  let st := (s.crust v).state
  (st == 2 || st == 3) && crustGranted s p v

/-- Group a batch's rows by descriptor, in the order of first rows (R197). -/
def groupRows : List (Nat × RowRef) → List (FillId × List Nat) → List (FillId × List Nat)
  | [], acc => acc
  | (n, r) :: rest, acc =>
    match r.fidx with
    | none => groupRows rest acc
    | some f =>
      if acc.any (fun g => g.1 == f) then groupRows rest (acc.map (fun g => if g.1 = f then (g.1, g.2 ++ [n]) else g))
      else groupRows rest (acc ++ [(f, [n])])

def groupStarts : Nat → List (FillId × List Nat) → List (FillId × Nat × Nat)
  | _, [] => []
  | at_, (f, ns) :: rest => (f, at_, ns.length) :: groupStarts (at_ + ns.length) rest

/-- The batch closes and is sorted (R196, R197). -/
def closeBatch (p : Nat) (s : State) : State :=
  let q := s.part p
  let rows := (q.fill.rows.take 4096).zipIdx.map (fun e => (e.2, e.1))
  let gs := groupRows rows []
  let nf := rows.filter (fun e => e.2.fidx.isNone)
  let b : Batch :=
    { serial := q.fill.closes
      groups := (groupStarts 0 gs).map (fun g => ⟨g.1, (s.desc g.1.toNat).gen, g.2.1, g.2.2⟩)
      nf := nf.length
      perm := gs.flatMap (·.2) ++ nf.map (·.1)
      layers := srecLayers q.fill.srec
      written := false }
  s.modPart p (fun q => { q with fill := { q.fill with
    rows := q.fill.rows.drop 4096, batch := some b, closes := q.fill.closes + 1, named := 0, copied := 0, copying := none
    released := 0, flips := [], leases := [], ended := [] } })

/-- The order table's bytes (R198). -/
def orderBytes (b : Batch) : List Byte :=
  let rows := b.perm.length
  padTo 64 (leBytes 2 rows ++ leBytes 2 b.groups.length ++ leBytes 2 b.nf ++ leBytes 2 b.layers)
    ++ padTo 32768 (b.groups.flatMap (fun g => leBytes 8 (g.fidx.toNat + 2 ^ 16 * g.gen.toNat + 2 ^ 32 * g.first + 2 ^ 48 * g.count)))
    ++ padTo 8192 (b.perm.flatMap (fun n => leBytes 2 n))

/-- Bytes written by the device to a tile's Scratchpad, line by line (a port or staging arrival of R112). -/
def writeLines (p t line : Nat) (bs : List Byte) (rank : Nat) (s : State) : State :=
  (toLines bs).zipIdx.foldl (fun s e =>
    writeTile p 0 .scratch t (64 * spLine (line + e.2)) (e.1.map (fun b => (true, b))) rank false s) s

/-- The sort has written the order table in every tile (R198, R199). -/
def orderWritten (p : Nat) (s : State) : State :=
  let q := s.part p
  match q.fill.batch with
  | none => s
  | some b =>
    if b.written then s else
    let s := forEach q.tiles (fun t s => writeLines p t (srecOta q.fill.srec) (orderBytes b) 2 s) s
    s.modPart p (fun q => { q with fill := { q.fill with batch := some { b with written := true } }, seq := q.seq.arrives 768 })

/-- The copy of the next unit begins (R203). -/
def unitCopyStart (p : Nat) (s : State) : State :=
  let f := (s.part p).fill
  match f.batch with
  | none => s
  | some b =>
    let n := f.copied
    if srecEn f.srec && decide (n < b.units) && f.copying.isNone && decide (n < f.released + 2) && (s.part p).live then
      s.modPart p (fun q => { q with fill := { q.fill with copying := some n } })
    else s

/-- Where the slice of a layer for the tile of rank r begins (R184). -/
def sliceAt (d : Desc) (layer r : Nat) : Nat := d.wloc + (layer * d.pltiles + r) * d.slice

/-- May the slices of a unit's layer be read in class C1 (R202, R225). -/
def slicesMay (p : Nat) (d : Desc) (layer len : Nat) (s : State) : Bool :=
  unitMay s 1 p ((upTo (Nat.min d.pltiles (s.part p).tiles.length)).flatMap (fun r =>
    let c := readClamp s p (sliceAt d layer r) len
    (upTo c.2.1).map (c.1 + ·)))

/-- The lines of a unit's slice in one tile (R202), a read that the window clamps as any (R219): a poisoned line is written as
zeros (R208). -/
def sliceLines (p r : Nat) (d : Desc) (layer len : Nat) (s : State) : State × List Byte × Bool :=
  let c := readClamp s p (sliceAt d layer r) len
  let x := (upTo c.2.1).foldl (fun (acc : State × List Byte × Bool) i =>
    let x := partRead 1 p (c.1 + i) acc.1
    (x.1, acc.2.1 ++ (if x.2.2 then List.replicate 64 0 else x.2.1), acc.2.2 || x.2.2)) (clampIf c.2.2 p 6 s, [], false)
  (x.1, padTo (64 * len) x.2.1, x.2.2)

/-- A unit's slices are in its buffer in every tile (R202, R208); the leased planes are then loaded. -/
def unitCopyEnd (p : Nat) (s : State) : State :=
  let q := s.part p
  match q.fill.batch, q.fill.copying with
  | some b, some n =>
    let j := b.groups.length
    match b.groups[n % Nat.max 1 j]? with
    | none => s
    | some g =>
      let d := s.desc g.fidx.toNat
      let layer := n / Nat.max 1 j
      let len := Nat.min d.slice (srecLen q.fill.srec)
      let short := decide (d.layers ≤ layer)
      if !short && !slicesMay p d layer len s then s else
      let s := clampIf short p 8 (clampIf (decide (srecLen q.fill.srec < d.slice)) p 8
        (clampIf (decide (d.pltiles < q.tiles.length)) p 8 s))
      let r := q.tiles.zipIdx.foldl (fun (acc : State × Bool) e =>
        let x := if short || decide (d.pltiles ≤ e.2) then (acc.1, List.replicate (64 * len) (0 : Byte), false)
          else sliceLines p e.2 d layer len acc.1
        (writeLines p e.1 (bufLine q.fill.srec n) x.2.1 2 x.1, acc.2 || x.2.2)) (s, false)
      let s := if r.2 then evictForce g.fidx.toNat (report 2 0xC 0x21 p g.fidx.toNat r.1) else r.1
      let s := s.modPart p (fun q => { q with fill := { q.fill with copied := n + 1, copying := none } })
      forEach (srecArrays q.fill.srec) (fun a s => loadLease p a s) s
  | _, _ => s

/-- The buffer of unit r is released 260 cycles after the gate naming unit r + 1 has resolved without run-ahead or has committed
(R203), which is when it counts as named; later gates that have run ahead do not delay it. -/
def bufferRelease (p : Nat) (s : State) : State :=
  let f := (s.part p).fill
  if f.released + 2 ≤ f.named then s.modPart p (fun q => { q with fill := { q.fill with released := f.released + 1 } }) else s

def execFillingStage (p : PartId) (h : EntryHead) (b : StageBody) (s : State) : Res :=
  .next (startEntry p.toNat h 0x03 (fun bs => stageBody bs == b) (fun w s => fillingStage p.toNat w b s) s)
def execFillingEvict (p : PartId) (h : EntryHead) (i : FillId) (s : State) : Res :=
  .next (startEntry p.toNat h 0x04 (fun bs => evictBody bs == (false, i)) (fun w s => fillingEvict p.toNat w i.toNat false s) s)
def execFillingEvictForce (p : PartId) (h : EntryHead) (i : FillId) (s : State) : Res :=
  .next (startEntry p.toNat h 0x04 (fun bs => evictBody bs == (true, i)) (fun w s => fillingEvict p.toNat w i.toNat true s) s)
def execStagingBegin (i : FillId) (s : State) : Res := .next (stageBegin i.toNat s)
def execStagingPoisonLine (i : FillId) (s : State) : Res := .next (stagePoison i.toNat s)
def execStagingEnd (i : FillId) (s : State) : Res := .next (stageEnd i.toNat s)
def execStaleWalk (s : State) : Res := .next (staleWalk s)
def execStaleWalkEnd (s : State) : Res := .next (staleWalkEnd s)
def execOrderTableWritten (p : PartId) (s : State) : Res := .next (orderWritten p.toNat s)
def execUnitCopyStart (p : PartId) (s : State) : Res := .next (unitCopyStart p.toNat s)
def execUnitCopyEnd (p : PartId) (s : State) : Res := .next (unitCopyEnd p.toNat s)
def execStagingBufferRelease (p : PartId) (s : State) : Res := .next (bufferRelease p.toNat s)
def execCrustAbsent (v : BitVec 1) (s : State) : Res := .next (crustAbsent v.toNat s)

end Sys2Proof.Machine
end

