-- ==== Sys2Proof/Machine/Checkpoint.lean ====
section
/-!
DEFINITION. Checkpoints and the whole-job restart (R161, R162, R441–R452): what a step boundary captures, how a checkpoint
drains to its target, how it ends, and how it is written back.
-/

namespace Sys2Proof.Machine

/-- CKP_MOD (R465): target, storage port and stream, bounds of the interval. -/
def ckTgt (s : State) : Nat := cfgNum s 0x348 1
def ckPort (s : State) : Nat := cfgNum s 0x349 1
def ckStream (s : State) : Nat := cfgNum s 0x34A 2
def ckMin (s : State) : Nat := cfgNum s 0x34C 4
def ckMax (s : State) : Nat := cfgNum s 0x350 4

/-- Fields of CKP_CFG_p_0–3 (R466). -/
def Ckp.word (k : Ckp) (j : Nat) : Nat := (nth 0 k.cfg j).toNat
def Ckp.plan (k : Ckp) : Nat := fld (k.word 0) 0 34
def Ckp.mirror (k : Ckp) : Bool := bit (k.word 0) 34
def Ckp.kper (k : Ckp) : Nat := fld (k.word 0) 35 16
def Ckp.hbase (k : Ckp) : Nat := k.word 1 / 4096 * 4096
def Ckp.hslot (k : Ckp) : Nat := let v := fld (k.word 2) 0 26; if v = 0 then 2 else v
def Ckp.restores (k : Ckp) : Bool := bit (k.word 3) 0
def Ckp.restoreBound (k : Ckp) : Nat := k.word 3 / 2

def State.modCkp (p : Nat) (f : Ckp → Ckp) (s : State) : State := s.modPart p (fun q => { q with ckp := f q.ckp })

/-- Ticks of AON in a second (R412). -/
def ticksPerSec : Nat := 32000000

/-- M of R442, in ticks. -/
def meanFault (s : State) : Nat :=
  let fleet := s.fleet.toNat.max 1 * 3600 * ticksPerSec
  if s.obs.2 = 0 then fleet else Nat.min fleet (s.obs.1 / s.obs.2)

/-- τ in whole seconds (R442), rounded down (log entry 22). -/
def tauOf (s : State) (durs : List Nat) : Nat :=
  let lo := Nat.min (ckMin s) (ckMax s)
  let hi := Nat.max (ckMin s) (ckMax s)
  if durs = [] then clampNat lo hi (ckMin s)
  else
    let c := sumL durs / durs.length
    clampNat lo hi (Nat.sqrt (2 * c * meanFault s) / ticksPerSec)

/-- Does a checkpoint of p fall due at its boundary (R441). -/
def ckDue (s : State) (p : Nat) : Bool :=
  let k := (s.part p).ckp
  ckTgt s != 0 && (!k.nows.isEmpty || k.due ||
    (if k.kper ≠ 0 then k.bound % k.kper == 0 else decide (k.since + tauOf s k.durs * ticksPerSec ≤ s.aon.toNat)))

/-- May one be taken at this SWAP: no bucket slot open, no MEM, MOV or XCH operation outstanding (R441). -/
def ckQualifies (s : State) (p : Nat) : Bool :=
  let q := s.seq p
  q.reqs.isEmpty && q.crumbs.isEmpty && q.lines.isEmpty && q.movTok.isEmpty &&
    (upTo (slotCount s p)).all (fun i => let b := s.bucket (slotBase s p + i); !b.opened && !b.copying)

/-- Registers of the two register sections, in ascending address (log entry 23). -/
def seqRegs : List Nat := (upTo 3).map (0x10 + ·) ++ (upTo 32).map (0x40 + ·) ++ (upTo 32).map (0x80 + ·)
def unitRegs : List Nat :=
  ((upTo 0x30).map (0x1200 + ·) ++ (upTo 0x110).map (0x2080 + ·) ++ (upTo 0xA0).map (0x3080 + ·) ++ (upTo 0x100).map (0x4000 + ·)).filter
    (fun a => (regMask a).isSome || a == 0x30C1)

def words (l : List Nat) : List Byte := l.flatMap (leBytes 8)

/-- Eight bytes to a word; a rest is dropped. -/
def toWords : List Byte → List Nat
  | a :: b :: c :: d :: e :: f :: g :: h :: r => leNat [a, b, c, d, e, f, g, h] :: toWords r
  | _ => []

/-- Section 1: the control state of context B that the next bundle sees (R443). -/
def controlState (q : Part) : List Byte :=
  let c := q.ctxB
  let u := q.cvu.drain
  words ([c.pc] ++ (upTo 64).map (fun r => (c.sreg r).toNat) ++ [c.stack.length] ++ (upTo 16).map (fun i => nth 0 c.stack i)
    ++ [c.ptpol.toNat, c.ractl.toNat] ++ seqRegs.map q.reg
    ++ [u.alg.toNat + 16 * b2n u.halt, u.val.toNat, u.exp.toNat, u.stat.toNat])

/-- Flags of one tile. -/
def tileFlags (t : Tile) : List Nat := (upTo 4).map (fun a => (mget 0 t.arrStat a).toNat) ++ [t.vec.stat.toNat, t.updStat.toNat]

/-- Section 2: unit registers, generation and training target (R443). -/
def unitState (s : State) (q : Part) : List Byte :=
  words (unitRegs.map q.reg ++ [q.gen.toNat, match q.ctxB.target with | some (i, g) => i.toNat + 65536 * g.toNat | none => 0xFFFF]
    ++ q.tiles.flatMap (fun t => tileFlags (s.tile t)))

def ledgerWords : Option Ledger → List Nat
  | none => [0]
  | some l => [1, l.tag.toNat, l.step.toNat, l.age, b2n l.ready, l.ranges.length] ++ l.ranges.flatMap (fun r => [r.1, r.2])
    ++ (upTo 8).map (fun i => nth 0 l.desc i)

/-- Section 6: STEP counts and ledger metadata of the partition's bucket slots. -/
def slotState (s : State) (p : Nat) : List Byte :=
  words ((upTo (slotCount s p)).flatMap (fun i =>
    let b := s.bucket (slotBase s p + i)
    [b.step.toNat] ++ ledgerWords (mget none b.ledgers 0) ++ ledgerWords (mget none b.ledgers 1)))

/-- The consumer count of the ring, from its line (R375). -/
def siuCons (s : State) (p : Nat) : Nat := leNat ((partRead 1 p ((s.part p).siu.obase + 1) s).2.1.take 8)

/-- Kept-record index of the first record of the window being emitted: where the records of a restart begin (R376). -/
def siuBase (u : Siu) : Nat := match u.wins with | w :: _ => (match w.recs with | r :: _ => r.idx | [] => u.kept) | [] => u.kept

/-- Section 7's first part. -/
def siuState (s : State) (p : Nat) : List Byte :=
  let u := (s.part p).siu
  words ([b2n u.live] ++ u.cfg ++ [u.seed.toNat, u.k, u.wbase, u.whalf, u.obase, u.oring, siuBase u, u.rposW, u.nexti, u.foff, u.skip,
    u.prod, siuCons s p])

/-- Ring lines from the consumer to the producer count. -/
def ringLines (u : Siu) (cons : Nat) : List CkSrc :=
  let n := u.prod - cons
  let a := cons % Nat.max 1 u.oring
  let first := Nat.min n (u.oring - a)
  [.lines (u.obase + 2 + a) first none] ++ (if first < n then [.lines (u.obase + 2) (n - first) none] else [])

/-- The plan (R444): capture line, memory ranges, Scratchpad ranges; where it is bad its failure cause, 0 for poison (R254). -/
def readPlan (p : Nat) (s : State) : Except Nat (Nat × List (Nat × Nat) × List (Nat × Nat)) × State :=
  let c := readClamp s p (s.part p).ckp.plan 8
  let r := partReadN 3 p c.1 c.2.1 (clampIf c.2.2 p 6 s)
  let b := r.2.1
  let n (o k : Nat) := leNat ((b.drop o).take k)
  let nm := n 4 2
  let ns := n 6 2
  let sps := (upTo ns).map (fun i => (n (320 + 8 * i) 4, n (324 + 8 * i) 4))
  if r.2.2 then (.error 0, r.1)
  else if n 0 4 ≠ 0x4E4C5043 ∨ 16 < nm ∨ 16 < ns ∨ 8192 < sumL (sps.map (·.2)) then (.error 1, r.1)
  else (.ok (n 8 8 % 2 ^ 34, (upTo nm).map (fun i => (n (64 + 16 * i) 8, n (72 + 16 * i) 8)), sps), r.1)

/-- Units of a checkpoint, trailer included (R445). -/
def ckUnits (secs : List (Nat × List CkSrc)) : Nat := 2 + sumL (secs.map (fun x => secUnits x.2))

/-- A checkpoint of p fails or is abandoned (R447); cause 0 stands for poison. -/
def ckFail (p cause : Nat) (works : List Work) (s : State) : State :=
  let k := (s.part p).ckp
  let s := if cause = 0 then report 2 9 0x22 p k.cseq s else report 0 9 0x70 p (k.cseq + cause * 2 ^ 56) s
  let s := s.modCkp p (fun k => { k with fails := Nat.min 0xFFF (k.fails + 1) })
  forEach works (fun w s => complete w stAborted 0 [] s) s

/-- DRAIN of every pair follows what the checkpoints in progress have still to read (R162). -/
def settleDrain (p : Nat) (s : State) : State :=
  s.modPart p (fun q => forEach (upTo 8) (fun k q =>
    let open_ := q.ckp.jobs.any (fun j => (secStarts 1 j.secs).any (fun x => x.2.1 == 3 &&
      x.2.2.any (fun c => match c with
        | .lines f n (some k') => k' == k && (upTo n).any (fun i => ckUnread j (f + i))
        | _ => false)))
    if q.sbufDrain k != open_ then q.setDrain k open_ else q) q)

/-- Remove the oldest checkpoint in progress. -/
def ckDrop (p : Nat) (s : State) : State := settleDrain p (s.modCkp p (fun k => { k with jobs := k.jobs.drop 1 }))

/-- A checkpoint of p is taken at its boundary (R443): the sections are captured, and the partition stalls until the
capture lines have been accepted. -/
def ckCapture (p : Nat) (ctl : List Byte) (s : State) : State :=
  let k := (s.part p).ckp
  let works := k.nows
  let s := s.modCkp p (fun k => { k with nows := [], due := false, since := s.aon.toNat })
  match readPlan p s with
  | (.error e, s) => ckFail p e works s
  | (.ok (cap, mems, sps), s) =>
    let q := s.part p
    let bufs := ((upTo 8).filter (fun i => q.sbufLen i != 0)).map (fun i => CkSrc.lines (q.sbufBase i (q.sbufCur i)) (q.sbufLen i) (some i))
    let capLines := sumL (sps.map (·.2)) * q.tiles.length
    let mem := mems.map (fun m => let c := windowClamp s p m.1 m.2; CkSrc.lines c.1 c.2.1 none)
    let capR := writeClamp s p cap capLines
    -- each range of the plan is a request of its own (R219)
    let s := clampIf capR.2.2 p 6 (forEach mems (fun m s => clampIf (readClamp s p m.1 m.2).2.2 p 6 s) s)
    let secs := [(1, [CkSrc.bytes ctl]), (2, [.bytes (unitState s q)]), (3, bufs), (4, mem), (5, [.lines capR.1 capR.2.1 none]),
      (6, [.bytes (slotState s p)]), (7, .bytes (siuState s p) :: ringLines q.siu (siuCons s p))]
    let limit := if ckTgt s = 1 then 2 ^ 26 else k.hslot
    if limit < ckUnits secs then ckFail p 2 works s
    else
      settleDrain p (s.modCkp p (fun k => { k with jobs := k.jobs ++ [
        { bound := k.bound, target := q.ctxB.target, digest := q.ctxB.digest, secs := secs, cap := capR.1, sps := sps,
          captured := false, next := 0, acked := 0, sent := [], extra := [], works := works, tick := s.aon.toNat }] }))

/-- A step boundary (R161, R441): the number rises; a checkpoint that is due is taken or deferred. `ctl` is the control
state that the bundle after the SWAP bundle sees. -/
def boundary (p : Nat) (ctl : List Byte) (s : State) : State :=
  let s := s.modCkp p (fun k => { k with bound := k.bound + 1 })
  if !ckDue s p then s
  else if ckQualifies s p then ckCapture p ctl s
  else s.modCkp p (fun k => { k with due := true, defer := Nat.min 0xFFFF (k.defer + 1) })

/-- The partition's issue waits for a capture (R443). -/
def capturing (q : Part) : Bool := q.ckp.jobs.any (fun j => !j.captured)

/-- A SWAP's own effect (R161): CUR is inverted; a pair with LEN = 0 is clamped. The answer says whether the SWAP took
effect. -/
def swapPair (p k : Nat) (s : State) : State × Bool :=
  if (s.part p).sbufLen k = 0 then (clamp p 3 s, false) else (s.modPart p (fun q => q.setCur k (!q.sbufCur k)), true)

/-- A SWAP takes effect: a step boundary only in context B (R441). -/
def swapEffect (p k : Nat) (stepEnd : Bool) (ctl : List Byte) (s : State) : State :=
  let r := swapPair p k s
  if r.2 && stepEnd && (s.seq p).ctxB then boundary p ctl r.1 else r.1

/-- The UPD slot's SWAP in its issue cycle (R161): held in the commit queue while a gate is unresolved. The step boundary
itself waits for the end of the bundle, when the next bundle's control state is known (`swapEnd`). -/
def swapIssue (p : Nat) (k : BitVec 3) (stepEnd : Bool) (s : State) : State :=
  if (s.seq p).gates ≠ [] then cqPush p 1 (.swap k stepEnd []) s else (swapPair p k.toNat s).1

/-- The end of a bundle that issued a SWAP: its control state is recorded. -/
def swapEnd (p : Nat) (k : BitVec 3) (stepEnd held : Bool) (s : State) : State :=
  let q := s.part p
  if !(stepEnd && q.seq.ctxB) then s
  else if held then
    s.modSeq p (fun u => { u with commitQ := u.commitQ.map (fun e =>
      match e.act with
      | .swap j true [] => { e with act := .swap j true (controlState q) }
      | _ => e) })
  else if q.sbufLen k.toNat = 0 then s
  else boundary p (controlState q) s

/-- Capture lines of one tile, in the plan's order. -/
def captureBytes (tl : Tile) (sps : List (Nat × Nat)) : List Byte :=
  sps.flatMap (fun r => (upTo r.2).flatMap (fun i => rdBytes tl.scratch (64 * spLine (r.1 + i)) 64))

def captureMarked (tl : Tile) (sps : List (Nat × Nat)) : Bool :=
  sps.any (fun r => (upTo r.2).any (fun i => tl.pois .scratch (spLine (r.1 + i))))

/-- The capture lines of every tile have been accepted (R443): the tile of rank r writes from the area's line r × its lines
(log entry 23). The stall ends. -/
def captureEnd (p : Nat) (s : State) : State :=
  let q := s.part p
  match q.ckp.jobs.find? (fun j => !j.captured) with
  | none => s
  | some j =>
    let n := sumL (j.sps.map (·.2))
    let s := forEach q.tiles.zipIdx (fun e s => partWriteN p (j.cap + e.2 * n) (captureBytes (s.tile e.1) j.sps) s) s
    let s := s.modCkp p (fun k => { k with jobs := k.jobs.map (fun x => if x.captured then x else { x with captured := true }) })
    if q.tiles.any (fun t => captureMarked (s.tile t) j.sps) then
      -- a marked line is consumed by the Checkpoint Engine: the checkpoint is abandoned (R254)
      settleDrain p (ckFail p 0 j.works (s.modCkp p (fun k => { k with jobs := k.jobs.dropLast })))
    else s

/-- Read the items of a unit; a line that was read ahead is taken from the staging buffer. -/
def readItems (p : Nat) (j : CkJob) : List (List Byte ⊕ Nat) → State → State × List Byte × Bool
  | [], s => (s, [], false)
  | .inl b :: r, s => let x := readItems p j r s; (x.1, b ++ x.2.1, x.2.2)
  | .inr l :: r, s =>
    let y := match mget none j.extra l with
      | some e => (s, e.1, e.2)
      | none => partRead 3 p l s
    let x := readItems p j r y.1
    (x.1, y.2.1 ++ x.2.1, y.2.2 || x.2.2)

/-- The header (R445). -/
def ckHeader (s : State) (p : Nat) (j : CkJob) : List Byte :=
  let q := s.part p
  let topo := (upTo 8).flatMap (fun k =>
    if topoKind s k ≠ 0 ∧ topoOwner s k = p then leBytes 2 (topoJob s k) ++ leBytes 2 (topoRank s k) ++ leBytes 2 (topoD s k - 1)
    else List.replicate 6 0)
  let t := match j.target with | some (i, g) => leBytes 2 g.toNat ++ leBytes 2 i.toNat | none => leBytes 2 0 ++ leBytes 2 0xFFFF
  let dirs := (secStarts 1 j.secs).flatMap (fun x =>
    leBytes 4 x.2.1 ++ leBytes 4 x.1 ++ leBytes 8 (64 * ckLines x.2.2))
  padTo 1024 (padTo 256 (padTo 128 (leBytes 4 0x54504B43 ++ leBytes 4 1 ++ leBytes 8 j.bound ++ leBytes 8 q.ckp.cseq
    ++ [BitVec.ofNat 8 p, 0] ++ t ++ [0, 0] ++ padTo 48 j.digest ++ topo) ++ leBytes 8 (ckUnits j.secs)) ++ dirs)

/-- The trailer (R445). -/
def ckTrailer (j : CkJob) : List Byte :=
  padTo 1024 (leBytes 8 0x444E4543 ++ leBytes 8 j.bound ++ padTo 48 (Config.sha384 j.sent))

/-- Unit number of a store slot on the storage endpoint (R446). -/
def ckStoreUnit (p slot u : Nat) : Nat := p * 2 ^ 27 + slot * 2 ^ 26 + u

/-- A unit leaves for its target (R446), and for the twin (R448). -/
def ckSend (p u : Nat) (data : List Byte) (s : State) : State :=
  let q := s.part p
  let slot := q.ckp.cseq % 2
  let s := if ckTgt s = 1 then storageWrite (ckPort s) (ckStream s) (ckStoreUnit p slot u) data s
    else hostStore p q.gen (q.ckp.hbase + slot * q.ckp.hslot * 1024 + 1024 * u) data s
  if q.ckp.mirror && s.twin.sync then sendTwin 0x20 2 p (slot * 2 ^ 26 + u) data s else s

/-- The oldest checkpoint is complete (R442, R447). -/
def ckComplete (p : Nat) (s : State) : State :=
  match (s.part p).ckp.jobs with
  | [] => s
  | j :: _ =>
    let seq := (s.part p).ckp.cseq
    let s := ckDrop p s
    let s := s.modCkp p (fun k =>
      let durs' := (k.durs ++ [s.aon.toNat - j.tick]).drop (k.durs.length - 3)
      { k with cseq := seq + 1, lastB := BitVec.ofNat 64 j.bound, durs := durs', tau := tauOf s durs',
               cms := Nat.min 0xFFFFF (sumL durs' / Nat.max 1 durs'.length / 32000) })
    forEach j.works (fun w s => complete w stDone (ckUnits j.secs) (leBytes 8 seq ++ leBytes 8 j.bound) s) s

/-- Lines of the Checkpoint Engine's 4 MiB staging buffer that are free (R162, R447): a line read ahead of its unit holds one, and a
unit for a storage endpoint holds 16 until it has been acknowledged durable. -/
def ckRoom (s : State) : Nat :=
  65536 - sumL (s.parts.map (fun q => sumL (q.ckp.jobs.map (fun j =>
    j.extra.length + if ckTgt s = 1 then 16 * (j.next - j.acked) else 0))))

/-- May an item of a unit be taken now: captured, read ahead already, a hole, or a line that class C3 may read (R235). -/
def ckServes (p : Nat) (j : CkJob) (s : State) (i : List Byte ⊕ Nat) : Bool :=
  match i with
  | .inl _ => true
  | .inr l => (mget none j.extra l).isSome || (match translate s p l with | some d => c3May s d | none => true)

/-- While a line of the next unit must wait for its stack, the drain reads lines on other stacks into the staging buffer (R235): those
that may go of the first unit that has any, of as many units as the buffer takes. -/
def ckAhead (p : Nat) (j : CkJob) (s : State) : State :=
  let lines (u : Nat) : List Nat := (unitItems j.secs u).filterMap (fun i => match i with
    | .inr l => if (mget none j.extra l).isNone && ckServes p j s i then some l else none
    | .inl _ => none)
  match ((upTo 4096).map (fun i => lines (j.next + i))).find? (fun l => !l.isEmpty) with
  | none => s
  | some ls =>
    let r := (ls.take (ckRoom s)).foldl (fun (acc : State × Map (Option (List Byte × Bool))) l =>
      let x := partRead 3 p l acc.1
      (x.1, mset none acc.2 l (some x.2))) (s, j.extra)
    settleDrain p (r.1.modCkp p (fun k => { k with jobs := { j with extra := r.2 } :: k.jobs.drop 1 }))

/-- The Checkpoint Engine writes the next unit of the oldest checkpoint (R445–R447). The trailer follows only when every
earlier unit has been acknowledged durable; to the host link it is read back. -/
def ckDrain (p : Nat) (s : State) : State :=
  let q := s.part p
  match q.ckp.jobs with
  | [] => s
  | j :: rest =>
    let n := ckUnits j.secs
    let u := j.next
    if !j.captured || decide (n ≤ u) then s
    else if ckTgt s = 1 ∧ portUp s (ckPort s) = false then ckFail p 3 j.works (ckDrop p s)
    else if u + 1 = n ∧ ckTgt s = 1 ∧ j.acked < u then s
    else
      let items := if u = 0 ∨ u + 1 = n then [] else unitItems j.secs u
      let ahead := (items.filter (fun i => match i with | .inr l => (mget none j.extra l).isSome | .inl _ => false)).length
      if !items.all (ckServes p j s) then ckAhead p j s
      else if ckRoom s + ahead < 16 then s
      else
        let r := if u = 0 then (s, ckHeader s p j, false) else if u + 1 = n then (s, ckTrailer j, false)
          else readItems p j items s
        let s := r.1
        if r.2.2 then ckFail p 0 j.works (ckDrop p s)
        else
          let data := padTo 1024 r.2.1
          let extra' := forEach items (fun i m => match i with | .inr l => mset none m l none | .inl _ => m) j.extra
          let s := s.modCkp p (fun k => { k with jobs :=
            { j with next := u + 1, sent := if u + 1 = n then j.sent else j.sent ++ data, extra := extra' } :: rest })
          let s := settleDrain p (ckSend p u data s)
          if u + 1 = n ∧ ckTgt s ≠ 1 then
            hostRead (.trailer p) (q.ckp.hbase + q.ckp.cseq % 2 * q.ckp.hslot * 1024 + 1024 * u) 1024 s
          else s

/-- The line that the oldest held write waits for is read next, ahead of the drain, in class C2, and the write is accepted (R162).
While the staging buffer is full the write goes on waiting. -/
def ckHeldRead (p : Nat) (s : State) : State :=
  let q := s.part p
  match q.seq.lines.find? (fun l => l.write.isSome && drainHolds q l.pline) with
  | none => s
  | some l =>
    if ckRoom s = 0 ∨ !unitMay s 2 p [l.pline] then s else
    let r := partRead 2 p l.pline s
    let s := r.1.modCkp p (fun k => { k with jobs := k.jobs.map (fun j =>
      if ckUnread j l.pline then { j with extra := mset none j.extra l.pline (some (r.2.1, r.2.2)) } else j) })
    writeAccept p ((q.seq.lines.filter (fun x => x.write.isSome)).idxOf l) (settleDrain p s)

/-- A unit of a checkpoint has been acknowledged durable (R446). -/
def ckAck (p : Nat) (s : State) : State :=
  match (s.part p).ckp.jobs with
  | [] => s
  | j :: rest =>
    let s := s.modCkp p (fun k => { k with jobs := { j with acked := j.acked + 1 } :: rest })
    if j.acked + 1 = ckUnits j.secs then ckComplete p s else s

/-- The read of the trailer ends (R446, R447). -/
def ckTrailerRead (p : Nat) (ok : Bool) (s : State) : State :=
  match (s.part p).ckp.jobs with
  | [] => s
  | j :: _ => if ok then ckComplete p s else ckFail p 4 j.works (ckDrop p s)

/-- τ has run out (R441): a wake event too (R415). -/
def ckExpiry (p : Nat) (s : State) : State :=
  let k := (s.part p).ckp
  if ckTgt s ≠ 0 ∧ k.kper = 0 ∧ (s.part p).ctxB.loaded then wakeUp (s.modCkp p (fun k => { k with due := true })) else s

/-- CHECKPOINT_NOW (R441, R447). -/
def ckNow (p : Nat) (w : Work) (s : State) : State :=
  if (s.part p).ctxB.loaded = false ∨ ckTgt s = 0 then refuse w 0xC s
  else
    let s := clampIf (!(s.part p).ckp.nows.isEmpty) p 0xC s
    s.modCkp p (fun k => { k with nows := k.nows ++ [w] })

/-- Context B's program ends (R447): a pending CHECKPOINT_NOW is ABORTED. -/
def ckProgramEnd (p : Nat) (s : State) : State :=
  let s := forEach (s.part p).ckp.nows (fun w s => complete w stAborted 0 [] s) s
  s.modCkp p (fun k => { k with nows := [], due := false })

/-! The restart (R451). -/

/-- Ask for the next part of the store slot being read. -/
def restoreAsk (p : Nat) (s : State) : State :=
  let k := (s.part p).ckp
  match k.restore with
  | none => s
  | some r =>
    let units := if r.got.length < 1024 then 1 else leNat ((r.got.drop 128).take 8)
    let u := r.got.length / 1024
    if ckTgt s = 1 then storageRead (.restore p) (ckPort s) (ckStream s) (ckStoreUnit p r.slot u) (Nat.min 4 (units - u)) 0 s
    else hostRead (.restore p) (k.hbase + r.slot * k.hslot * 1024 + 1024 * u) (Nat.min 4096 (1024 * (units - u))) s

/-- The header and trailer of a slot name the wanted boundary, and its digest verifies (R451 step 1). -/
def restoreHeadOk (k : Ckp) (b : List Byte) : Bool :=
  leNat (b.take 4) == 0x54504B43 && leNat ((b.drop 4).take 4) == 1 && leNat ((b.drop 8).take 8) == k.restoreBound
def restoreBodyOk (k : Ckp) (b : List Byte) : Bool :=
  let n := leNat ((b.drop 128).take 8)
  let t := b.drop (1024 * (n - 1))
  leNat (t.take 4) == 0x444E4543 && leNat ((t.drop 8).take 8) == k.restoreBound
    && padTo 48 (Config.sha384 (b.take (1024 * (n - 1)))) == (t.drop 16).take 48

/-- R451 step 2. -/
def restoreFits (s : State) (p : Nat) (b : List Byte) : Bool :=
  let q := s.part p
  let t := match q.ctxB.target with | some (i, g) => leBytes 2 g.toNat ++ leBytes 2 i.toNat | none => leBytes 2 0 ++ leBytes 2 0xFFFF
  let tg := (b.drop 26).take 4
  padTo 48 q.ctxB.digest == (b.drop 32).take 48 &&
    (upTo 8).all (fun k => ((b.drop (80 + 6 * k)).take 6) ==
      (if topoKind s k ≠ 0 ∧ topoOwner s k = p then leBytes 2 (topoJob s k) ++ leBytes 2 (topoRank s k) ++ leBytes 2 (topoD s k - 1)
       else List.replicate 6 0)) &&
    (tg == t || (q.ctxB.target.isNone && (tg.drop 2) == leBytes 2 0xFFFF))

/-- Section of a kind, from the directory. -/
def restoreSec (b : List Byte) (kind : Nat) : Option (List Byte) :=
  ((upTo 7).map (fun i => b.drop (256 + 16 * i))).findSome? (fun d =>
    if (nth 0 d 0).toNat = kind then
      let n := leNat ((d.drop 8).take 8)
      let x := (b.drop (1024 * leNat ((d.drop 4).take 4))).take n
      if x.length = n then some x else none
    else none)

def parseRanges : Nat → List Nat → List (Nat × Nat) × List Nat
  | 0, w => ([], w)
  | n + 1, a :: b :: w => let r := parseRanges n w; ((a, b) :: r.1, r.2)
  | _ + 1, w => ([], w)

def parseLedger : List Nat → Option Ledger × List Nat
  | 1 :: tag :: step :: age :: rdy :: n :: w =>
    let r := parseRanges n w
    (some ⟨BitVec.ofNat 16 tag, BitVec.ofNat 16 step, age, rdy == 1, r.1, [], r.2.take 8, []⟩, r.2.drop 8)
  | _ :: w => (none, w)
  | [] => (none, [])

/-- Write back section 6. -/
def restoreSlots (base : Nat) : Nat → Nat → List Nat → State → State
  | 0, _, _, s => s
  | n + 1, i, w, s =>
    match w with
    | [] => s
    | st :: w =>
      let a := parseLedger w
      let b := parseLedger a.2
      restoreSlots base n (i + 1) b.2 (s.modBucket (base + i) (fun x => { x with
        step := BitVec.ofNat 16 st
        ledgers := mset none (mset none x.ledgers 0 a.1) 1 b.1 }))

/-- Write back section 7: the state, the ring's counts and its lines. -/
def restoreSiu (p : Nat) (b : List Byte) (s : State) : State :=
  let w := toWords b
  let n := nth 0 w
  let old := (s.part p).siu
  let u : Siu := { siu0 with
    live := n 0 == 1, cfg := (w.drop 1).take 4, seed := BitVec.ofNat 64 (n 5), k := n 6, wbase := n 7, whalf := n 8, obase := n 9,
    oring := n 10, kept := n 11, rposW := n 12, nexti := n 13, foff := n 14, skip := n 15, prod := n 16, cons := n 17,
    dicts := old.dicts, waits := n 0 == 1 }
  let s := s.modPart p (fun q => { q with siu := u })
  if u.live then
    let s := partWrite p u.obase (padTo 64 (leBytes 8 u.prod)) false s
    let s := partWrite p (u.obase + 1) (padTo 64 (leBytes 8 u.cons)) false s
    let data := b.drop (64 * cdiv (8 * 18) 64)
    forEach (upTo (u.prod - u.cons)) (fun i s =>
      partWrite p (u.obase + 2 + (u.cons + i) % Nat.max 1 u.oring) (padTo 64 ((data.drop (64 * i)).take 64)) false s) s
  else s

/-- Write a section's lines back to consecutive ranges. -/
def restoreLines (p : Nat) : List (Nat × Nat) → List Byte → State → State
  | [], _, s => s
  | (f, n) :: r, b, s => restoreLines p r (b.drop (64 * n)) (partWriteN p f (b.take (64 * n)) s)

/-- Write back section 2: registers, CUR = 0, masks as an RWR would, and flags. -/
def restoreUnits (p : Nat) (b : List Byte) (s : State) : State :=
  let w := toWords b
  let n := unitRegs.length
  let s := s.modPart p (fun q =>
    let q := forEach (unitRegs.zip w) (fun e q => q.setReg e.1 e.2) q
    forEach (upTo 8) (fun k q => (q.setCur k false).setDrain k false) q)
  let q := s.part p
  forEach q.tiles.zipIdx (fun e s => s.modTile e.1 (fun t =>
    let f := nth 0 (w.drop (n + 2 + 6 * e.2))
    let masks' := forEach (upTo 7) (fun k m => mset 0 m (k + 1) (q.maskReg (k + 1))) t.vec.masks
    { t with
      arrStat := forEach (upTo 4) (fun a m => mset 0 m a (BitVec.ofNat 32 (f a))) t.arrStat
      vec := { t.vec with stat := BitVec.ofNat 4 (f 4), masks := masks' }
      updStat := BitVec.ofNat 4 (f 5) })) s

/-- Load section 1 into context B (R451 step 4); the plane records are void (R449). -/
def restoreControl (p : Nat) (b : List Byte) (s : State) : State :=
  let w := toWords b
  let n := nth 0 w
  s.modPart p (fun q =>
    let sregs' := forEach (upTo 64) (fun r m => mset 0 m r (BitVec.ofNat 64 (n (1 + r)))) ([] : Map DWord)
    let o := 84 + seqRegs.length
    let q := forEach (seqRegs.zip (w.drop 84)) (fun e q => q.setReg e.1 e.2) q
    { q with
      ctxB := { q.ctxB with
        pc := n 0, sregs := sregs', stack := ((w.drop 66).take 16).take (n 65),
        ptpol := BitVec.ofNat 3 (n 82), ractl := BitVec.ofNat 15 (n 83), recA := [], recS := [] }
      cvu := { alg := BitVec.ofNat 2 (n o), halt := bit (n o) 4, val := BitVec.ofNat 64 (n (o + 1)), exp := BitVec.ofNat 64 (n (o + 2)),
               stat := BitVec.ofNat 2 (n (o + 3)), queue := [] } })

/-- Steps 3 and 4 of R451. A section that is missing or does not fit the restored registers or the plan halts the
partition. -/
def restoreWrite (p : Nat) (b : List Byte) (s : State) : State :=
  let bad (s : State) : State :=
    partFault p 9 0x34 (s.part p).ckp.cseq (s.modCkp p (fun k => { k with restore := none }))
  match restoreSec b 1, restoreSec b 2, restoreSec b 3, restoreSec b 4, restoreSec b 5, restoreSec b 6, restoreSec b 7 with
  | some s1, some s2, some s3, some s4, some s5, some s6, some s7 =>
    let s := restoreUnits p s2 s
    match readPlan p s with
    | (.error _, s) => bad s
    | (.ok (cap, mems, sps), s) =>
      let q := s.part p
      let bufs := ((upTo 8).filter (fun i => q.sbufLen i != 0)).map (fun i => (q.sbufBase i false, q.sbufLen i))
      let mem := mems.map (fun m => let c := windowClamp s p m.1 m.2; (c.1, c.2.1))
      let per := sumL (sps.map (·.2))
      let capR := writeClamp s p cap (per * q.tiles.length)
      let s := clampIf capR.2.2 p 6 (forEach mems (fun m s => clampIf (writeClamp s p m.1 m.2).2.2 p 6 s) s)
      if s3.length ≠ 64 * sumL (bufs.map (·.2)) ∨ s4.length ≠ 64 * sumL (mem.map (·.2)) ∨ s5.length ≠ 64 * capR.2.1 then bad s
      else
        let s := restoreLines p bufs s3 s
        let s := restoreLines p mem s4 s
        let s := partWriteN p capR.1 s5 s
        let s := forEach q.tiles.zipIdx (fun e s =>
          let mine := (s5.drop (64 * per * e.2)).take (64 * per)
          (sps.foldl (fun (acc : State × List Byte) r =>
            (forEach (upTo r.2) (fun i s => writeTile p 0 .scratch e.1 (64 * spLine (r.1 + i))
              (((acc.2.drop (64 * i)).take 64).map (fun x => (true, x))) 2 false s) acc.1, acc.2.drop (64 * r.2))) (s, mine)).1) s
        let s := restoreSlots (slotBase s p) (slotCount s p) 0 (toWords s6) s
        let s := restoreSiu p s7 s
        let s := restoreControl p s1 s
        s.modPart p (fun q => { q with
          ctxB := { q.ctxB with loaded := true }
          ckp := { q.ckp with restore := none, bound := q.ckp.restoreBound, since := s.aon.toNat,
                              cfg := q.ckp.cfg.set 3 (BitVec.ofNat 64 (q.ckp.word 3 / 2 * 2)) } })
  | _, _, _, _, _, _, _ => bad s

/-- The restore fails in step 1 or 2: the PROGRAM_RUN completes ABORTED and nothing starts. -/
def restoreAbort (p : Nat) (s : State) : State :=
  let c := (s.part p).ctxB
  let s := s.modPart p (fun q => { q with ctxB := { q.ctxB with head := none, loaded := false }, ckp := { q.ckp with restore := none } })
  let s := trainEnd c.target s
  match c.head with
  | some w => complete w stAborted 0 [] s
  | none => s

/-- The next store slot, or the end of the search. -/
def restoreNext (p slot : Nat) (s : State) : State :=
  if slot = 0 then restoreAsk p (s.modCkp p (fun k => { k with restore := some ⟨1, []⟩ })) else restoreAbort p s

/-- Bytes of the store arrive. -/
def restoreBytes (p : Nat) (bs : List Byte) (pois : Bool) (s : State) : State :=
  let k := (s.part p).ckp
  match k.restore with
  | none => s
  | some r =>
    let b := r.got ++ bs
    let n := leNat ((b.drop 128).take 8)
    if pois || !restoreHeadOk k b || decide (n < 2) then restoreNext p r.slot s
    else if b.length < 1024 * n then restoreAsk p (s.modCkp p (fun k => { k with restore := some { r with got := b } }))
    else if restoreBodyOk k b then (if restoreFits s p b then restoreWrite p b s else restoreAbort p s)
    else restoreNext p r.slot s

/-- Context B starts with EN = 1: the search begins (R451). -/
def restoreBegin (p : Nat) (s : State) : State :=
  let s := s.modCkp p (fun k => { k with restore := some ⟨0, []⟩ })
  if ckTgt s = 0 then restoreAbort p s else restoreAsk p s

def execCheckpointCaptureEnd (p : PartId) (s : State) : Res := .next (captureEnd p.toNat s)
def execCheckpointUnitDrain (p : PartId) (s : State) : Res := .next (ckDrain p.toNat s)
def execCheckpointHeldLineRead (p : PartId) (s : State) : Res := .next (ckHeldRead p.toNat s)
def execCheckpointIntervalExpiry (p : PartId) (s : State) : Res := .next (ckExpiry p.toNat s)
def execCheckpointNow (p : PartId) (h : EntryHead) (s : State) : Res := .next (startEntry p.toNat h 0x07 anyBody (ckNow p.toNat) s)

end Sys2Proof.Machine
end

