-- ==== Sys2Proof/Machine/Program.lean ====
section
/-!
DEFINITION. Programs: PROGRAM_RUN, the start and the end of a program (R364–R366), the instruction memories (R97), the shape
record (R323), and planes rebuilt from their records (R131).
-/

namespace Sys2Proof.Machine

/-- Bundles of a granule's instruction memory (R97). -/
def granBundles : Nat := 16384

/-- The 128 bytes at a bundle index of the partition's instruction space (R97). -/
def bundleBytes (s : State) (p i : Nat) : List Byte :=
  match (s.part p).grans[i / granBundles]? with
  | none => List.replicate 128 0
  | some g => rdBytes (nth [] s.imem g) (128 * (i % granBundles)) 128

/-- Write one bundle. -/
def writeBundle (p i : Nat) (bs : List Byte) (s : State) : State :=
  match (s.part p).grans[i / granBundles]? with
  | none => s
  | some g => s.modImem g (fun m => wrBytes m (128 * (i % granBundles)) bs)

/-- Write bundles from an index. -/
def writeBundles (p i : Nat) (bs : List Byte) (s : State) : State :=
  (upTo (bs.length / 128)).foldl (fun s k => writeBundle p (i + k) ((bs.drop (128 * k)).take 128) s) s

/-- Bundles of the partition's instruction space. -/
def Part.space (q : Part) : Nat := q.grans.length * granBundles

/-- Fields of a program header (R365). -/
def hdrNum (h : List Byte) (off n : Nat) : Nat := leNat ((h.drop off).take n)
def hdrNbund (h : List Byte) : Nat := hdrNum h 8 4
def hdrRsz (h : List Byte) : Bool := hdrNum h 12 1 % 2 == 1
def hdrShape (h : List Byte) : Nat := hdrNum h 16 4 % 2 ^ 17
def hdrDlvl (h : List Byte) : Nat := hdrNum h 20 4 % 2 ^ 17
def hdrDlvn (h : List Byte) : Nat := clampNat 1 256 (hdrNum h 24 2)
def hdrInl (h : List Byte) : Nat := hdrNum h 28 4 % 2 ^ 17
def hdrInsz (h : List Byte) : Nat := Nat.min 1024 (hdrNum h 32 4)
def hdrStage (h : List Byte) : List Byte := (h.drop 48).take 16
def hdrDigest (h : List Byte) : List Byte := (h.drop 64).take 48

/-- The shape record of one tile (R323). -/
def shapeBytes (s : State) (p t : Nat) : List Byte :=
  let q := s.part p
  padTo 64 (leBytes 4 q.granules.toNat ++ [BitVec.ofNat 8 q.tiles.length, BitVec.ofNat 8 (nth 0 q.grans 0)] ++ leBytes 2 q.resizesRst.toNat
    ++ leBytes 2 (q.rank t) ++ leBytes 2 (privateSlabs s p).length ++ leBytes 4 (windowEnd s p / 2 ^ 23))

/-- The shape record is written to every tile at a line. -/
def writeShape (p line : Nat) (s : State) : State :=
  forEach (s.part p).tiles (fun t s => writeLines p t line (shapeBytes s p t) 2 s) s

/-- The shape record of every program of p that has not ended. -/
def writeShapes (p : Nat) (s : State) : State :=
  let q := s.part p
  let s := if q.ctxF.loaded then writeShape p (hdrShape q.ctxF.hdr) s else s
  if q.ctxB.loaded then writeShape p (hdrShape q.ctxB.hdr) s else s

/-- A plane rebuilt by replaying its record (R131). -/
def replayPlane (q : Part) (r : LoadRec) (tl : Tile) (pl : Plane) : Plane :=
  let pl := (upTo 64).foldl (fun pl i => planeLine q r i tl pl) pl
  if fmtMx r.sl.fmt.toNat then planeScales r tl pl else pl

/-- The planes of a context are rebuilt from its records, for the arrays named. -/
def replayPlanes (p : Nat) (b : Bool) (as : List Nat) (s : State) : State :=
  let q := s.part p
  let c := if b then q.ctxB else q.ctxF
  forEach q.tiles (fun t s => s.modTile t (fun tl => forEach as (fun a tl =>
    let tl := match c.recA.find? (fun e => e.1 == a) with
      | some e => { tl with active := mmod plane0 tl.active a (replayPlane q e.2 tl) }
      | none => tl
    match c.recS.find? (fun e => e.1 == a) with
      | some e => { tl with shadow := mmod plane0 tl.shadow a (replayPlane q e.2 tl) }
      | none => tl) tl)) s

/-- T_plane for restoring a context's planes (R132, R136). -/
def Ctx.tPlane (c : Ctx) : Nat :=
  if c.recA.any (fun e => fmtWide e.2.sl.fmt.toNat) then 322
  else if c.recA ≠ [] then 195
  else if c.recS ≠ [] then 64 else 0

/-- Ask for the next part of a program image. -/
def runAsk (p : Nat) (j : RunJob) (s : State) : State :=
  let have_ := j.got.length
  let want := if have_ < 256 then 256 else 256 + 128 * hdrNbund j.got
  if want ≤ have_ then s else hostRead (.run p j.body.ctxB) (j.body.srca.toNat + have_) (want - have_) s

def setRun (p : Nat) (j : RunJob) (s : State) : State :=
  s.modPart p (fun q => { q with runs := q.runs.map (fun x => if x.body.ctxB = j.body.ctxB then j else x) })
def dropRun (p : Nat) (j : RunJob) (s : State) : State :=
  s.modPart p (fun q => { q with runs := q.runs.filter (fun x => x.body.ctxB != j.body.ctxB) })

/-- Does a header refuse its PROGRAM_RUN (R365, R366). -/
def runRefused (q : Part) (b : RunBody) (h : List Byte) : Bool :=
  let lo := b.idx.toNat
  let hi := lo + hdrNbund h
  let other := if b.ctxB then q.ctxF else q.ctxB
  hdrNum h 0 4 != 0x4D475250 || hdrNum h 4 4 != 1 || hdrNbund h == 0 || decide (q.space < hi) ||
    (other.loaded && decide (lo < other.hi) && decide (other.lo < hi))

/-- The image is complete (R366): its bundles are copied and its digest is compared. -/
def runCopied (p : Nat) (j : RunJob) (s : State) : State :=
  let h := j.got.take 256
  let bundles := (j.got.drop 256).take (128 * hdrNbund h)
  let s := writeBundles p j.body.idx.toNat bundles s
  let dig := padTo 48 (Config.sha384 bundles)
  if j.pois then complete j.work stPoison 0 [] (dropRun p j s)
  else if (hdrDigest h).all (fun b => b == 0) || hdrDigest h == dig then setRun p { j with ok := true } s
  else complete j.work stDigest 0 [] (dropRun p j s)

/-- More of the image has been read. -/
def runBytes (p : Nat) (b : Bool) (bs : List Byte) (pois : Bool) (s : State) : State :=
  match (s.part p).runs.find? (fun j => j.body.ctxB == b) with
  | none => s
  | some j =>
    let first := decide (j.got.length < 256)
    let j := { j with got := j.got ++ bs, pois := j.pois || pois }
    if first && pois then complete j.work stPoison 0 [] (dropRun p j s)
    else if first && runRefused (s.part p) j.body (j.got.take 256) then refuse j.work 0xA (dropRun p j s)
    else
      let s := setRun p j s
      if 256 + 128 * hdrNbund j.got ≤ j.got.length then runCopied p j s else runAsk p j s

/-- An image in partition memory (R366): its header, then its bundles. -/
def runLocal (p : Nat) (j : RunJob) (s : State) : State :=
  let line := j.body.srca.toNat % 2 ^ 34
  let c := readClamp s p line 4
  let r := partReadN 1 p c.1 c.2.1 (clampIf c.2.2 p 6 s)
  let h := padTo 256 r.2.1
  let s := runBytes p j.body.ctxB h r.2.2 r.1
  if (s.part p).runs.any (fun x => x.body.ctxB == j.body.ctxB) then
    let n := 2 * hdrNbund h
    let c := readClamp s p (line + 4) n
    let r := partReadN 1 p c.1 c.2.1 (clampIf c.2.2 p 6 s)
    runBytes p j.body.ctxB (padTo (128 * hdrNbund h) r.2.1) r.2.2 r.1
  else s

/-- PROGRAM_RUN (R366, R454, R458). A training target outside the partition's range refuses it (R181). -/
def programRun (p : Nat) (w : Work) (b : RunBody) (s : State) : State :=
  let q := s.part p
  let c := if b.ctxB then q.ctxB else q.ctxF
  if (!b.ctxB && standbyRefuses s p) || c.loaded || q.runs.any (fun j => j.body.ctxB == b.ctxB) || (b.ctxB && q.ckp.restore.isSome) then
    refuse w 0xA s
  else if b.ctxB && b.tgtv && !inRangeOf s p b.target.toNat then refuse w 8 s
  else
    let j : RunJob := ⟨w, b, [], false, false⟩
    let s := s.modPart p (fun q => { q with runs := q.runs ++ [j] })
    if b.srcPart then runLocal p j s else runAsk p j s

/-- Clamps of the staging record at the program's start (R200). -/
def srecClamps (r : List Byte) : Nat :=
  b2n (sBits r 19 4 == 0) + b2n (sBits r 23 8 == 0) + b2n (sBits r 48 8 == 0) + b2n (sBits r 17 1 == 1 && srecLen r == 0)

/-- Clamps of the delivery fields of a header (R365). -/
def hdrClamps (h : List Byte) : Nat :=
  let n := hdrNum h 24 2
  b2n (n == 0 || decide (256 < n)) + b2n (decide (1024 < hdrNum h 32 4))

/-- The program image of context F goes to the twin (R457): in records of 960 bytes behind IDX, OFFSET counting them. -/
def mirrorProgram (p idx : Nat) (image : List Byte) (s : State) : State :=
  if mirrors s p then
    forEach (upTo (cdiv image.length 960)) (fun i s => sendTwin 0x13 1 p i (leBytes 8 idx ++ (image.drop (960 * i)).take 960) s) s
  else s

/-- The context a program starts with (R366). -/
def startCtx (j : RunJob) (target : Option (FillId × Half)) : Ctx :=
  let h := j.got.take 256
  let bundles := (j.got.drop 256).take (128 * hdrNbund h)
  { ctx0 with
    loaded := true, pc := j.body.idx.toNat, lo := j.body.idx.toNat, hi := j.body.idx.toNat + hdrNbund h, idx := j.body.idx.toNat,
    head := some j.work, target := target, hdr := h, digest := padTo 48 (Config.sha384 bundles) }

/-- Context F starts (R366, R200): delivery ring and staging record of its header. A B that issues, or to which the Sequencer is
switching, is to be preempted (R137). -/
def startF (p : Nat) (c : Ctx) (s : State) : State :=
  let h := c.hdr
  let s := forEach (upTo (hdrClamps h)) (fun _ s => clamp p 0xA s) s
  let s := forEach (upTo (srecClamps (hdrStage h))) (fun _ s => clamp p 8 s) s
  let s := s.modPart p (fun q => { q with
    ctxF := c
    dlvLine := hdrDlvl h, dlvCount := hdrDlvn h, dlvNext := 0
    fill := { fillPart0 with srec := hdrStage h } })
  let toB := match (s.seq p).switch with | some w => w.toB | none => false
  if ((s.seq p).ctxB || toB) && (s.part p).ctxB.loaded then s.modSeq p (fun q => { q with preempt := true })
  else (leavePlanes p s).modSeq p (fun q => { q with ctxB := false })

/-- Context B starts (R366, R441): it issues at once when F holds no program (R136); LOADs of F's last program that are still
on their way end with its planes. -/
def startB (p : Nat) (c : Ctx) (s : State) : State :=
  let s := s.modPart p (fun q => { q with
    ctxB := c, ckp := { q.ckp with bound := 0, due := false, since := s.aon.toNat } })
  if (s.part p).ctxF.loaded then s else (leavePlanes p s).modSeq p (fun q => { q with ctxB := true })

/-- From a partition's start on, a HALT of its jobs is the first again (R309). -/
def jobsStart (p : Nat) (s : State) : State :=
  s.modPcl (fun x => { x with
    halted := x.halted.filter (fun h => !((toposOf s p).any (fun k => BitVec.ofNat 16 (topoJob s k) == h))) })

/-- PROGRAM_START (R366): the shape record, then the context at bundle IDX. Context B with CKP_CFG_p_3.EN = 1 restores
first (R451). -/
def programStart (p : Nat) (b : Bool) (s : State) : State :=
  match (s.part p).runs.find? (fun j => j.body.ctxB == b && j.ok) with
  | none => s
  | some j =>
    if !(s.part p).live then s else
    let s := jobsStart p (dropRun p j s)
    let s := writeShape p (hdrShape j.got) s
    if b then
      let r := if j.body.tgtv then trainBegin p j.body.target.toNat s else (none, s)
      let c := startCtx j r.1
      if (r.2.part p).ckp.restores then
        let s := startB p { c with loaded := false } r.2
        restoreBegin p s
      else startB p c r.2
    else
      mirrorProgram p j.body.idx.toNat (j.got.take (256 + 128 * hdrNbund j.got)) (startF p (startCtx j none) s)

/-- The issuing context's program ends (R100, R366): its PROGRAM_RUN completes DONE with the bundles issued. Training ends
(R210), a pending CHECKPOINT_NOW is aborted (R447). When context B has ended and F holds a program, the Sequencer returns to
F (log entry 24). -/
def endProgram (p : Nat) (s : State) : State :=
  let q := s.part p
  let b := q.seq.ctxB
  let c := q.ctx
  if !c.loaded then s else
  let s := s.modCtx p b (fun c => { c with loaded := false, head := none })
  let s := match c.head with
    | some w => complete w stDone 0 (leBytes 8 c.nissued) s
    | none => s
  if b then
    let s := ckProgramEnd p (trainEnd c.target s)
    if (s.part p).ctxF.loaded then
      let cost := 24 + (s.part p).ctxF.tPlane
      (leavePlanes p s).modSeq p (fun q => { q with
        preempt := false, switch := some ⟨false, q.cyc + cost⟩, undoCyc := q.undoCyc + BitVec.ofNat 48 cost })
    else s.modSeq p (fun q => { q with preempt := false })
  else s

/-- May the lines of an image in partition memory be read in class C1 (R225): the header's, and the bundles' that it counts. -/
def runMay (p : Nat) (b : RunBody) (s : State) : Bool :=
  let line := b.srca.toNat % 2 ^ 34
  let lines (c : Nat × Nat × Bool) : List Nat := (upTo c.2.1).map (c.1 + ·)
  let c := readClamp s p line 4
  unitMay s 1 p (lines c) &&
    unitMay s 1 p (lines (readClamp s p (line + 4) (2 * hdrNbund (padTo 256 (partReadN 1 p c.1 c.2.1 s).2.1))))

/-- PROGRAM_RUN: an image in partition memory is read when its lines get their slots (R225, R237). -/
def execProgramRun (p : PartId) (h : EntryHead) (b : RunBody) (s : State) : Res :=
  .next (if b.srcPart && !runMay p.toNat b s then s else startEntry p.toNat h 0x01 (fun bs => runBody bs == b) (fun w s => programRun p.toNat w b s) s)
def execProgramStart (p : PartId) (b : Bool) (s : State) : Res := .next (programStart p.toNat b s)

end Sys2Proof.Machine
end

