-- ==== Sys2Proof/Machine/Link.lean ====
section
/-!
DEFINITION. The collective link up to the frame (R275–R286, R309, R316, R423, R424): bring-up, credits, acknowledgement
and replay, the check that a received frame passes, the VC reset exchange, HALT, wake tolerance and low-power idle.
-/

namespace Sys2Proof.Machine

/-- Credit share of a VC in flits (R280, R281, R455). -/
def vcShare (s : State) (q v : Nat) : Nat :=
  if q = 6 then 1024 * [32, 64, 32].getD v 0
  else
    let w := (mget 0 s.pcl.vcImg (2 * q + v / 4)).toNat
    if bit w (16 * (v % 4) + 5) then 1024 * Nat.min 128 (fld w (16 * (v % 4) + 8) 8) else 0

/-- The partition that the image grants a VC to (R280). -/
def vcOwner (s : State) (q v : Nat) : Option Nat :=
  let w := (mget 0 s.pcl.vcImg (2 * q + v / 4)).toNat
  if q < 6 ∧ bit w (16 * (v % 4) + 5) then some (fld w (16 * (v % 4)) 5) else none

/-- Send all that may go on every VC of a port. -/
def portPump (q : Nat) (s : State) : State := forEach (upTo 8) (fun v s => vcPump q v ((s.port q).vc v).queue.length s) s

/-- A frame or flit reaches a port: a collective port wakes, and with it the device (R415, R424). -/
def rxWake (q : Nat) (s : State) : State :=
  if q < 6 then wakeUp (if (s.port q).lpi then portPump q (portAwake q s) else s) else s

/-- Flits whose credit is due on a VC (R281). -/
def creditBack (q v n : Nat) (s : State) : State := s.modVc q v (fun x => { x with owed := x.owed + n })

/-- Flits of a frame, head included. -/
def frameFlits (f : Frame) : Nat := 1 + f.nflit.toNat

def creditFrame (q : Nat) (f : Frame) (s : State) : State := creditBack q f.vc.toNat (frameFlits f) s

/-- A CREDIT flit for a VC: credits due, the last SEQ received in order, and NAK, which every later one repeats until the frame it
asks for has come (R279–R282). -/
def creditFlit (q v : Nat) (s : State) : State :=
  let x := (s.port q).vc v
  if (s.port q).state.toNat < 2 then s
  else
    let n := Nat.min 4095 x.owed
    (sendFlit q tCredit (creditBits v (b2n x.nak) n (x.expect - 1).toNat) s).modVc q v (fun x => { x with owed := x.owed - n })

/-- A frame that fails its check, or follows one: discarded, NAK is sent (R282). -/
def nakVc (q v : Nat) (s : State) : State := creditFlit q v (s.modVc q v (fun x => { x with nak := true }))

/-- Partitions whose jobs run on a port: their owner holds a program in context B and is not halted (R285, R441). -/
def jobsAt (s : State) (q : Nat) : List Nat :=
  let ks := (upTo 8).filter (fun k => topoKind s k != 0 && (topoPorts s k).contains q)
  ((ks.map (topoOwner s)).filter (fun p => (s.part p).live && (s.part p).ctxB.loaded)).eraseDups

/-- A port goes DOWN and trains again (R285): a Partition-fatal fault of each partition whose job used it. -/
def loseP (q : Nat) (s : State) : State :=
  if (s.port q).state.toNat < 2 then s
  else
    let ps := jobsAt s q
    forEach ps (fun p s => partFault p 6 0x31 q s) (downPort q true s)

/-- Is a SEQ covered by an ACK, modulo 2^16 (R282). -/
def seqCovered (ack seq : Half) : Bool := decide ((ack - seq).toNat < 32768)

/-- A frame is sent again, with the credits due now (R281, R282). -/
def sendAgain (q v : Nat) (e : Nat × Frame) (s : State) : State :=
  (emit (.frame q e.1 (closeFrame e.1 e.2.seq ((s.port q).vc v) e.2)) s).modVc q v (fun x => { x with owed := x.owed - 4095 })

/-- Replay a VC from its oldest frame that is not acknowledged (R282); at the 16th time in succession the port goes DOWN
(R285). A VC in a VCRESET exchange, or of a partition under a Glaze, sends nothing (R286, R312). -/
def replay (q v : Nat) (s : State) : State :=
  let x := (s.port q).vc v
  if x.sent = [] ∨ x.rst ∨ vcGlazed s q v then s
  else
    let s := s.modPort q (fun p => { p with replays := Nat.min 0xFFFF (p.replays + 1) })
    let s := s.modVc q v (fun x => { x with again := x.again + 1 })
    let s := forEach x.sent (sendAgain q v) s
    if 16 ≤ x.again + 1 then loseP q s else s

/-- The slot whose SEND's last frame the first link has acknowledged (R310). -/
def sendAcked (e : Nat × Frame) (s : State) : State :=
  if e.1 ≠ tSend ∨ !e.2.last ∨ e.2.src ≠ s.pcl.id then s
  else forEach (s.pcl.buckets.map (·.1)) (fun n s => s.modBucket n (fun b =>
    if b.opened && b.contrib && fld (nth 0 b.desc 0) 0 2 == 0 && b.tag == e.2.tag && b.step == e.2.step
      && topoJob s (fld (nth 0 b.desc 0) 2 3) == e.2.job.toNat then { b with acked := true } else b)) s

/-- Credits, ACK and NAK for a VC arrive (R281, R282). -/
def creditTake (q v n : Nat) (ack : Half) (nak : Bool) (s : State) : State :=
  let x := (s.port q).vc v
  let rest := x.sent.filter (fun e => !seqCovered ack e.2.seq)
  let s := s.modVc q v (fun x => { x with
    credits := x.credits + n, sent := rest, again := if rest.length < x.sent.length then 0 else x.again })
  let s := forEach (x.sent.filter (fun e => seqCovered ack e.2.seq)) sendAcked s
  let s := if nak then replay q v s else s
  vcPump q v ((s.port q).vc v).queue.length s

/-- Does a received frame pass its check (R278). -/
def fcrcOk (typ : Nat) (f : Frame) : Bool :=
  f.fecOk && decide (f.nflit.toNat ≤ 32) && f.payload.length == 32 * f.nflit.toNat
    && f.fcrc.toNat == closeFrame.crc32cOf (headBytes typ f ++ f.payload)

/-- A discarded frame of another job (R286). -/
def badJob (q : Nat) (s : State) : State := s.modPort q (fun x => { x with badjob := Nat.min 0xFFFF (x.badjob + 1) })

/-- Does a frame belong on its port: collective traffic to the job of its VC's topology, storage frames on a storage port,
TWIN on TP (R286, R311). -/
def frameHome (s : State) (q typ : Nat) (f : Frame) : Bool :=
  if typ = tTwin then q == 6
  else if inRange tSwr tSrsp typ then decide (q < 6) && roleOf s q == 2
  else match topoAt s q f.vc.toNat with
    | some k => decide (q < 6) && topoJob s k == f.job.toNat
    | none => false

/-- A frame arrives (R278, R281, R282, R286, R312). The flag says that it passed its check, in order, and is to be acted on;
its credits are then the handler's to return. -/
def rxAccept (q typ : Nat) (f : Frame) (s : State) : State × Bool :=
  let v := f.vc.toNat
  if !portUp s q then (s, false) else
  let s := rxWake q s
  if !fcrcOk typ f then (nakVc q v s, false) else
  let s := if f.cval then creditTake q f.cvc.toNat f.ccnt.toNat f.ack f.nak s else s
  let x := (s.port q).vc v
  if !portUp s q then (s, false)
  else if x.rst then (creditFrame q f s, false)
  else if f.seq ≠ x.expect then ((if seqCovered (x.expect - 1) f.seq then s else nakVc q v s), false)
  else
    let s := s.modVc q v (fun x => { x with expect := x.expect + 1, nak := false })
    if !frameHome s q typ f then (creditFrame q f (badJob q s), false)
    else if vcGlazed s q v then (creditFrame q f s, false)
    else (s, true)

/-- PMD training ends and the FEC aligns (R284): HELLO goes out. A port in role 0 is not used; in Device-fatal state only TP
comes up (R432). -/
def bringUp (q : Nat) (s : State) : State :=
  if 7 ≤ q ∨ roleOf s q = 0 ∨ 2 ≤ (s.port q).state.toNat ∨ (s.mdl.fatal ∧ q < 6) then s
  else sendFlit q tLink (helloBits s.pcl.id.toNat q (roleOf s q)) (s.modPort q (fun x => { x with state := 2 }))

/-- HELLO (R284): the peer's role must complement this port's, or the port stays DOWN; then ECHO and WAKETOL follow. -/
def hello (q id role tol : Nat) (s : State) : State :=
  if (s.port q).state ≠ 2 then s
  else if role ≠ roleOf s q then downPort q false s
  else
    let s := s.modPort q (fun x => { x with peer := BitVec.ofNat 24 id, echoAt := some s.aon.toNat })
    let s := sendFlit q tLink (echoBits 0 s.aon.toNat) s
    if q < 6 then sendFlit q tLink (waketolBits tol) s else s

/-- A VC whose two ends have exchanged VCRESET starts afresh; what waits to be sent belongs to the restarted job (R286). -/
def vcSettle (q v : Nat) (s : State) : State :=
  let x := (s.port q).vc v
  if x.rst && x.rstSent && x.rstGot then
    vcPump q v x.queue.length (s.modVc q v (fun x => { vc0 with credits := x.credits, owed := x.owed, queue := x.queue }))
  else s

/-- This end's partition has been reset: VCRESET goes out for a VC, or waits until the port is UP again (R286). -/
def sendVcReset (q v job : Nat) (s : State) : State :=
  if (s.port q).state.toNat < 2 then s.modVc q v (fun x => { x with rst := true, rstDue := true })
  else vcSettle q v ((sendFlit q tLink (vcresetBits v job) s).modVc q v (fun x => { x with rst := true, rstSent := true, rstDue := false }))

/-- The VCRESET that waited on a VC while its port was DOWN. -/
def lateVcReset (q v : Nat) (s : State) : State :=
  match topoAt s q v with
  | some k => if ((s.port q).vc v).rstDue then sendVcReset q v (topoJob s k) s else s
  | none => s

/-- ECHO-REPLY (R284): t_rtt in this device's own ticks, then credits and SEQ start (R281), and what waited for the port leaves. -/
def echoReply (q stamp : Nat) (s : State) : State :=
  match (s.port q).echoAt with
  | none => s
  | some t =>
    if (s.port q).state ≠ 2 ∨ stamp ≠ t % 2 ^ 32 then s
    else
      let s := s.modPort q (fun x => { x with state := 3, rtt := BitVec.ofNat 24 (s.aon.toNat - t), echoAt := none })
      let s := forEach (upTo 8) (fun v s => s.modVc q v (fun x => { x with
        credits := vcShare s q v, seq := 0, expect := 0, sent := [], again := 0, owed := 0, nak := false })) s
      portPump q (forEach (upTo 8) (lateVcReset q) s)

/-- VCRESET arrives (R286): BREADYs that came before it are of the job as it was. -/
def vcReset (q v job : Nat) (s : State) : State :=
  match topoAt s q v with
  | some k =>
    if topoJob s k = job then vcSettle q v (unready q job ((rxWake q s).modVc q v (fun x => { x with rstGot := true }))) else s
  | none => s

/-- A partition that has been reset sends VCRESET on every VC of its topologies (R286). -/
def sendVcResets (p : Nat) (s : State) : State :=
  forEach (toposOf s p) (fun k s => forEach (topoPorts s k) (fun q s => sendVcReset q (topoVc s k) (topoJob s k) s) s) s

/-- The slots of a halted job stop without completing, their ledger entries are freed, and nothing waits for them any more (R309). -/
def stopSlots (p : Nat) (ks : List Nat) (s : State) : State :=
  forEach (upTo (slotCount s p)) (fun i s =>
    s.modBucket (slotBase s p + i) (fun b =>
      if ks.contains (fld (nth 0 b.desc 0) 2 3) then
        (if b.opened then { bucket0 with step := b.step } else { b with ledgers := [], copying := false, waits := [] })
      else b)) s

/-- HALT arrives (R309): the first of its job since the job's partition last started is forwarded with HOP + 1 on the job's
other ports, and the owning partition stops as on a Partition-fatal fault. -/
def haltRx (q origin hop job reason : Nat) (s : State) : State :=
  let ks := (upTo 8).filter (fun k => topoKind s k != 0 && topoJob s k == job)
  if !(ks.any (fun k => (topoPorts s k).contains q)) ∨ s.pcl.halted.contains (BitVec.ofNat 16 job) then s
  else
    let s := (rxWake q s).modPcl (fun x => { x with halted := BitVec.ofNat 16 job :: x.halted })
    let qs := ((ks.flatMap (topoPorts s)).filter (fun r => r != q)).eraseDups
    let s := forEach qs (fun r s => sendFlit r tHalt (haltBits origin (hop + 1) job reason) s) s
    forEach (ks.map (topoOwner s)).eraseDups (fun p s =>
      stopSlots p ks (partFault p 6 0x32 (origin + 2 ^ 32 * reason) s)) s

/-- A tolerance in its encoding (R421): nanoseconds, `none` for NOREQ. -/
def tolNs (t : Half) : Option Nat :=
  if t.getLsbD 15 then none else some (fld t.toNat 0 10 * 32 ^ Nat.min 5 (fld t.toNat 10 3))

/-- The effective encoding of a tolerance (R421): SCALE 6 and 7 are taken as 5. -/
def tolEff (t : Half) : Half := if 5 < fld t.toNat 10 3 then BitVec.ofNat 16 (setFld t.toNat 10 3 5) else t

/-- The smaller of two encoded tolerances. -/
def tolMin (a b : Half) : Half :=
  match tolNs a, tolNs b with
  | none, _ => b
  | _, none => a
  | some x, some y => if y < x then b else a

/-- The tolerance a port tells its peer (R423): the smallest of the partitions that own a VC of it, NOREQ when none does. -/
def portTol (s : State) (q : Nat) : Nat :=
  (((upTo 8).filterMap (vcOwner s q)).foldl (fun t p => tolMin t (tolEff (s.part p).wake)) 0x8000).toNat

/-- WAKETOL goes out on the collective ports that are in use and not in low-power idle (R423). -/
def sendTols (s : State) : State :=
  forEach (upTo 6) (fun q s =>
    if 2 ≤ (s.port q).state.toNat && !(s.port q).lpi then sendFlit q tLink (waketolBits (portTol s q)) s else s) s

/-- No frame waits for a port or is unacknowledged on it (R424). -/
def portQuiet (s : State) (q : Nat) : Bool := (s.port q).vcs.all (fun e => e.2.queue == [] && e.2.sent == [])

/-- A port enters low-power idle when both ends have sent LPI (R424). -/
def lpiSettle (q : Nat) (s : State) : State :=
  s.modPort q (fun x => if x.lpiSent && x.lpiGot then { x with lpi := true } else x)

/-- Ask a collective port for low-power idle, when it has no frame waiting (R424). -/
def lpiSend (q : Nat) (s : State) : State :=
  if q < 6 ∧ portUp s q ∧ portQuiet s q ∧ !(s.port q).lpiSent then
    lpiSettle q ((sendFlit q tLink lpiBits s).modPort q (fun x => { x with lpiSent := true }))
  else s

/-- LPI arrives (R424). -/
def lpiRx (q : Nat) (s : State) : State :=
  if q < 6 ∧ portUp s q then lpiSend q (lpiSettle q (s.modPort q (fun x => { x with lpiGot := true }))) else s

/-- WAKETOL arrives (R423). -/
def tolRx (q tol : Nat) (s : State) : State :=
  if q < 6 ∧ 2 ≤ (s.port q).state.toNat then s.modPort q (fun x => { x with ptol := BitVec.ofNat 16 tol, tolOk := true }) else s

/-- A control flit arrives (R278, R279): one of a reserved type is discarded and counted, one whose FCRC fails is discarded, and
one of the type, and for LINK of the LOP, that the command names takes effect. Before the FEC is aligned nothing arrives. -/
def rxFlit (q typ lop : Nat) (w : Flit) (act : Nat → State → State) (s : State) : State :=
  let x := w.toNat
  if (s.port q).state.toNat < 2 then s
  else if 0xE ≤ fld x 0 4 then s.modPort q (fun p => { p with badtype := Nat.min 0xFFFF (p.badtype + 1) })
  else if fld x 0 4 ≠ typ ∨ (typ = tLink ∧ fld x 8 4 ≠ lop) then s
  else if fld x 224 32 ≠ closeFrame.crc32cOf (leBytes 28 (x % 2 ^ 224)) then s
  else act x s

def execCreditReturn (q : PortId) (vc : BitVec 3) (s : State) : Res := .next (creditFlit q.toNat vc.toNat s)
def execHello (q : PortId) (w : Flit) (s : State) : Res :=
  .next (rxFlit q.toNat tLink 0 w (fun x s => hello q.toNat (fld x 16 24) (fld x 43 3) (portTol s q.toNat) s) s)
/-- ECHO is returned at once (R284). -/
def execEcho (q : PortId) (w : Flit) (s : State) : Res :=
  .next (rxFlit q.toNat tLink 1 w (fun x s => sendFlit q.toNat tLink (echoBits 1 (fld x 128 32)) s) s)
def execVcreset (q : PortId) (w : Flit) (s : State) : Res :=
  .next (rxFlit q.toNat tLink 3 w (fun x s => vcReset q.toNat (fld x 4 3) (fld x 96 16) s) s)
def execWaketol (q : PortId) (w : Flit) (s : State) : Res :=
  .next (rxFlit q.toNat tLink 4 w (fun x s => tolRx q.toNat (fld x 16 16) s) s)
def execWaketolRepeat (s : State) : Res := .next (sendTols s)
def execLpi (q : PortId) (w : Flit) (s : State) : Res := .next (rxFlit q.toNat tLink 5 w (fun _ s => lpiRx q.toNat s) s)
def execLinkWake (q : PortId) (s : State) : Res :=
  .next (if (s.port q.toNat).lpi then wakeUp (portPump q.toNat (portAwake q.toNat s)) else s)
def execHalt (q : PortId) (w : Flit) (s : State) : Res :=
  .next (rxFlit q.toNat tHalt 0 w (fun x s => haltRx q.toNat (fld x 16 24) (fld x 64 16) (fld x 96 16) (fld x 128 16) s) s)
def execLinkBringUp (q : PortId) (s : State) : Res := .next (bringUp q.toNat s)

end Sys2Proof.Machine
end

