-- ==== Sys2Proof/Machine/Exchange.lean ====
section
/-!
DEFINITION. Buckets (R287–R307, R310, R313, R314): what OPEN, CONTRIB and SEND start, what the merge unit does with each
frame, scale agreement, attempts, straggler windows and the late ledger. A chunk is counted in blocks of 32 elements; a
block number is that within the bucket, an OFFSET is within the chunk on a ring and within the bucket in a tree (log
entry 25).
-/

namespace Sys2Proof.Machine

/-- Fields of the exchange descriptor as OPEN took it, with the values that are taken for others (R313). -/
def Bucket.w (b : Bucket) (j : Nat) : Nat := nth 0 b.desc j
def Bucket.kind (b : Bucket) : Nat := fld (b.w 0) 0 2
def Bucket.topo (b : Bucket) : Nat := fld (b.w 0) 2 3
def Bucket.raw (b : Bucket) : Bool := b.kind == 0 || (b.kind == 2 && fld (b.w 0) 5 2 == 2)
def Bucket.srcBf (b : Bucket) : Bool := fld (b.w 0) 5 2 == 1
def Bucket.wireBf (b : Bucket) : Bool := b.attempt == 4 || fld (b.w 0) 7 2 == 1
def Bucket.outBf (b : Bucket) : Bool := bit (b.w 0) 9
def Bucket.bcast (b : Bucket) : Bool := bit (b.w 0) 10
def Bucket.margin (b : Bucket) : Nat := fld (b.w 0) 11 3
def Bucket.depth (b : Bucket) : Nat := fld (b.w 0) 14 4 + 1
def Bucket.fold (b : Bucket) : Bool := bit (b.w 0) 18
def Bucket.ageLimit (b : Bucket) : Nat := clampNat 1 8 (fld (b.w 0) 19 4)
def Bucket.initexp (b : Bucket) : Nat := let v := fld (b.w 0) 23 8; if v = 0 ∨ v = 255 then 127 else v
def Bucket.win (b : Bucket) : Nat := fld (b.w 0) 31 24
def Bucket.pg (b : Bucket) : Nat := fld (b.w 1) 0 34
def Bucket.peer (b : Bucket) : Nat := fld (b.w 1) 34 24
def Bucket.eb (b : Bucket) : Nat := fld (b.w 2) 0 34 / 32 * 32
def Bucket.ec (b : Bucket) : Nat := fld (b.w 3) 0 34
def Bucket.dspa (b : Bucket) : Nat := fld (b.w 4) 0 17
def Bucket.scspa (b : Bucket) : Nat := fld (b.w 4) 17 17
def Bucket.crspa (b : Bucket) : Nat := fld (b.w 4) 34 17
def Bucket.histLine (b : Bucket) : Nat := fld (b.w 5) 0 34
def Bucket.ledgLine (b : Bucket) : Nat := fld (b.w 6) 0 34
/-- Is it a reduction (R290). -/
def Bucket.reduces (b : Bucket) : Bool := b.kind == 1 || b.kind == 3

/-- Bytes of an element of the local contribution and of the delivered data (R292). -/
def Bucket.size (b : Bucket) : Nat := if b.raw then 1 else if b.srcBf then 2 else 4
def Bucket.osize (b : Bucket) : Nat := if b.kind = 2 then b.size else if b.outBf then 2 else 4

/-- Tiles of the bucket's partition. -/
def bTiles (s : State) (b : Bucket) : List Nat := (s.part b.owner).tiles
def bN (s : State) (b : Bucket) : Nat := Nat.max 1 (bTiles s b).length

/-- Elements of the bucket; for raw data EC counts bytes in each tile (R313). -/
def bCount (s : State) (b : Bucket) : Nat :=
  if b.raw then bN s b * b.ec else Nat.min (32 * cdiv b.ec 32) (b.pg - b.eb)
/-- T_b (R292). -/
def bTb (s : State) (b : Bucket) : Nat := if b.raw then b.ec else 32 * cdiv (bCount s b) (32 * bN s b)
def bBlocks (s : State) (b : Bucket) : Nat := cdiv (bCount s b) 32

def bD (s : State) (b : Bucket) : Nat := topoD s b.topo
def bRank (s : State) (b : Bucket) : Nat := topoRank s b.topo
def bTree (s : State) (b : Bucket) : Bool := topoKind s b.topo == 3
/-- S of R166. -/
def bShard (s : State) (b : Bucket) : Nat := 32 * cdiv b.pg (32 * bD s b)

/-- The chunk of rank c: its first block in the bucket and its blocks (R290). -/
def chunk (s : State) (b : Bucket) (c : Nat) : Nat × Nat :=
  let lo := Nat.max b.eb (c * bShard s b)
  let hi := Nat.min (b.eb + bCount s b) (Nat.min ((c + 1) * bShard s b) b.pg)
  if hi ≤ lo then (0, 0) else ((lo - b.eb) / 32, cdiv (hi - lo) 32)

/-- The part of a chunk that runs in a direction (R298): first block within the chunk, blocks. -/
def halfOf (s : State) (b : Bucket) (dir c : Nat) : Nat × Nat :=
  let k := (chunk s b c).2
  if topoKind s b.topo ≠ 2 then (if dir = 0 then (0, k) else (0, 0))
  else let h := cdiv k 2; if dir = 0 then (0, h) else (h, k - h)

/-- Chunk schedule c(k) (R298). -/
def sched (s : State) (b : Bucket) (dir k : Nat) : Nat :=
  let D := bD s b
  if dir = 0 then (bRank s b + 2 * D - 1 - k) % D else (bRank s b + 1 + k) % D

/-- The number of an input of a ring: chunk and direction. In a tree a child's input is its port, the local one is 7. -/
def inKey (dir c : Nat) : Nat := 2 * c + dir
def localKey : Nat := 2 ^ 20

/-- The direction in which a frame from port q travels. -/
def dirOf (s : State) (b : Bucket) (q : Nat) : Nat := if topoKind s b.topo = 2 ∧ topoUp s b.topo 0 ≠ q then 1 else 0

/-- Blocks this device owns (R295): on a ring its own chunk, in a tree all of them at the root. -/
def ownedBlocks (s : State) (b : Bucket) : Nat × Nat :=
  if bTree s b then (if topoDn s b.topo 0 = 7 then (0, bBlocks s b) else (0, 0)) else chunk s b (bRank s b)

/-! Data in the tiles and in the ledger. -/

/-- Tile and byte of element x in the layout of the local contribution, from a line (R292). -/
def elemPlace (s : State) (b : Bucket) (line size x : Nat) : Nat × Nat :=
  let t := Nat.max 1 (bTb s b)
  (nth 0 (bTiles s b) (x / t), (64 * line + x % t * size) % 8388608)

/-- Raw bytes of local element x. -/
def localRaw (s : State) (b : Bucket) (x : Nat) : List Byte :=
  let a := elemPlace s b b.spa b.size x
  rdBytes (s.tile a.1).scratch a.2 b.size

/-- A local element in FP32; BF16 converts exactly (R294). -/
def localWord (s : State) (b : Bucket) (x : Nat) : Word :=
  BitVec.ofNat 32 (if b.size = 2 then leNat (localRaw s b x) * 65536 else leNat (localRaw s b x))

/-- Ledger line of element x in half h (R306). -/
def ledgerLine (s : State) (b : Bucket) (h x : Nat) : Nat := b.ledgLine + h * cdiv (bCount s b) 16 + x / 16

def ledgerWord (s : State) (b : Bucket) (h x : Nat) : Word :=
  BitVec.ofNat 32 (leNat (((partRead 0 b.owner (ledgerLine s b h x) s).2.1.drop (4 * (x % 16))).take 4))

/-- Does an entry hold element x. -/
def Ledger.has (l : Ledger) (x : Nat) : Bool := l.ranges.any (fun r => decide (r.1 ≤ x) && decide (x < r.2))

/-- Block j of the local input with the folded ledger entry (R307). -/
def localBlock (s : State) (b : Bucket) (j : Nat) : List Word :=
  (upTo 32).map (fun i =>
    let x := 32 * j + i
    if bCount s b ≤ x then 0
    else
      let v := localWord s b x
      match b.folded with
      | some h => match mget none b.ledgers h with
        | some l => if l.has x then fadd v (ledgerWord s b h x) else v
        | none => v
      | none => v)

/-- Write bytes of element x where results of an all-gather or all-reduce land (R292). With BCAST every tile holds the whole
bucket from DSPA on (log entry 26). -/
def putElem (n x : Nat) (bs : List Byte) (s : State) : State :=
  let b := s.bucket n
  let m := bs.map (fun v => (true, v))
  if b.bcast then
    let a := (64 * b.dspa + x * b.osize) % 8388608
    forEach (bTiles s b) (fun t s => writeTile b.owner 0 .scratch t a m 2 false s) s
  else
    let a := elemPlace s b b.dspa b.osize x
    writeTile b.owner 0 .scratch a.1 a.2 m 2 false s

/-- Write bytes of element x in the shard layout (R166, R292). -/
def putShard (n x : Nat) (bs : List Byte) (s : State) : State :=
  let b := s.bucket n
  let S := bShard s b
  let T := Nat.max 1 (32 * cdiv S (32 * bN s b))
  let e := b.eb + x - bRank s b * S
  writeTile b.owner 0 .scratch (nth 0 (bTiles s b) (e / T)) ((64 * b.dspa + e % T * b.osize) % 8388608)
    (bs.map (fun v => (true, v))) 2 false s

/-- An FP32 sum in OUTF (R294). -/
def outBytes (b : Bucket) (w : Word) : List Byte :=
  if b.outBf then leBytes 2 (Fmt.bf16.encode (f32 w)).1 else leBytes 4 w.toNat

/-- R_b of a block's final sums (R295). -/
def histByte (ws : List Word) : Nat :=
  let a := ((ws.filter isFin32).map fabs).foldl fmax 0
  match f32 a with
  | .fin _ m e => if m = 0 then 0 else (max 1 (min 254 (floorLog2 m e + 127))).toNat
  | _ => 0

/-- Deliver block j of final sums (R292, R294, R295, R314). -/
def deliverBlock (n j : Nat) (ws : List Word) (s : State) : State :=
  let b := s.bucket n
  let cnt := Nat.min 32 (bCount s b - 32 * j)
  let ws := ws.take cnt
  let s := s.modBucket n (fun b => { b with
    hist := mset 0 b.hist j (BitVec.ofNat 8 (histByte ws))
    nonfin := Nat.min 0xFFFF (b.nonfin + (ws.filter (fun w => !isFin32 w)).length) })
  ws.zipIdx.foldl (fun s e =>
    if b.kind = 1 then putShard n (32 * j + e.2) (outBytes b e.1) s else putElem n (32 * j + e.2) (outBytes b e.1) s) s

/-! Frames. -/

/-- Bytes of a block in a payload format (R293), and how many a frame holds. -/
def blockLen (b : Bucket) (fmt : Nat) : Nat := if fmt = 1 then 33 else if fmt = 2 then 64 else if fmt = 3 then 128 else 32 * b.size
def perFrame (b : Bucket) (fmt : Nat) : Nat := 1024 / Nat.max 1 (blockLen b fmt)
def wireFmt (b : Bucket) : Nat := if b.wireBf then 2 else 1

/-- The scale byte of a block in this attempt (R296). -/
def scaleAt (b : Bucket) (j : Nat) : Option Nat := (mget none b.scales j).map (fun v => Nat.min 254 (v.toNat + 2 * b.attempt))

/-- May block j leave: in FP8 its scale must be known. -/
def scaleOk (b : Bucket) (j : Nat) : Bool := b.wireBf || (scaleAt b j).isSome

/-- Is a quotient infinite or beyond ±448 (R294). -/
def beyond448 : FVal → Bool
  | .fin _ m e => if 0 ≤ e then decide (448 < m * 2 ^ e.toNat) else decide (448 * 2 ^ (-e).toNat < m)
  | .inf _ => true
  | .nan => false

/-- A block of partial sums as it leaves, and its SAT (R293, R294). -/
def quantBlock (b : Bucket) (j : Nat) (ws : List Word) : List Byte × Bool :=
  if b.wireBf then (ws.flatMap (fun w => leBytes 2 (Fmt.bf16.encode (f32 w)).1), false)
  else
    let x := (scaleAt b j).getD 127
    let qs := ws.map (fun w => shiftExp (127 - (x : Int)) (f32 w))
    (BitVec.ofNat 8 x :: qs.map (fun v => BitVec.ofNat 8 (Fmt.e4m3.encode v).1), qs.any beyond448)

/-- The values of a received block (R294). -/
def dequant (fmt : Nat) (bs : List Byte) : List Word :=
  if fmt = 1 then
    let x := leNat (bs.take 1)
    ((bs.drop 1).take 32).map (fun v => toF32 (scaleBy x (Fmt.e4m3.decode v.toNat)))
  else if fmt = 2 then (upTo 32).map (fun i => BitVec.ofNat 32 (65536 * leNat ((bs.drop (2 * i)).take 2)))
  else (upTo 32).map (fun i => BitVec.ofNat 32 (leNat ((bs.drop (4 * i)).take 4)))

/-- The blocks of a payload. -/
def frameBlocks (b : Bucket) (f : Frame) : List (List Byte) :=
  let n := Nat.max 1 (blockLen b f.fmt.toNat)
  (upTo (f.payload.length / n)).map (fun i => (f.payload.drop (n * i)).take n)

/-- Has the peer on a port sent BREADY for the bucket (R297). -/
def peerReady (s : State) (b : Bucket) (q : Nat) : Bool :=
  (s.port q).ready.contains (b.tag, BitVec.ofNat 16 (topoJob s b.topo), b.step)

/-- A frame of a bucket leaves once the peer is ready (R297). -/
def outFrame (n q typ : Nat) (f : Frame) (s : State) : State :=
  if peerReady s (s.bucket n) q then sendFrame q typ f s
  else s.modBucket n (fun b => { b with outq := b.outq ++ [(q, typ, f)] })

def bFrame (s : State) (b : Bucket) (offset fmt hop : Nat) (sat last : Bool) (payload : List Byte) : Frame :=
  let f := mkFrame s (topoVc s b.topo) b.tag.toNat (topoJob s b.topo) b.step.toNat offset payload
  { f with
    fmt := BitVec.ofNat 2 fmt, hop := BitVec.ofNat 16 hop, attempt := BitVec.ofNat 3 b.attempt, sat := sat, last := last }

/-- Blocks leave as frames (R293): from an OFFSET, up to the end of their chunk at `stop`. -/
def packFrames (n q typ fmt hop off stop : Nat) (sat : Bool) (bl : List (List Byte × Bool)) (s : State) : State :=
  let m := Nat.max 1 (perFrame (s.bucket n) fmt)
  forEach (upTo (cdiv bl.length m)) (fun i s =>
    let part := (bl.drop (m * i)).take m
    outFrame n q typ (bFrame s (s.bucket n) (off + m * i) fmt hop (sat || part.any (·.2))
      (decide (off + m * i + part.length = stop)) (part.flatMap (·.1))) s) s

/-- EMPTY: a partial of zeros over a whole chunk (R278). -/
def sendEmpty (n q hop off : Nat) (sat : Bool) (s : State) : State :=
  outFrame n q tContrib (let f := bFrame s (s.bucket n) off 0 hop sat true []; { f with empty := true }) s

/-- Forward a frame along the topology. -/
def forward (n q typ : Nat) (f : Frame) (s : State) : State := outFrame n q typ { f with hop := f.hop + 1 } s

/-! The late ledger. -/

def Pcl.addLedg (p : Nat) (late folded dropped : Nat) (x : Pcl) : Pcl :=
  let o := mget (0, 0, 0) x.ledg p
  let v := (Nat.min 0xFFFF (o.1 + late), Nat.min 0xFFFF (o.2.1 + folded), Nat.min 0xFFFF (o.2.2 + dropped))
  { x with ledg := mset (0, 0, 0) x.ledg p v }

/-- Merge a range into a list of disjoint rising ranges, adjacent ones joined. -/
def addRange (r : Nat × Nat) : List (Nat × Nat) → List (Nat × Nat)
  | [] => [r]
  | a :: l =>
    if a.2 < r.1 then a :: addRange r l
    else if r.2 < a.1 then r :: a :: l
    else addRange (Nat.min a.1 r.1, Nat.max a.2 r.2) l

def modLedger (n h : Nat) (f : Ledger → Ledger) (s : State) : State :=
  s.modBucket n (fun b => { b with ledgers := mset none b.ledgers h ((mget none b.ledgers h).map f) })

def Bucket.wantBooked (b : Bucket) (key blocks : Nat) : Bucket :=
  { b with booked := { b.booked with wants := b.booked.wants ++ [(key, blocks)] } }

/-- Late inputs with part of one arrived. -/
def wantsLess (key blocks : Nat) (ws : List (Nat × Nat)) : List (Nat × Nat) :=
  (ws.map (fun w => if w.1 = key then (w.1, w.2 - blocks) else w)).filter (fun w => w.2 != 0)

/-- Part of a late input of the attempt that runs has arrived, from block j on. -/
def Bucket.gotBooked (b : Bucket) (key blocks j : Nat) (bl : List (List Word)) : Bucket :=
  { b with booked := ⟨wantsLess key blocks b.booked.wants, if bl = [] then b.booked.data else b.booked.data ++ [(j, bl)]⟩ }

/-- Late data of a run of blocks are written, or added to what stands there; a ninth range is dropped, and counted once (R306). The
bucket is that of the entry's own descriptor. -/
def ledgerData (n h j : Nat) (bl : List (List Word)) (s : State) : State :=
  match mget none (s.bucket n).ledgers h with
  | none => s
  | some l =>
    let b0 := s.bucket n
    let b := { b0 with desc := l.desc }
    let r := (32 * j, Nat.min (bCount s b) (32 * (j + bl.length)))
    let rs := addRange r l.ranges
    if r.2 ≤ r.1 then s
    else if 8 < rs.length then
      let lost := addRange r l.lost
      let s := modLedger n h (fun l => { l with lost := lost }) s
      if l.lost.length < lost.length then s.modPcl (Pcl.addLedg b.owner 0 0 1) else s
    else
      let s := modLedger n h (fun l => { l with ranges := rs }) s
      forEach (upTo (2 * bl.length)) (fun i s =>
        let x := 32 * j + 16 * i
        let line := ledgerLine s b h x
        let ws := ((nth [] bl (i / 2)).drop (16 * (i % 2))).take 16
        let old := if l.has x then (upTo 16).map (fun e => ledgerWord s b h (x + e)) else List.replicate 16 0
        if r.2 ≤ x then s
        else partWrite b.owner line
          ((ws.zip old).flatMap (fun e => leBytes 4 (if l.has x then fadd e.2 e.1 else e.1).toNat)) false s) s

/-- Part of a late input has arrived; with the last of it the entry may become READY (R306). -/
def ledgerGot (n h key blocks : Nat) (s : State) : State :=
  modLedger n h (fun l =>
    let ws := wantsLess key blocks l.wants
    { l with wants := ws, ready := ws == [] }) s

/-- The attempt completes: the entry of its late inputs is made, and one that holds the half for another STEP is displaced
(R306, R307). -/
def ledgerMake (n : Nat) (s : State) : State :=
  let b := s.bucket n
  let h := b.step.toNat % 2
  if b.lateParts = [] ∧ !b.localLate then s
  else
    let fresh : Ledger := ⟨b.tag, b.step, 0, b.booked.wants == [], [], [], b.desc, b.booked.wants⟩
    let s := if (mget none b.ledgers h).isSome then
        (s.modPcl (Pcl.addLedg b.owner 0 0 1)).modBucket n (fun b => { b with ndropped := b.ndropped + 1 })
      else s
    let s := s.modBucket n (fun b => { b with ledgers := mset none b.ledgers h (some fresh), booked := ⟨[], []⟩ })
    forEach b.booked.data (fun e s => ledgerData n h e.1 e.2 s) s

/-! Completion. -/

/-- Write the history record of the blocks this device owns (R295). -/
def writeHist (n : Nat) (s : State) : State :=
  let b := s.bucket n
  let o := ownedBlocks s b
  if o.2 = 0 then s
  else
    let line := (partRead 0 b.owner b.histLine s).2.1
    let cnt := leNat (line.take 1)
    let nxt := leNat ((line.drop 1).take 1) % b.depth
    let len := cdiv o.2 64
    let s := partWriteN b.owner (b.histLine + 1 + nxt * len) ((upTo o.2).map (fun i => mget 0 b.hist (o.1 + i))) s
    partWrite b.owner b.histLine
      (padTo 64 [BitVec.ofNat 8 (Nat.min b.depth (cnt + 1)), BitVec.ofNat 8 ((nxt + 1) % b.depth)]) false s

/-- The ledger at a completion of the slot, of whatever operation (R307): a fold that was made ends its entry, the other entries
age. -/
def ledgerComplete (n : Nat) (s : State) : State :=
  let b := s.bucket n
  forEach [0, 1] (fun h s =>
    match mget none (s.bucket n).ledgers h with
    | none => s
    | some l =>
      if b.folded = some h ∧ !b.localLate then
        (s.modPcl (Pcl.addLedg b.owner 0 1 0)).modBucket n (fun b => { b with
          ledgers := mset none b.ledgers h none, nfolded := b.nfolded + 1 })
      else if l.step = b.step ∧ b.reduces then s
      else if b.ageLimit ≤ l.age + 1 then
        (s.modPcl (Pcl.addLedg b.owner 0 0 1)).modBucket n (fun b => { b with
          ledgers := mset none b.ledgers h none, ndropped := b.ndropped + 1 })
      else modLedger n h (fun l => { l with age := l.age + 1 }) s) s

/-- The completion record (R314). -/
def recordBytes (b : Bucket) : List Byte :=
  padTo 64 (leBytes 2 b.tag.toNat ++ leBytes 2 b.step.toNat ++ [BitVec.ofNat 8 b.attempt, BitVec.ofNat 8 (b2n b.localLate)]
    ++ leBytes 2 b.total.1 ++ leBytes 2 b.total.2 ++ leBytes 2 b.nfolded ++ leBytes 2 b.ndropped ++ leBytes 2 b.nonfin)

/-- A bucket completes (R301, R302, R310, R314): history, ledger, completion record; its completion gate may then resolve. -/
def bucketDone (n : Nat) (s : State) : State :=
  let b := s.bucket n
  if !b.opened ∨ b.gen ≠ (s.part b.owner).gen then s
  else
    let s := if b.reduces then ledgerMake n (writeHist n (s.modPcl (Pcl.addLedg b.owner (b.late.1 + b.late.2) 0 0))) else s
    let s := ledgerComplete n s
    let b := s.bucket n
    let s := match bTiles s b with
      | t :: _ => writeTile b.owner 0 .scratch t (64 * b.crspa) ((recordBytes b).map (fun v => (true, v))) 2 false s
      | [] => s
    (s.modBucket n (fun b => { b with opened := false, done := true, outcome := b.attempt })).modSeq b.owner
      (Seq.arrives (512 + (n - slotBase s b.owner)))

/-! Rings. -/

/-- Number of blocks that stand for a chunk in a direction: an empty one is one EMPTY frame. -/
def halfCount (s : State) (b : Bucket) (dir c : Nat) : Nat := Nat.max 1 (halfOf s b dir c).2

def modCount (m : Map Nat) (k n : Nat) : Map Nat := mset 0 m k (mget 0 m k + n)

/-- Are all chunks of a gather here (R301). -/
def gatherAll (s : State) (b : Bucket) : Bool :=
  (upTo (bD s b)).all (fun c => (topoDirs s b.topo).all (fun d => decide ((halfOf s b d c).2 ≤ mget 0 b.gathered (inKey d c))))

/-- This device's own chunk leaves on a gather (R301): raw bytes of the local input, or the delivered sums in OUTF. -/
def gatherBytes (s : State) (b : Bucket) (j : Nat) : List Byte :=
  (upTo 32).flatMap (fun i =>
    let x := 32 * j + i
    if bCount s b ≤ x then List.replicate b.osize 0
    else if b.kind = 2 then localRaw s b x
    else
      let a := if b.bcast then (nth 0 (bTiles s b) 0, (64 * b.dspa + x * b.osize) % 8388608) else elemPlace s b b.dspa b.osize x
      rdBytes (s.tile a.1).scratch a.2 b.osize)

def gatherFmt (b : Bucket) : Nat := if b.kind = 2 then 0 else if b.outBf then 2 else 3

def gatherDone (n : Nat) (s : State) : State :=
  let b := s.bucket n
  if (b.kind = 2 ∨ b.down) ∧ b.opened ∧ gatherAll s b then bucketDone n s else s

/-- Start a ring's gather with the own chunk (R301). -/
def gatherStart (n : Nat) (s : State) : State :=
  let b := s.bucket n
  let d := bRank s b
  let s := forEach (topoDirs s b.topo) (fun dir s =>
    let h := halfOf s b dir d
    let bl := (upTo h.2).map (fun i => (gatherBytes s b ((chunk s b d).1 + h.1 + i), false))
    let s := if b.kind = 2 then
        bl.zipIdx.foldl (fun s e => (upTo 32).foldl (fun s i =>
          let x := 32 * ((chunk s b d).1 + h.1 + e.2) + i
          if x < bCount s b then putElem n x ((e.1.1.drop (b.osize * i)).take b.osize) s else s) s) s
      else s
    let s := if 1 < bD s b then packFrames n (topoDn s b.topo dir) tGather (gatherFmt b) 0 h.1 (h.1 + h.2) false bl s else s
    s.modBucket n (fun b => { b with gathered := modCount b.gathered (inKey dir d) h.2 })) s
  gatherDone n (s.modBucket n (fun b => { b with down := true }))

/-- An input of a tree adds a block, in the order of arrival (R300). -/
def treeAdd (n key j : Nat) (ws : List Word) (s : State) : State :=
  s.modBucket n (fun b =>
    let old := mget [] b.sums j
    { b with
      sums := mset [] b.sums j (if old = [] then ws else (old.zip ws).map (fun w => fadd w.1 w.2))
      inputs := mset [] b.inputs j (mget [] b.inputs j ++ [key]) })

/-- A tree node holds the trailer and every chunk it is to receive (R302). -/
def treeDone (n : Nat) (s : State) : State :=
  let b := s.bucket n
  let d := bRank s b
  let top := maxL (d :: (topoChildren s b.topo).map (topoHi s b.topo))
  let need := if b.kind = 1 then sumL ((upTo (top + 1 - d)).map (fun i => (chunk s b (d + i)).2)) else bBlocks s b
  if b.opened ∧ b.trailerSent ∧ need ≤ mget 0 b.gathered 0 then bucketDone n s else s

/-- Flits that stand in a VC's receive buffer, of whatever bucket (R280, R305). -/
def heldFlits (s : State) (q v : Nat) : Nat :=
  sumL ((s.pcl.buckets.flatMap (fun e => e.2.held.map (fun x => (x.port, x.frame))) ++ s.pcl.early).map (fun e =>
    if e.1 = q ∧ e.2.vc.toNat = v then frameFlits e.2 else 0))

mutual

/-- A failed attempt leads to the next (R303): the retained contribution is read again, and a new window opens now, or has opened
when the first CONTRIB of the attempt came (R304). -/
def nextAttempt (n : Nat) : Nat → State → State
  | 0, s => s
  | fuel + 1, s =>
    let s := s.modBucket n (fun b => { b with
      attempt := b.attempt + 1, localLate := false, copying := false
      winOpen := if b.nextOpen.isSome then b.nextOpen else if b.contrib then some s.aon.toNat else none
      winClosed := false, nextOpen := none, seen := [], merged := [], arrived := [], lateParts := [], sat := false, trailers := []
      late := (0, 0), trailerSent := false, sums := [], inputs := [], hist := [], nonfin := 0, booked := ⟨[], []⟩ })
    retryHeld n fuel (startLocal n fuel s)
  termination_by structural fuel _ => fuel

/-- A ring's trailers are all here (R299): success or the next attempt. -/
def ringDecide (n : Nat) : Nat → State → State
  | 0, s => s
  | fuel + 1, s =>
    let b := s.bucket n
    let full := (topoDirs s b.topo).all (fun dir => (b.trailers.filter (fun t => t.1 == dir)).length == bD s b)
    if !full ∨ !b.opened ∨ b.down then s
    else
      let mine := b.trailers.filter (fun t => t.1 == 0)
      let s := s.modBucket n (fun b => { b with
        total := (Nat.min 0xFFFF (sumL (mine.map (·.2.2.1))), Nat.min 0xFFFF (sumL (mine.map (·.2.2.2.1)))) })
      if b.trailers.any (·.2.2.2.2) && !b.wireBf then nextAttempt n fuel s
      else if b.kind = 3 then gatherStart n s
      else bucketDone n s
  termination_by structural fuel _ => fuel

/-- After a delivery: with the own chunk complete in every direction the trailer leaves (R299). -/
def ringCheck (n : Nat) : Nat → State → State
  | 0, s => s
  | fuel + 1, s =>
    let b := s.bucket n
    let d := bRank s b
    let all := (topoDirs s b.topo).all (fun dir => decide (halfCount s b dir d ≤ mget 0 b.merged (inKey dir d)))
    if !all ∨ b.trailerSent then s
    else
      let pay := leBytes 2 b.late.1 ++ leBytes 2 b.late.2 ++ [BitVec.ofNat 8 (b2n b.sat)] ++ leBytes 3 s.pcl.id.toNat
      let s := s.modBucket n (fun b => { b with
        trailerSent := true, trailers := b.trailers ++ (topoDirs s b.topo).map (fun dir => (dir, d, b.late.1, b.late.2, b.sat)) })
      let s := if 1 < bD s b then
          forEach (topoDirs s b.topo) (fun dir s =>
            outFrame n (topoDn s b.topo dir) tTrailer (bFrame s (s.bucket n) 0 0 0 b.sat true (padTo 32 pay)) s) s
        else s
      ringDecide n fuel s
  termination_by structural fuel _ => fuel

/-- Partial sums of step k leave or are delivered (R298): blocks of chunk c from i0 on. -/
def ringOut (n dir c k i0 : Nat) (sat : Bool) (vals : List (List Word)) : Nat → State → State
  | 0, s => s
  | fuel + 1, s =>
    let b := s.bucket n
    let first := (chunk s b c).1
    let h := halfOf s b dir c
    let s := s.modBucket n (fun b => { b with merged := modCount b.merged (inKey dir c) (Nat.max 1 vals.length) })
    if k + 1 = bD s b then
      let s := vals.zipIdx.foldl (fun s e => deliverBlock n (first + i0 + e.2) e.1 s) s
      ringCheck n fuel (s.modBucket n (fun b => { b with sat := b.sat || sat }))
    else if vals = [] then sendEmpty n (topoDn s b.topo dir) k h.1 sat s
    else packFrames n (topoDn s b.topo dir) tContrib (wireFmt b) k i0 (h.1 + h.2) sat
      (vals.zipIdx.map (fun e => quantBlock b (first + i0 + e.2) e.1)) s
  termination_by structural fuel _ => fuel

/-- A partial meets the local input (R298, R305). `typ` 0x20 stands for a partial that does not come: zeros from OFFSET on. A
frame whose local elements or scales are missing is held. -/
def mergeFrame (n q typ : Nat) (f : Frame) : Nat → State → State
  | 0, s => s
  | fuel + 1, s =>
    let b := s.bucket n
    let dir := dirOf s b q
    let k := f.hop.toNat + 1
    let c := sched s b dir k
    let h := halfOf s b dir c
    let i0 := if f.empty && typ != 0x20 then h.1 else f.offset.toNat
    let zeros := List.replicate (h.1 + h.2 - i0) (List.replicate 32 (0 : Word))
    let blocks := (frameBlocks b f).take (h.1 + h.2 - i0)
    let vals := if f.empty then zeros else blocks.map (dequant f.fmt.toNat)
    let js := (upTo vals.length).map (fun i => (chunk s b c).1 + i0 + i)
    let last := k + 1 == bD s b
    let free := fun (s : State) => if typ = 0x20 then s else creditFrame q f s
    if b.localLate then
      if last then ringOut n dir c k i0 f.sat vals fuel (free s)
      else if f.empty ∧ typ ≠ 0x20 then
        sendEmpty n (topoDn s b.topo dir) k h.1 f.sat
          ((free s).modBucket n (fun b => { b with merged := modCount b.merged (inKey dir c) (halfCount s b dir c) }))
      else if typ = 0x20 then
        (if i0 = h.1 then sendEmpty n (topoDn s b.topo dir) k h.1 false s
         else if js.all (scaleOk b) then ringOut n dir c k i0 false vals fuel s
         else s.modBucket n (fun b => { b with held := b.held ++ [⟨q, typ, f, none⟩] }))
      else forward n (topoDn s b.topo dir) tContrib f
        ((free s).modBucket n (fun b => { b with merged := modCount b.merged (inKey dir c) vals.length }))
    else if !b.contrib ∨ !(last || js.all (scaleOk b)) then s.modBucket n (fun b => { b with held := b.held ++ [⟨q, typ, f, none⟩] })
    else
      let sums := (vals.zip js).map (fun e => (e.1.zip (localBlock s b e.2)).map (fun w => fadd w.1 w.2))
      ringOut n dir c k i0 f.sat sums fuel (free s)
  termination_by structural fuel _ => fuel

/-- Of a run of blocks, those that leave now: frames short of full leave only at the end of the chunk (R293). -/
def fullFrames (b : Bucket) (run left : Nat) : Nat :=
  if run = left then run else let m := Nat.max 1 (perFrame b (wireFmt b)); run / m * m

/-- The start chunk of a direction leaves in full frames as far as its scales are known (R293, R298); late, or empty, it leaves as
EMPTY. -/
def startRing (n dir : Nat) : Nat → State → State
  | 0, s => s
  | fuel + 1, s =>
    let b := s.bucket n
    let c := sched s b dir 0
    let key := inKey dir c
    let h := halfOf s b dir c
    if b.arrived.contains key ∨ !(b.contrib || b.localLate) then s
    else if bD s b = 1 then
      ringOut n dir c 0 h.1 false
        (if b.localLate then List.replicate h.2 (List.replicate 32 0) else (upTo h.2).map (fun i => localBlock s b ((chunk s b c).1 + h.1 + i)))
        fuel (s.modBucket n (fun b => { b with arrived := key :: b.arrived }))
    else if b.localLate ∨ h.2 = 0 then
      sendEmpty n (topoDn s b.topo dir) 0 h.1 false (s.modBucket n (fun b => { b with arrived := key :: b.arrived }))
    else
      let m := mget 0 b.merged key
      let js := ((upTo h.2).drop m).map (fun i => (chunk s b c).1 + h.1 + i)
      let run := js.take (fullFrames b (js.takeWhile (scaleOk b)).length js.length)
      let s := if run = [] then s else ringOut n dir c 0 (h.1 + m) false (run.map (localBlock s b)) fuel s
      if run.length = js.length then s.modBucket n (fun b => { b with arrived := key :: b.arrived }) else s
  termination_by structural fuel _ => fuel

/-- A tree sends what is complete to the parent, from the first block not yet sent; the root decides when all are (R302). -/
def treePump (n : Nat) : Nat → State → State
  | 0, s => s
  | fuel + 1, s =>
    let b := s.bucket n
    let root := topoDn s b.topo 0 == 7
    let kids := topoChildren s b.topo
    let isLate := fun i => if i = 7 then b.localLate else b.lateParts.contains i
    let m := mget 0 b.merged 0
    let ready := fun j => (kids ++ [7]).all (fun i => isLate i || (mget [] b.inputs j).contains i) && (root || scaleOk b j)
    let left := (upTo (bBlocks s b)).drop m
    let js := if root then left.takeWhile ready else left.take (fullFrames b (left.takeWhile ready).length left.length)
    let sumOf := fun j => let w := mget [] b.sums j; if w = [] then List.replicate 32 (0 : Word) else w
    let s := s.modBucket n (fun b => { b with merged := modCount b.merged 0 js.length })
    let whole := (kids.all (fun i => isLate i || b.arrived.contains i)) && (b.contrib || b.localLate)
      && m + js.length == bBlocks s b && !b.trailerSent
    if root then
      (if whole then rootDecide n fuel s else s)
    else
      let hop := if kids = [] then 0 else b.hop + 1
      if bBlocks s b = 0 then
        (if whole && !b.arrived.contains 99 then
          sendEmpty n (topoDn s b.topo 0) hop 0 b.sat (s.modBucket n (fun b => { b with arrived := 99 :: b.arrived }))
         else s)
      else
        let qs := js.map (fun j => quantBlock b j (sumOf j))
        let sat := b.sat || qs.any (·.2)
        packFrames n (topoDn s b.topo 0) tContrib (wireFmt b) hop m (bBlocks s b) sat qs (s.modBucket n (fun b => { b with sat := sat }))
  termination_by structural fuel _ => fuel

/-- The root holds every input (R302): the trailer goes down; without SAT the results follow and the bucket completes. The
spec gives no way for the counts of the other devices to reach the root: their sums are free values (log entry 27). -/
def rootDecide (n : Nat) : Nat → State → State
  | 0, s => s
  | fuel + 1, s =>
    let b := s.bucket n
    let kids := topoChildren s b.topo
    let r1 := fresh s
    let r2 := fresh r1.2
    let tot := if kids = [] then b.late else (Nat.min 0xFFFF (b.late.1 + r1.1 % 65536), Nat.min 0xFFFF (b.late.2 + r2.1 % 65536))
    let s := if kids = [] then s else r2.2
    let fails := b.sat && !b.wireBf
    let pay := leBytes 2 tot.1 ++ leBytes 2 tot.2 ++ [BitVec.ofNat 8 (b2n fails)] ++ leBytes 3 s.pcl.id.toNat
    let s := forEach kids (fun q s => outFrame n q tTrailer (bFrame s (s.bucket n) 0 0 0 fails true (padTo 32 pay)) s) s
    let s := s.modBucket n (fun b => { b with total := tot, trailerSent := true })
    if fails then nextAttempt n fuel s
    else
      let val := fun j => let w := mget [] b.sums j; if w = [] then List.replicate 32 (0 : Word) else w
      let bytes := fun j => ((val j).flatMap (outBytes b), false)
      let own := chunk s b (bRank s b)
      let s := forEach (upTo (bBlocks s b)) (fun j s =>
        if b.kind = 3 ∨ (own.1 ≤ j ∧ j < own.1 + own.2) then deliverBlock n j (val j) s
        else s.modBucket n (fun b => { b with hist := mset 0 b.hist j (BitVec.ofNat 8 (histByte (val j))) })) s
      let s := forEach kids (fun q s =>
        if b.kind = 3 then
          packFrames n q tGather (gatherFmt b) 0 0 (bBlocks s b) false ((upTo (bBlocks s b)).map bytes) s
        else
          forEach (upTo (topoHi s b.topo q + 1 - topoLo s b.topo q)) (fun i s =>
            let c := chunk s b (topoLo s b.topo q + i)
            packFrames n q tGather (gatherFmt b) 0 c.1 (c.1 + c.2) false ((upTo c.2).map (fun i => bytes (c.1 + i))) s) s) s
      bucketDone n s
  termination_by structural fuel _ => fuel

/-- The local input starts to take part, or its absence does. -/
def startLocal (n : Nat) : Nat → State → State
  | 0, s => s
  | fuel + 1, s =>
    let b := s.bucket n
    if bTree s b then
      let s := if b.contrib && !b.localLate && !b.arrived.contains 7 then
          let s := s.modBucket n (fun b => { b with arrived := 7 :: b.arrived })
          forEach (upTo (bBlocks s b)) (fun j s => treeAdd n 7 j (localBlock s b j) s) s
        else s
      treePump n fuel s
    else forEach (topoDirs s b.topo) (fun dir s => startRing n dir fuel s) s
  termination_by structural fuel _ => fuel

/-- A CONTRIB frame that passed its check in tick t, counted and judged (R304, R305). -/
def onContrib (n q t : Nat) (f : Frame) : Nat → State → State
  | 0, s => s
  | fuel + 1, s =>
    let s := windowDue n t fuel s
    let b := s.bucket n
    if b.attempt < f.attempt.toNat then s.modBucket n (fun b => { b with
      held := b.held ++ [⟨q, tContrib, f, some t⟩], nextOpen := if b.nextOpen.isNone then some t else b.nextOpen })
    else if f.attempt.toNat < b.attempt then creditFrame q f s
    else
      let s := s.modBucket n (fun b => { b with
        heard := if b.heard.contains q then b.heard else q :: b.heard
        winOpen := if b.winOpen.isNone then some t else b.winOpen
        hop := Nat.max b.hop f.hop.toNat })
      let tree := bTree s b
      let dir := dirOf s b q
      let c := sched s b dir (f.hop.toNat + 1)
      let key := if tree then q else inKey dir c
      let whole := if tree then Nat.max 1 (bBlocks s b) else halfCount s b dir c
      let h := if tree then (0, bBlocks s b) else halfOf s b dir c
      let nb := if f.empty then whole else ((frameBlocks b f).take (h.1 + h.2 - f.offset.toNat)).length
      let s := s.modBucket n (fun b => { b with seen := modCount b.seen key nb })
      let s := if whole ≤ mget 0 (s.bucket n).seen key ∧ !b.lateParts.contains key then
          s.modBucket n (fun b => { b with arrived := key :: b.arrived }) else s
      if b.lateParts.contains key then
        let first := if tree then 0 else (chunk s b c).1
        creditFrame q f (s.modBucket n (fun b => b.gotBooked key nb (first + f.offset.toNat)
          (if f.empty then [] else ((frameBlocks b f).take nb).map (dequant f.fmt.toNat))))
      else if tree then
        let vals := if f.empty then (upTo (bBlocks s b)).map (fun j => (j, List.replicate 32 (0 : Word)))
          else ((frameBlocks b f).take nb).zipIdx.map (fun e => (f.offset.toNat + e.2, dequant f.fmt.toNat e.1))
        let s := forEach vals (fun e s => treeAdd n q e.1 e.2 s) s
        treePump n fuel (creditFrame q f (s.modBucket n (fun b => { b with sat := b.sat || f.sat })))
      else mergeFrame n q tContrib f fuel s
  termination_by structural fuel _ => fuel

/-- A trailer (R299, R302). -/
def onTrailer (n q : Nat) (f : Frame) : Nat → State → State
  | 0, s => s
  | fuel + 1, s =>
    let b := s.bucket n
    let lateL := leNat (f.payload.take 2)
    let lateU := leNat ((f.payload.drop 2).take 2)
    let sat := leNat ((f.payload.drop 4).take 1) % 2 == 1
    if b.attempt < f.attempt.toNat then
      s.modBucket n (fun b => { b with held := b.held ++ [⟨q, tTrailer, f, some s.aon.toNat⟩] })
    else if f.attempt.toNat < b.attempt then creditFrame q f s
    else if bTree s b then
      let s := creditFrame q f s
      let s := forEach (topoChildren s b.topo) (fun r s => forward n r tTrailer f s) s
      if sat && !b.wireBf then nextAttempt n fuel s
      else treeDone n (s.modBucket n (fun b => { b with total := (lateL, lateU), trailerSent := true }))
    else
      let dir := dirOf s b q
      let origin := sched s b dir f.hop.toNat
      let s := creditFrame q f s
      let s := s.modBucket n (fun b => { b with
        heard := if b.heard.contains q then b.heard else q :: b.heard
        trailers := b.trailers ++ [(dir, origin, lateL, lateU, sat)] })
      let s := if f.hop.toNat + 2 < bD s b then forward n (topoDn s b.topo dir) tTrailer f s else s
      ringDecide n fuel s
  termination_by structural fuel _ => fuel

/-- Frames that waited are taken again (R303, R305). -/
def retryHeld (n : Nat) : Nat → State → State
  | 0, s => s
  | fuel + 1, s =>
    let hs := (s.bucket n).held
    forEach hs (fun e s =>
      match e.ahead with
      | some t => if e.typ = tContrib then onContrib n e.port t e.frame fuel s else onTrailer n e.port e.frame fuel s
      | none => mergeFrame n e.port e.typ e.frame fuel s) (s.modBucket n (fun b => { b with held := [] }))
  termination_by structural fuel _ => fuel

/-- The window closes (R304, R305): what has not arrived is late. -/
def windowClose (n : Nat) : Nat → State → State
  | 0, s => s
  | fuel + 1, s =>
    let b := s.bucket n
    let s := s.modBucket n (fun b => { b with winClosed := true })
    let localLate := !b.contrib
    let s := if localLate then
        s.modBucket n (fun b => { b with localLate := true, late := (1, b.late.2) }.wantBooked localKey 1)
      else s
    let backed := fun (q : Nat) => localLate && decide (vcShare s q (topoVc s b.topo) < 33 + heldFlits s q (topoVc s b.topo))
    let s := retryHeld n fuel (startLocal n fuel s)
    let s :=
      if bTree s b then
        forEach ((topoChildren s b.topo).filter (fun q => !b.arrived.contains q && !backed q)) (fun q s =>
          let left := Nat.max 1 (bBlocks s b) - mget 0 (s.bucket n).seen q
          s.modBucket n (fun b => { b with lateParts := q :: b.lateParts, late := (b.late.1, b.late.2 + 1) }.wantBooked q left)) s
      else
        forEach (topoDirs s b.topo) (fun dir s =>
          forEach ((upTo (bD s b)).drop 1) (fun k s =>
            let c := sched s b dir k
            let key := inKey dir c
            let q := topoUp s b.topo dir
            let h := halfOf s b dir c
            let seen := mget 0 (s.bucket n).seen key
            if halfCount s b dir c ≤ seen ∨ backed q ∨ !(s.bucket n).opened then s
            else
              let left := halfCount s b dir c - seen
              let s := s.modBucket n (fun b =>
                { b with lateParts := key :: b.lateParts, late := (b.late.1, b.late.2 + 1) }.wantBooked key left)
              let ghost := bFrame s (s.bucket n) (h.1 + seen) 0 (k - 1) false true []
              mergeFrame n q 0x20 { ghost with empty := true } fuel s) s) s
    if bTree s b then treePump n fuel s else s
  termination_by structural fuel _ => fuel

/-- A window whose closing tick has come by tick t closes before anything else is judged (R304). -/
def windowDue (n t : Nat) : Nat → State → State
  | 0, s => s
  | fuel + 1, s =>
    let b := s.bucket n
    match b.winOpen with
    | some w => if b.opened ∧ b.reduces ∧ !b.winClosed ∧ b.win ≠ 0 ∧ w + b.win ≤ t then windowClose n fuel s else s
    | none => s
  termination_by structural fuel _ => fuel

end

end Sys2Proof.Machine
end

