-- ==== Sys2Proof/Machine/Buckets.lean ====
section
/-!
DEFINITION. The XCH slot and the commands of a port that act on buckets (R118, R288–R291, R296, R297, R299–R307, R310):
OPEN, CONTRIB, SEND, BREADY, the received frames, the straggler window and the ledger copy.
-/

namespace Sys2Proof.Machine

/-- Fuel of the merge unit: more than the longest chain of steps that one frame sets off (five attempts). -/
def mergeFuel : Nat := 256

/-- The eight words of an exchange descriptor, HIST and LEDG clamped into the window (R219, R313); the flag says how many
of these were clamped. -/
def xdescWords (s : State) (p d : Nat) : List Nat × Nat :=
  let q := s.part p
  let r := fun j => q.reg (0x4000 + 8 * d + j)
  let b : Bucket := { bucket0 with owner := p, desc := (upTo 8).map r }
  let own := (ownedBlocks s b).2
  let hc := windowClamp s p (r 5) (1 + b.depth * cdiv own 64)
  let lc := windowClamp s p (r 6) (2 * cdiv (bCount s b) 16)
  let red := b.reduces
  ((upTo 8).map (fun j => if red && j == 5 then hc.1 else if red && j == 6 then lc.1 else r j),
    if red then b2n hc.2.2 + b2n lc.2.2 else 0)

/-- Fields of a descriptor that are taken as others (R313). -/
def xdescClamps (s : State) (p : Nat) (w : List Nat) : Nat :=
  let b : Bucket := { bucket0 with owner := p, desc := w }
  let w0 := nth 0 w 0
  let f := fun (i : Nat) (c : Bool) => b2n c * (if i < 8 then 1 else 0)
  f 0 (fld w0 5 2 == 3) + f 0 (2 ≤ fld w0 7 2) + f 0 (fld w0 19 4 == 0 || decide (8 < fld w0 19 4))
    + f 0 (fld w0 23 8 == 0 || fld w0 23 8 == 255) + f 2 (fld (nth 0 w 2) 0 34 % 32 != 0)
    + f 3 (!b.raw && bCount s b != b.ec)

/-- The first XCH that uses a descriptor after it was written counts its clamps (R313, R219). -/
def xdescUse (p d : Nat) (s : State) : State :=
  let used := (upTo 8).filter (fun j => (s.part p).isFresh (0x4000 + 8 * d + j))
  if used = [] then s
  else
    let w := xdescWords s p d
    let s := forEach (upTo w.2) (fun _ s => clamp p 6 s) s
    let s := forEach (upTo (xdescClamps s p w.1)) (fun _ s => clamp p 7 s) s
    forEach used (fun j s => useReg p (0x4000 + 8 * d + j) s) s

/-- An agreed scale byte is placed at SCSPA of the tile that holds the block's elements (R292, R296). -/
def placeScale (n j : Nat) (v : Byte) (s : State) : State :=
  let b := s.bucket n
  let t := Nat.max 1 (bTb s b)
  let x := 32 * j
  let s := writeTile b.owner 0 .scratch (nth 0 (bTiles s b) (x / t)) ((64 * b.scspa + x % t / 32) % 8388608) [(true, v)] 2 false s
  s.modBucket n (fun b => { b with scales := mset none b.scales j (some v) })

/-- The scale bytes of the blocks this device owns, from its history (R295, R296). -/
def ownScales (s : State) (b : Bucket) : List Byte × Bool :=
  let o := ownedBlocks s b
  let len := cdiv o.2 64
  let head := (partRead 0 b.owner b.histLine s).2
  let cnt := Nat.min 16 (leNat (head.1.take 1))
  let recs := (upTo cnt).map (fun i => (partReadN 0 b.owner (b.histLine + 1 + i * len) len s).2)
  ((upTo o.2).map (fun i =>
    let h := maxL (recs.map (fun r => leNat ((r.1.drop i).take 1)))
    let h := if h = 0 then b.initexp else h
    BitVec.ofNat 8 (clampNat 0 254 (h + b.margin - 7))), head.2 || recs.any (·.2))

/-- The owner sets the scales of its blocks and sends them, 1,024 bytes a frame (R296): on a ring each half in its direction (log
entry 25); past its last scale the last frame holds zeros. -/
def openScales (n : Nat) (s : State) : State :=
  let b := s.bucket n
  let o := ownedBlocks s b
  if !b.reduces ∨ o.2 = 0 then s
  else
    let r := ownScales s b
    let s := if r.2 then partFault b.owner 3 0x30 6 s else s
    let s := r.1.zipIdx.foldl (fun s e => placeScale n (o.1 + e.2) e.1 s) s
    let send := fun (q off : Nat) (bs : List Byte) (s : State) =>
      forEach (upTo (cdiv bs.length 1024)) (fun i s =>
        outFrame n q tOpen (bFrame s (s.bucket n) (off + 1024 * i) 0 0 false (decide (cdiv bs.length 1024 = i + 1))
          (padTo 1024 ((bs.drop (1024 * i)).take 1024))) s) s
    if bTree s b then forEach (topoChildren s b.topo) (fun q s => send q 0 r.1 s) s
    else if bD s b = 1 then s
    else forEach (topoDirs s b.topo) (fun dir s =>
      let h := halfOf s b dir (bRank s b)
      send (topoDn s b.topo dir) h.1 ((r.1.drop h.1).take h.2) s) s

/-- BREADY goes out on the ports of a bucket's topology that pass a test (R297). -/
def sendBready (n : Nat) (f : Nat → Bool) (s : State) : State :=
  let b := s.bucket n
  forEach ((topoPorts s b.topo).filter f) (fun q s =>
    sendFlit q tBready (breadyBits (topoVc s b.topo) b.tag.toNat (topoJob s b.topo) b.step.toNat) s) s

/-- Bytes of a SEND land in the receiver's tiles (R310): byte x of the transfer belongs to tile rank x div EC (log entry 28). -/
def sendBytes (n : Nat) (f : Frame) (s : State) : State :=
  let b := s.bucket n
  let tot := bN s b * b.ec
  let x0 := 1024 * f.offset.toNat
  let bs := f.payload.take (tot - x0)
  let s := bs.zipIdx.foldl (fun s e =>
    let x := x0 + e.2
    writeTile b.owner 0 .scratch (nth 0 (bTiles s b) (x / Nat.max 1 b.ec)) ((64 * b.dspa + x % Nat.max 1 b.ec) % 8388608)
      [(true, e.1)] 2 false s) s
  let s := s.modBucket n (fun b => { b with received := b.received + bs.length })
  if tot ≤ (s.bucket n).received then bucketDone n s else s

/-- OPEN takes effect (R289, R291, R296, R297). -/
def openBucket (p n : Nat) (sl : XchSlot) (desc : List Nat) (s : State) : State :=
  let old := s.bucket n
  if old.opened then clamp p 7 s
  else
    let job := BitVec.ofNat 16 (topoJob s (fld (nth 0 desc 0) 2 3))
    let s := forEach (upTo 6) (fun q s => s.modPort q (fun x => { x with
      ready := x.ready.filter (fun r => r != (old.tag, job, old.step)) })) s
    let s := s.modBucket n (fun _ => { bucket0 with
      step := old.step + 1, opened := true, tag := sl.tag, owner := p, gen := (s.part p).gen, desc := desc, ledgers := old.ledgers })
    let s := openScales n (sendBready n (fun _ => true) s)
    if (s.bucket n).kind ≠ 0 then s
    else
      let step := (s.bucket n).step
      let mine := fun (e : Nat × Frame) => e.2.job == job && e.2.tag == sl.tag && e.2.step == step
      let es := s.pcl.early.filter mine
      forEach es (fun e s => creditFrame e.1 e.2 (if (s.bucket n).opened then sendBytes n e.2 s else s))
        (s.modPcl (fun x => { x with early := x.early.filter (fun e => !mine e) }))

/-- Is a ledger entry of the other parity ready to be folded (R307). -/
def foldable (b : Bucket) : Option Nat :=
  let h := 1 - b.step.toNat % 2
  match mget none b.ledgers h with
  | some l => if b.fold && l.ready && l.tag == b.tag then some h else none
  | none => none

/-- Is a line of a ledger entry poisoned. -/
def ledgerPois (s : State) (b : Bucket) (h : Nat) : Bool :=
  match mget none b.ledgers h with
  | some l => l.ranges.any (fun r => (partReadN 0 b.owner (ledgerLine s b h r.1) (cdiv (r.2 - r.1) 16) s).2.2)
  | none => false

/-- CONTRIB takes effect (R291, R304–R307). -/
def contribBucket (p n : Nat) (sl : XchSlot) (s : State) : State :=
  let s := windowDue n s.aon.toNat mergeFuel s
  let b := s.bucket n
  if !b.opened ∨ b.contrib ∨ b.kind = 0 then clamp p 7 s
  else
    let s := s.modBucket n (fun b => { b with
      contrib := true, spa := sl.spa.toNat, copying := b.localLate
      winOpen := if b.winOpen.isNone && b.reduces then some s.aon.toNat else b.winOpen })
    if b.kind = 2 then
      (if bTree s b then s else gatherStart n s)
    else
      let h := foldable b
      let s := match h with
        | some h => if ledgerPois s b h then partFault p 6 0x30 6 s else s
        | none => s
      let s := s.modBucket n (fun b => { b with folded := h })
      if b.localLate then s else retryHeld n mergeFuel (startLocal n mergeFuel s)

/-- The blocks of a rank's chunk of an all-gather leave this node: to the parent, and to each child whose subtree lacks them
(R302; log entry 29). -/
def gatherSpread (n from_ : Nat) (send : Nat → State → State) (s : State) : State :=
  let b := s.bucket n
  let up := if topoDn s b.topo 0 = 7 then [] else [topoDn s b.topo 0]
  forEach ((up ++ topoChildren s b.topo).filter (fun q => q != from_)) send s

/-- A tree's all-gather starts with the own chunk. -/
def treeGather (n : Nat) (s : State) : State :=
  let b := s.bucket n
  let c := chunk s b (bRank s b)
  let bl := (upTo c.2).map (fun i => (gatherBytes s b (c.1 + i), false))
  let s := bl.zipIdx.foldl (fun s e => (upTo 32).foldl (fun s i =>
    let x := 32 * (c.1 + e.2) + i
    if x < bCount s b then putElem n x ((e.1.1.drop (b.osize * i)).take b.osize) s else s) s) s
  let s := gatherSpread n 8 (fun q s => packFrames n q tGather 0 0 c.1 (c.1 + c.2) false bl s) s
  let s := s.modBucket n (fun b => { b with gathered := modCount b.gathered 0 c.2 })
  if bBlocks s b ≤ mget 0 (s.bucket n).gathered 0 then bucketDone n s else s

/-- SEND takes effect (R310): EC bytes of each tile, in frames of up to 1,024 bytes, down the ring. On a slot that is not
open for a send it has no effect (log entry 30). -/
def sendBucket (n : Nat) (data : List (List Byte)) (s : State) : State :=
  let b := s.bucket n
  if !b.opened ∨ b.kind ≠ 0 ∨ b.contrib then s
  else
    let bs := data.flatten
    let s := s.modBucket n (fun b => { b with contrib := true })
    let cnt := Nat.max 1 (cdiv bs.length 1024)
    forEach (upTo cnt) (fun i s =>
      let f := bFrame s b i 0 0 false (decide (i + 1 = cnt)) ((bs.drop (1024 * i)).take 1024)
      sendFrame (topoDn s b.topo 0) tSend { f with dst := BitVec.ofNat 24 b.peer } s) s

/-- The sender's slot completes when its link has acknowledged the last frame (R310). -/
def sendsAcked (s : State) : State :=
  forEach (s.pcl.buckets.map (·.1)) (fun n s =>
    let b := s.bucket n
    if b.opened ∧ b.kind = 0 ∧ b.acked then bucketDone n s else s) s

/-- An XCH of a partition takes effect, its gate committed (R291, R312). The first element of the data is the descriptor, the
rest the bytes of each tile as they stood at issue. -/
def xchAct (p : Nat) (sl : XchSlot) (data : List (List Byte)) (s : State) : State :=
  let n := slotBase s p + sl.bslot.toNat
  let desc := toWords (nth [] data 0)
  if sl.op = 1 then sendBucket n (data.drop 1) s
  else if sl.op = 2 then openBucket p n sl desc s
  else
    let opened := (s.bucket n).opened && !(s.bucket n).contrib
    let s := contribBucket p n sl s
    let b := s.bucket n
    if opened && b.kind = 2 && bTree s b then treeGather n s else s

/-- An OPEN waits while the late local input of the slot's last bucket is being copied (R306), and what the program has
issued for the slot after it waits behind it. -/
def xchEffect (p : Nat) (sl : XchSlot) (data : List (List Byte)) (s : State) : State :=
  let n := slotBase s p + sl.bslot.toNat
  let b := s.bucket n
  if b.waits ≠ [] ∨ (sl.op = 2 ∧ b.copying ∧ !b.opened) then s.modBucket n (fun b => { b with waits := b.waits ++ [(sl, data)] })
  else xchAct p sl data s

/-- Scratchpad lines that an XCH reads in each tile. -/
def xchLines (s : State) (b : Bucket) (sl : XchSlot) : List (Nat × Nat) :=
  let per := if sl.op = 1 then b.ec else bTb s b * b.size
  let ls := (upTo (cdiv per 64)).map (fun i => spLine (sl.spa.toNat + i))
  (bTiles s b).flatMap (fun t => ls.map (fun l => (t, l)))

/-- Bytes that an XCH sends or contributes, over the partition's tiles (R128). -/
def xchSize (s : State) (b : Bucket) (sl : XchSlot) : Nat :=
  if sl.op = 2 then 0 else if sl.op = 1 then bN s b * b.ec else bN s b * bTb s b * b.size

/-- The XCH slot, in the bundle's first cycle (R118, R288, R290, R313). Under run-ahead it waits in the commit queue with the
bytes it sends (R127, R130). Poison in what it reads is consumed (R254). -/
def xchSlot (p : Nat) (sl : XchSlot) (s : State) : State :=
  if sl.op = 0 then s
  else if 4 ≤ sl.op.toNat ∨ slotCount s p ≤ sl.bslot.toNat then clamp p 7 s
  else
    let d := sl.desc.toNat
    let first := (s.part p).isFresh (0x4000 + 8 * d)
    let s := xdescUse p d s
    let w := (xdescWords s p d).1
    let b : Bucket := { bucket0 with owner := p, desc := w }
    if topoKind s b.topo = 0 ∨ topoOwner s b.topo ≠ p then (if first then clamp p 7 s else s)
    else
      let lines := if sl.op = 2 then [] else xchLines s b sl
      let tiles := if sl.op = 1 then (bTiles s b).map (fun t =>
        (upTo b.ec).map (fun i => rd8 (s.tile t).scratch ((64 * sl.spa.toNat + i) % 8388608))) else []
      let s := if lines.any (fun e => (s.tile e.1).pois .scratch e.2) then consumeAt p (s.seq p).gid 6 s else s
      let data := words w :: tiles
      if (s.seq p).gates = [] then xchEffect p sl data s
      else cqPush p (Nat.max 1 (cdiv (xchSize s b sl) 512)) (.xch sl data false) s

/-! Commands of the ports. -/

/-- The open slot of a topology's job that a frame belongs to (R289). -/
def findSlot (s : State) (k : Nat) (f : Frame) : Option Nat :=
  let p := topoOwner s k
  ((upTo (slotCount s p)).map (fun i => slotBase s p + i)).find? (fun n =>
    let b := s.bucket n
    b.opened && b.owner == p && b.topo == k && b.tag == f.tag && b.step == f.step)

/-- The ledger entry of a bucket that is over (R306). -/
def findLedger (s : State) (k : Nat) (f : Frame) : Option (Nat × Nat) :=
  let p := topoOwner s k
  ((upTo (slotCount s p)).flatMap (fun i => [(slotBase s p + i, 0), (slotBase s p + i, 1)])).find? (fun e =>
    match mget none (s.bucket e.1).ledgers e.2 with
    | some l => l.tag == f.tag && l.step == f.step && fld (nth 0 l.desc 0) 2 3 == k && l.wants != []
    | none => false)

/-- A CONTRIB frame of a bucket that is over: late data (R305, R306). -/
def lateContrib (n h q : Nat) (f : Frame) (s : State) : State :=
  match mget none (s.bucket n).ledgers h with
  | none => s
  | some l =>
    let b0 := s.bucket n
    let b : Bucket := { b0 with desc := l.desc }
    let tree := bTree s b
    let dir := dirOf s b q
    let c := sched s b dir (f.hop.toNat + 1)
    let first := if tree then 0 else (chunk s b c).1
    let bl := (frameBlocks b f).map (dequant f.fmt.toNat)
    let whole := if tree then Nat.max 1 (bBlocks s b) else halfCount s b dir c
    let s := if f.empty then s else ledgerData n h (first + f.offset.toNat) bl s
    ledgerGot n h (if tree then q else inKey dir c) (if f.empty then whole else bl.length) s

/-- What a received bucket frame is given to. -/
def rxBucket (q typ : Nat) (f : Frame) (act : Nat → Nat → State → State) (s : State) : State :=
  let r := rxAccept q typ f s
  if !r.2 then r.1
  else match topoAt r.1 q f.vc.toNat with
    | none => creditFrame q f r.1
    | some k => match findSlot r.1 k f with
      | some n => act n k r.1
      | none => match findLedger r.1 k f with
        | some (n, h) => creditFrame q f (if typ = tContrib then lateContrib n h q f r.1 else r.1)
        | none => creditFrame q f r.1

/-- OPEN (R296): the scale bytes, up to the end of what runs in the frame's direction, are placed and forwarded; what waited for them
goes on. -/
def rxOpen (q : Nat) (f : Frame) (s : State) : State :=
  rxBucket q tOpen f (fun n _ s =>
    let b := s.bucket n
    let dir := dirOf s b q
    let c := sched s b dir f.hop.toNat
    let h := halfOf s b dir c
    let range := if bTree s b then (0, bBlocks s b) else ((chunk s b c).1, h.1 + h.2)
    let bs := f.payload.take (range.2 - f.offset.toNat)
    let s := creditFrame q f s
    let s := s.modBucket n (fun b => { b with heard := if b.heard.contains q then b.heard else q :: b.heard })
    let s := bs.zipIdx.foldl (fun s e => placeScale n (range.1 + f.offset.toNat + e.2) e.1 s) s
    let s := if bTree s b then forEach (topoChildren s b.topo) (fun r s => forward n r tOpen f s) s
      else if f.hop.toNat + 2 < bD s b then forward n (topoDn s b.topo dir) tOpen f s else s
    retryHeld n mergeFuel (startLocal n mergeFuel s)) s

/-- Is a delivered sum in OUTF NaN or infinite: its exponent is all ones (R314). -/
def outNonfin (bs : List Byte) : Bool := leNat bs / 2 ^ (8 * bs.length - 9) % 256 == 255

/-- GATHER (R301, R302): placed, counted (R314) and forwarded. -/
def rxGather (q : Nat) (f : Frame) (s : State) : State :=
  rxBucket q tGather f (fun n _ s =>
    let b := s.bucket n
    let tree := bTree s b
    let dir := dirOf s b q
    let c := sched s b dir f.hop.toNat
    let h := halfOf s b dir c
    let base := if tree then 0 else (chunk s b c).1
    let room := (if tree then bBlocks s b else h.1 + h.2) - f.offset.toNat
    let bl := (frameBlocks b f).take room
    let own := chunk s b (bRank s b)
    let s := creditFrame q f s
    let s := s.modBucket n (fun b => { b with heard := if b.heard.contains q then b.heard else q :: b.heard })
    let s := bl.zipIdx.foldl (fun s e =>
      let j := base + f.offset.toNat + e.2
      (upTo 32).foldl (fun s i =>
        let x := 32 * j + i
        let v := (e.1.drop (b.osize * i)).take b.osize
        let count := fun (s : State) =>
          if b.kind ≠ 2 ∧ outNonfin v then s.modBucket n (fun b => { b with nonfin := Nat.min 0xFFFF (b.nonfin + 1) }) else s
        if bCount s b ≤ x then s
        else if b.kind = 1 then (if own.1 ≤ j ∧ j < own.1 + own.2 then putShard n x v (count s) else s)
        else putElem n x v (count s)) s) s
    if tree then
      let s := s.modBucket n (fun b => { b with gathered := modCount b.gathered 0 bl.length })
      if b.kind = 2 then
        let s := gatherSpread n q (fun r s => forward n r tGather f s) s
        if bBlocks s b ≤ mget 0 (s.bucket n).gathered 0 then bucketDone n s else s
      else
        let rank := (b.eb + 32 * f.offset.toNat) / Nat.max 1 (bShard s b)
        let s := forEach ((topoChildren s b.topo).filter (fun r =>
          b.kind == 3 || (decide (topoLo s b.topo r ≤ rank) && decide (rank ≤ topoHi s b.topo r))))
          (fun r s => forward n r tGather f s) s
        treeDone n s
    else
      let s := s.modBucket n (fun b => { b with gathered := modCount b.gathered (inKey dir c) bl.length })
      let s := if f.hop.toNat + 2 < bD s b then forward n (topoDn s b.topo dir) tGather f s else s
      gatherDone n s) s

/-- SEND (R310): forwarded down the ring until its HOP would reach 0xFFFF, or written to the receiver's tiles; before the receiver's slot is open it is held
(R291). -/
def rxSend (q : Nat) (f : Frame) (s : State) : State :=
  let r := rxAccept q tSend f s
  if !r.2 then r.1
  else match topoAt r.1 q f.vc.toNat with
    | none => creditFrame q f r.1
    | some k =>
      if f.dst ≠ r.1.pcl.id then
        (if 0xFFFE ≤ f.hop.toNat then badJob q (creditFrame q f r.1)
         else sendFrame (topoDn r.1 k 0) tSend { f with hop := f.hop + 1 } (creditFrame q f r.1))
      else match findSlot r.1 k f with
        | some n =>
          let s := r.1.modBucket n (fun b => { b with heard := if b.heard.contains q then b.heard else q :: b.heard })
          creditFrame q f (if (s.bucket n).kind = 0 then sendBytes n f s else s)
        | none => r.1.modPcl (fun x => { x with early := x.early ++ [(q, f)] })

/-- BREADY (R297): frames that waited for it leave. -/
def rxBready (q tag job step : Nat) (s : State) : State :=
  let tag : Half := BitVec.ofNat 16 tag
  let job : Half := BitVec.ofNat 16 job
  let step : Half := BitVec.ofNat 16 step
  if (s.port q).state ≠ 3 then s
  else
    let s := (rxWake q s).modPort q (fun x => { x with
      ready := if x.ready.contains (tag, job, step) then x.ready else x.ready ++ [(tag, job, step)] })
    forEach (s.pcl.buckets.map (·.1)) (fun n s =>
      let b := s.bucket n
      if b.opened ∧ b.tag = tag ∧ b.step = step ∧ topoJob s b.topo = job.toNat then
        let go := b.outq.filter (fun e => e.1 == q)
        forEach go (fun e s => sendFrame e.1 e.2.1 e.2.2 s)
          (s.modBucket n (fun b => { b with outq := b.outq.filter (fun e => e.1 != q) }))
      else s) s

/-- LEDGER_COPY_DONE (R306): the late local input stands in the ledger; an OPEN that waited takes effect, and what waited
behind it. -/
def ledgerCopied (p n : Nat) (s : State) : State :=
  let b := s.bucket n
  if !b.copying then s
  else
    let h := b.step.toNat % 2
    let plain : Bucket := { b with folded := none }
    let bl := (upTo (bBlocks s b)).map (localBlock s plain)
    let s := s.modBucket n (fun b => { b with copying := false })
    let s := if b.opened then s.modBucket n (fun b => b.gotBooked localKey 1 0 bl) else ledgerGot n h localKey 1 (ledgerData n h 0 bl s)
    forEach b.waits (fun e s => xchAct p e.1 e.2 s) (s.modBucket n (fun b => { b with waits := [] }))

/-- A partition's slot by its number within the partition (R288). -/
def slotOfPart (s : State) (p i : Nat) : Option Nat := if i < slotCount s p then some (slotBase s p + i) else none

/-- What follows an acknowledgement: sends complete (R310), stagings of a mirrored partition complete (R458). -/
def afterAck (s : State) : State := stageAcked (sendsAcked s)

def execBready (q : PortId) (w : Flit) (s : State) : Res :=
  .next (rxFlit q.toNat tBready 0 w (fun x s => rxBready q.toNat (fld x 80 16) (fld x 96 16) (fld x 112 16) s) s)
/-- BREADY is repeated on the ports from which no frame of the bucket has come (R297). -/
def execBreadyRepeat (p : PartId) (slot : Byte) (s : State) : Res :=
  .next (match slotOfPart s p.toNat slot.toNat with
    | some n => if (s.bucket n).opened then sendBready n (fun q => !(s.bucket n).heard.contains q) s else s
    | none => s)
def execRxSend (q : PortId) (f : Frame) (s : State) : Res := .next (afterAck (rxSend q.toNat f s))
def execRxOpen (q : PortId) (f : Frame) (s : State) : Res := .next (afterAck (rxOpen q.toNat f s))
def execRxContrib (q : PortId) (f : Frame) (s : State) : Res :=
  .next (afterAck (rxBucket q.toNat tContrib f (fun n _ s => onContrib n q.toNat s.aon.toNat f mergeFuel s) s))
def execRxGather (q : PortId) (f : Frame) (s : State) : Res := .next (afterAck (rxGather q.toNat f s))
def execRxTrailer (q : PortId) (f : Frame) (s : State) : Res :=
  .next (afterAck (rxBucket q.toNat tTrailer f (fun n _ s => onTrailer n q.toNat f mergeFuel s) s))
def execStragglerWindowClose (p : PartId) (slot : Byte) (s : State) : Res :=
  .next (match slotOfPart s p.toNat slot.toNat with
    | some n => windowDue n s.aon.toNat mergeFuel s
    | none => s)
def execLedgerCopyDone (p : PartId) (slot : Byte) (s : State) : Res :=
  .next (match slotOfPart s p.toNat slot.toNat with
    | some n => ledgerCopied p.toNat n s
    | none => s)

end Sys2Proof.Machine
end

