-- ==== Sys2Proof/Machine/Control.lean ====
section
/-!
DEFINITION. The bundle as 128 bytes (R99) with the field map of each slot (R47, R66, R100, R104, R107, R113, R118, R147),
the slots of a bundle run through its hold (R103), the control opcodes (R100–R102), and what a bundle is charged under
run-ahead (R128, R129).
-/

namespace Sys2Proof.Machine

/-- A bit vector of a bundle's bits. -/
def bits (n lo w : Nat) : BitVec w := BitVec.ofNat w (fld n lo w)

def decodeCtl (n : Nat) : CtlSlot :=
  ⟨bits n 60 4, bits n 51 9, bits n 47 4, bits n 39 8, bit n 38, bits n 32 6, bits n 26 6, bits n 20 6, bits n 1 19⟩
def decodeScl (n : Nat) : SclSlot := ⟨bits n 58 6, bits n 52 6, bits n 46 6, bits n 40 6, bits n 0 40⟩
def decodeArr (n : Nat) : ArrSlot :=
  ⟨bits n 94 2, bits n 90 4, bits n 86 4, bit n 85, bit n 84, bits n 74 10, bits n 72 2, bits n 60 12, bits n 57 3, bit n 56,
   bits n 39 17, bit n 38, bits n 34 4, bits n 27 7, bits n 21 6⟩
def decodeVec (n : Nat) : VecSlot :=
  ⟨bits n 158 2, bits n 155 3, bits n 151 4, bits n 148 3, bits n 146 2, bits n 136 10, bits n 134 2, bits n 117 17, bits n 113 4,
   bits n 111 2, bits n 94 17, bits n 90 4, bits n 88 2, bits n 84 4, bits n 67 17, bits n 55 12, bits n 52 3, bits n 50 2,
   bits n 33 17, bits n 27 6, bits n 24 3, bit n 23, bits n 20 3, bits n 16 4, bits n 12 4, bits n 10 2⟩
def decodeUpd (n : Nat) : UpdSlot :=
  ⟨bits n 94 2, bits n 90 4, bits n 86 4, bits n 69 17, bits n 52 17, bits n 35 17, bits n 29 6, bits n 23 6⟩
def decodeMov (n : Nat) : MovSlot := ⟨bits n 46 2, bits n 43 3, bits n 38 5, bits n 21 17, bits n 4 17, bits n 0 4⟩
def decodeMem (n : Nat) : MemSlot := ⟨bits n 62 2, bits n 59 3, bits n 54 5, bits n 28 26, bits n 11 17, bits n 3 8⟩
def decodeXch (n : Nat) : XchSlot := ⟨bits n 60 4, bits n 44 16, bits n 39 5, bits n 22 17, bits n 14 8⟩

/-- The slots of a bundle (R99). -/
def decodeBundle (bs : List Byte) : Bundle :=
  let n := leNat bs
  { ctl := decodeCtl (fld n 0 64), scl := decodeScl (fld n 64 64)
    arr := [decodeArr (fld n 128 96), decodeArr (fld n 224 96), decodeArr (fld n 320 96), decodeArr (fld n 416 96)]
    vec := decodeVec (fld n 512 160), upd := decodeUpd (fld n 672 96)
    mov := [decodeMov (fld n 768 48), decodeMov (fld n 816 48)], mem := decodeMem (fld n 864 64), xch := decodeXch (fld n 928 64) }

/-- A bundle of which every slot is a NOP: 128 zero bytes. -/
def nopBundle : Bundle := decodeBundle []

/-- The bundle at the issuing context's program counter. -/
def bundleAt (s : State) (p : Nat) : Bundle := decodeBundle (bundleBytes s p (s.part p).ctx.pc)

/-- HOLD with its clamps (R102). -/
def holdOf (h : BitVec 9) : Nat := if h = 0 then 1 else Nat.min 256 h.toNat
def holdBad (h : BitVec 9) : Bool := h == 0 || decide (256 < h.toNat)

/-- The gate of a bundle: classes 0x8–0xF are none (R102). -/
def hasGate (c : CtlSlot) : Bool := c.gate != 0 && decide (c.gate.toNat < 8)

/-- Slots ARR0–ARR3 with their array numbers. -/
def arrsOf (b : Bundle) : List (Nat × ArrSlot) := b.arr.zipIdx.map (fun e => (e.2, e.1))

/-- What a bundle's slots do once, in its first cycle (R103). `skip` is the s-register that LOOP writes (R101). -/
def slotsOnce (p : Nat) (b : Bundle) (skip : Option SReg) (s : State) : State :=
  let s := arrOnce p (arrsOf b) s
  let s := sclSlot p b.scl skip s
  let s := vecOnce p b.vec s
  let s := updClamps p b.upd s
  let s := if b.upd.op = 3 then swapIssue p (b.upd.gd.setWidth 3) (b.upd.gd.getLsbD 3) s
    else if b.upd.op = 4 then updFclrAll p s else s
  let s := movClamps p b.mov s
  xchSlot p b.xch (memSlot p b.mem s)

/-- What a bundle's slots do in cycle k of its hold of H (R103). -/
def slotsCycle (p : Nat) (b : Bundle) (sc : Nat → DWord) (k H : Nat) (s : State) : State :=
  let s := arrCycle p (arrsOf b) k H s
  let s := vecCycle p b.vec sc k H s
  let s := updCycle p b.upd sc k H s
  forEach b.mov.zipIdx (fun e s => movCycle p (BitVec.ofNat 1 e.2) e.1 k s) s

/-- The slots of a bundle through its hold, from the partition's present cycle u, which the caller has opened for LASTSRC
(R103): a FLIP pauses the acting cycles by 12. The stream then stands at the cycle after the hold. -/
def runSlots (p : Nat) (b : Bundle) (skip : Option SReg) (s : State) : State :=
  let u := now s p
  let H := holdOf b.ctl.hold
  let off := if flipsOf (arrsOf b) = [] then 0 else 12
  let c := (s.part p).ctx
  let sc (r : Nat) : DWord := c.sreg r
  let s := slotsOnce p b skip s
  let s := forEach (upTo H) (fun k s =>
    let s := if k = 0 ∧ off = 0 then s else clampCycle p true (advanceHold p (u + off + k) s)
    slotsCycle p b sc k H s) s
  clampCycle p false (advance p (u + off + H) s)

/-- Where a control opcode goes on (R100–R102): the next bundle index (`none`: the program ends), the return stack, the
clamps, whether it is a taken branch, a call or a return (R101), and what LOOP writes. -/
def copNext (c : Ctx) (ctl : CtlSlot) : Option Nat × List Nat × Nat × Bool × Option DWord :=
  let inside (i : Nat) : Option Nat := if c.lo ≤ i ∧ i < c.hi then some i else none
  let out (i : Nat) : Nat := b2n (inside i).isNone
  let next (extra : Nat) (w : Option DWord) := (inside (c.pc + 1), c.stack, extra + out (c.pc + 1), false, w)
  let t := ctl.target.toNat
  let jump (st : List Nat) (extra : Nat) (w : Option DWord) := (inside t, st, extra + out t, true, w)
  let v := c.sreg ctl.creg.toNat
  match ctl.cop.toNat with
  | 1 => jump c.stack 0 none
  | 2 => if v = 0 then next 0 none else jump c.stack 0 none
  | 3 => if v = 0 then jump c.stack 0 none else next 0 none
  | 4 => if v - 1 = 0 then next 0 (some (v - 1)) else jump c.stack 0 (some (v - 1))
  | 5 => if 16 ≤ c.stack.length then jump c.stack 1 none else jump ((c.pc + 1) :: c.stack) 0 none
  | 6 => match c.stack with
    | [] => next 1 none
    | r :: st => (inside r, st, out r, true, none)
  | 7 => (none, c.stack, 0, false, none)
  | 0 => next 0 none
  | _ => next 1 none

/-- Does a bundle end its program (R102). -/
def copEnds (c : Ctx) (ctl : CtlSlot) : Bool := (copNext c ctl).1.isNone

/-- Run a bundle whose gate has resolved or been predicted: its slots, then its control opcode (R100–R103). -/
def runBundle (p : Nat) (b : Bundle) (s : State) : State :=
  let q := s.part p
  let c := q.ctx
  let r := copNext c b.ctl
  let inB := q.seq.ctxB
  let s := s.modSeq p (fun x => { x with lastPc := c.pc, quietAt := x.cyc + 16, stall := none, heldFlip := none, heldLoad := none })
  let s := s.modCtx p inB (fun c => { c with nissued := c.nissued + 1 })
  let s := forEach (upTo (b2n (holdBad b.ctl.hold) + b2n (decide (8 ≤ b.ctl.gate.toNat)) + r.2.2.1)) (fun _ s => clamp p 4 s)
    (clampCycle p true s)
  let s := match r.2.2.2.2 with
    | some v => launch p (now s p + 1) (.sreg inB b.ctl.creg v) s
    | none => s
  let s := runSlots p b (r.2.2.2.2.map (fun _ => b.ctl.creg)) s
  let s := if r.2.2.2.1 ∧ holdOf b.ctl.hold = 1 ∧ r.1.isSome then advance p (now s p + 1) s else s
  let s := s.modCtx p inB (fun c => { c with pc := r.1.getD c.pc, stack := r.2.1 })
  let s := if b.upd.op = 3 then swapEnd p (b.upd.gd.setWidth 3) (b.upd.gd.getLsbD 3) (q.seq.gates ≠ []) s else s
  if r.1.isNone then endProgram p s else s


/-! What a bundle is charged under run-ahead (R128). -/

def segsOf (b : Nat) : Nat := if b = 0 then 0 else cdiv b 256 + 1

/-- The most bytes that a VEC slot can write in a tile over a hold of H (R72, R80, R82, R87): whole vectors to each
destination with their MX scales, or a reduction's records; a drained tally slot. -/
def vecWrites (s : State) (q : Part) (sl : VecSlot) (H : Nat) : Nat :=
  let f := vecFmt sl.dfmt.toNat
  let vec := if 14 ≤ sl.dfmt.toNat then 0 else H * (vecBytes f + (if f.isMx then 4 else 0))
  let toSp := b2n (sl.dst.getLsbD 0)
  let toLb := b2n (sl.dst.getLsbD 1)
  if vecNop sl then 0
  else if sl.op = 1 then
    let last := match (chainRuns q sl.ch.toNat).getLast? with | some x => x.sop | none => 0
    if sopReduce last then
      let words := if last = 0x31 then 4 else if last = 0x2C ∨ last = 0x2D then 2 else 1
      (if sl.rdir then 0 else toSp * (H / 2 ^ sl.rgrp.toNat * 4 * words)) + toLb * vec
    else (toSp + toLb) * vec
  else if sl.op = 3 then maxL (q.tiles.map (fun t => (drainBytes (s.tally t sl.tsl.toNat)).1.length))
  else 0

/-- Segments that a bundle can consume in any one tile (R128). -/
def segCharge (s : State) (p : Nat) (b : Bundle) : Nat :=
  let q := s.part p
  let H := holdOf b.ctl.hold
  let upd := if b.upd.op = 1 ∨ b.upd.op = 2 then
      let g := q.reg (0x3090 + b.upd.gd.toNat)
      segsOf (H * (64 * recLen g + copyBytes g))
    else 0
  let mov (m : MovSlot) := if movRuns q m then
      let d := q.reg (0x40 + m.desc.toNat)
      let n := (q.tiles.filter (fun t => (mvRoute q d t).isSome)).length
      segsOf (64 * H * (if bit d 22 then n else Nat.min 1 n)) else 0
  let mem := if b.mem.op = 1 ∨ b.mem.op = 3 ∨ b.mem.op = 4 then segsOf (64 * memLen (memDesc q b.mem)) else 0
  (if b.scl.sopc = 0x1C ∧ q.hasTile (sldTile b.scl.imm) then segsOf 8 else 0) + sumL (b.arr.map (fun a => if a.op = 5 then segsOf (256 * H) else 0))
    + segsOf (vecWrites s q b.vec H) + upd + sumL (b.mov.map mov) + mem

/-- Commit-queue entries that a bundle can consume (R128). -/
def entryCharge (s : State) (p : Nat) (b : Bundle) : Nat :=
  let q := s.part p
  let mem := if b.mem.op = 2 then Nat.max 1 (cdiv (64 * memLen (memDesc q b.mem) * q.tiles.length) 512) else 0
  let sst := if b.scl.sopc = 0x1C ∧ (completionSlot q (sldTile b.scl.imm) (sldLine b.scl.imm) (fld b.scl.imm.toNat 24 3)).isSome then 1 else 0
  let xch := if b.xch.op = 0 ∨ 4 ≤ b.xch.op.toNat then 0 else
    let bk : Bucket := { bucket0 with owner := p, desc := (xdescWords s p b.xch.desc.toNat).1 }
    Nat.max 1 (cdiv (xchSize s bk b.xch) 512)
  mem + sst + xch + (if b.upd.op = 3 then 1 else 0)

/-- Does a bundle carry a slot of a pass whose policy is HALT (R121). -/
def haltsPass (c : Ctx) (b : Bundle) : Bool :=
  let stops (pt : PassTag) (act : Bool) : Bool := act && pt != 0 && c.ptpol.getLsbD (pt.toNat - 1)
  b.arr.any (fun a => stops a.pt (a.op != 0)) || stops b.vec.pt (b.vec.op != 0) || stops b.upd.pt (b.upd.op != 0)
    || b.mov.any (fun m => stops m.pt (m.op != 0)) || stops b.mem.pt (b.mem.op != 0)

/-- Does run-ahead stop before a bundle for its slots (R121, R129): a pass whose policy is HALT, an RWR. -/
def stopsFor (c : Ctx) (b : Bundle) : Bool := haltsPass c b || b.scl.sopc == 0x19

/-- Does run-ahead stop before a bundle for what the bundle itself holds (R121, R129). -/
def stopsAhead (c : Ctx) (b : Bundle) : Bool := stopsFor c b || copEnds c b.ctl

/-- Does run-ahead stop before a bundle while gates are unresolved (R129): limits counted from the oldest of them,
its own bundle included. -/
def limitsAhead (s : State) (p : Nat) (b : Bundle) : Bool :=
  match (s.seq p).gates with
  | [] => false
  | g :: _ =>
    decide (fld (s.part p).ctx.ractl.toNat 1 14 < g.bundles) || decide (2048 < g.segs + segCharge s p b)
      || decide (1024 < g.entries + entryCharge s p b)

/-- Charge a bundle to every unresolved gate (R128). -/
def chargeAhead (p : Nat) (b : Bundle) (s : State) : State :=
  let sg := segCharge s p b
  let en := entryCharge s p b
  s.modSeq p (fun q => { q with gates := q.gates.map (fun g =>
    { g with bundles := g.bundles + 1, segs := g.segs + sg, entries := g.entries + en }) })

end Sys2Proof.Machine
end

