-- ==== Sys2Proof/Machine/Bundle.lean ====
section
/-!
DEFINITION. Issuing bundles (R96–R103): gates and their events (R122–R125), run-ahead with its commit and its undo
(R126–R134), the commit queue's release (R130), and the switch between the contexts (R135–R137).
-/

namespace Sys2Proof.Machine

/-! Delivery of a TOKEN_STEP (R191, R367). -/

/-- The step at a queue's head. -/
def stepHead (s : State) (p q : Nat) : Option Step := (mget [] (s.part p).steps q).head?

/-- R191's check of a step's context: `none`, it is not delivered; otherwise whether it takes a pin. -/
def stepCheck (s : State) (p : Nat) (st : Step) : Option Bool :=
  let r := s.ctxRec (cbase s p + st.body.ctx.toNat)
  let cv := srecCv (s.part p).fill.srec
  let d := s.desc r.fidx.toNat
  if r.none_ then (if r.cv == cv then some false else none)
  else if pinValid s r then some false
  else if !r.pinned && inRangeOf s p r.fidx.toNat && (d.state == 2 || d.state == 4) && d.cv == cv then some true
  else none

/-- The step at a queue's head leaves its queue, and the SQ head advances (R364); a prepared one behind it is now at the head
(R122). -/
def popStep (p q : Nat) (st : Step) (s : State) : State :=
  (headOn st.work s).modPart p (fun x =>
    let rest := (mget [] x.steps q).drop 1
    { x with
      steps := mset [] x.steps q rest
      seq := if (rest.head?.map (·.prepared)) = some true then x.seq.arrives (1024 + q) else x.seq })

/-- A prepared step that will not be delivered leaves its queue; the latest preparation's number is used again (R367; log
entry 96). -/
def dropStep (p q : Nat) (st : Step) (s : State) : State :=
  (popStep p q st s).modPart p (fun x => if st.asked ∧ x.dlvNext = st.n + 1 then { x with dlvNext := st.n } else x)

/-- A step that is not delivered completes ADAPT_STALE (R191). -/
def stepStale (p q : Nat) (st : Step) (s : State) : State :=
  let s := pinRelease p st.body.ctx.toNat (dropStep p q st s)
  queueSettle p q (complete st.work stStale 0 [] (modCtxRec p st.body.ctx.toNat (fun r => { r with pinned := false, stale := false }) s))

/-- A prepared step at the head of one of the queues that passes the check: its queue (R122: the lowest). A step that fails
completes (R191), unless the gate that looks comes after an unresolved one (`older`), whose undo would take that back: then it
waits. -/
def hostEvent (p : Nat) (older : Bool) : List Nat → State → Option Nat × State
  | [], s => (none, s)
  | q :: qs, s =>
    match stepHead s p q with
    | none => hostEvent p older qs s
    | some st =>
      if !st.prepared then hostEvent p older qs s
      else if (stepCheck s p st).isSome then (some q, s)
      else if !older then hostEvent p older qs (stepStale p q st s)
      else hostEvent p older qs s

/-- Queues that a GSEL names (R122). -/
def selQueues (sel : Byte) : List Nat := if sel = 0xFF then upTo 64 else [sel.toNat % 64]

/-- Queues a gate of class 0x4 looks at: none while the module is being detached (R461). -/
def gateQueues (s : State) (sel : Byte) : List Nat := if s.twin.detach.isSome then [] else selQueues sel

/-- A step is delivered: its slot is occupied, its context in flight, its rows in the batch of context F (R191, R196). -/
def deliver (p q : Nat) (s : State) : State :=
  match stepHead s p q with
  | none => s
  | some st =>
    match stepCheck s p st with
    | none => s
    | some took =>
      let c := st.body.ctx.toNat
      let r := s.ctxRec (cbase s p + c)
      let s := if took then modDesc r.fidx.toNat (fun d => { d with pins := d.pins + 1 }) s else s
      let gen := (s.desc r.fidx.toNat).gen
      let s := modCtxRec p c (fun r => if took then { r with pinned := true, pgen := gen, stale := false, inflight := true }
        else { r with inflight := true }) s
      let row : RowRef := ⟨st.body.ctx, if r.none_ then none else some r.fidx⟩
      let inF := !(s.seq p).ctxB
      queueSettle p q ((popStep p q st s).modPart p (fun x => { x with
        dlv := mset none x.dlv (st.n % Nat.max 1 x.dlvCount) (some ⟨st.work, st.body, st.n, x.seq.gid, took, false⟩)
        fill := if inF then { x.fill with rows := x.fill.rows ++ List.replicate st.body.rows.toNat row } else x.fill }))

/-- Deliveries made under a gate that is undone return to the front of their queues, prepared (R126: the position of every
host queue head is restored). -/
def takeBack (p gate : Nat) (s : State) : State :=
  let ds := ((s.part p).dlv.filterMap (·.2)).filter (fun d => decide (gate ≤ d.gid))
  forEach ds.reverse (fun d s =>
    let c := d.body.ctx.toNat
    let r := s.ctxRec (cbase s p + c)
    let s := modCtxRec p c (fun x => if d.took then { x with inflight := false, pinned := false } else { x with inflight := false })
      (if d.took && pinValid s r then unpin r.fidx.toNat s else s)
    (headBack d.head s).modPart p (fun x => { x with
      dlv := mset none x.dlv (d.n % Nat.max 1 x.dlvCount) none
      steps := mmod [] x.steps d.head.q (fun l => ⟨d.head, d.body, true, true, d.n, [], true⟩ :: l) })) s

/-! Events of gates (R122). -/

/-- A gate of class 0x3 in context F is evaluated (R196, R204, R205): the batch closes if none is open, the leases that have
neither opened nor ended open, and the answer is the unit's descriptor once the order table is written and the unit staged. -/
def fillEvent (p : Nat) (s : State) : Option DWord × State :=
  let f := (s.part p).fill
  let spent := match f.batch with | none => true | some b => decide (Nat.max 1 b.units ≤ f.named)
  let s := if spent then closeBatch p s else s
  let q := s.part p
  match q.fill.batch with
  | none => (none, s)
  | some b =>
    let n := q.fill.named
    match b.groups[n % Nat.max 1 b.groups.length]? with
    | none => (if b.written then some 0 else none, s)
    | some g =>
      let o : DWord := BitVec.ofNat 64 g.fidx.toNat
      if !srecEn q.fill.srec then (if b.written then some o else none, s)
      else
        let as := srecArrays q.fill.srec
        let s := forEach as (fun a s => loadLease p a (openLease p a n s)) s
        let q := s.part p
        let ready := as.all (fun a => q.fill.leaseOver a n || (match mget none q.fill.leases a with
          | some ⟨u, some r⟩ => u == n && decide (r ≤ q.seq.cyc)
          | _ => false))
        (if b.written && decide (n < q.fill.copied) && ready then some o else none, s)

/-- Is a Glaze of p outstanding (R122, R334). -/
def glazeBusy (s : State) (p : Nat) : Bool :=
  glazesFor s p || s.glazeGrans.any (fun e => match e.2 with | some g => g.dest == some (BitVec.ofNat 5 p) && !g.cleared | none => false)

/-- The event of a gate, if it is present, with its outcome (R122). `id` places the gate in program order: an OPEN held in
the commit queue counts only when it comes before, and a gate of class 0x3 waits for an older one (R489). -/
def gateEvent (p : Nat) (cls : BitVec 4) (sel : Byte) (id : Nat) (s : State) : Option DWord × State :=
  let q := s.part p
  match cls.toNat with
  | 1 =>
    let k := mget tok0 q.seq.memTok sel.toNat
    (if k.cnt = 0 then some (if k.pois = [] then 0 else 1) else none, s)
  | 2 =>
    match slotOfPart s p sel.toNat with
    | none => (some 0, clamp p 7 s)
    | some n =>
      let held := q.seq.commitQ.any (fun e => decide (e.gid < id) && (match e.act with
        | .xch sl _ _ => sl.op == 2 && sl.bslot == sel
        | _ => false))
      (if (s.bucket n).done && (s.bucket n).waits.isEmpty && !held then some (BitVec.ofNat 64 (s.bucket n).outcome) else none, s)
  | 3 =>
    if q.seq.ctxB then (some 0, clamp p 8 s)
    else if q.seq.gates.any (fun g => g.cls == 3 && decide (g.id < id)) then (none, s)
    else fillEvent p s
  | 4 =>
    let r := hostEvent p (q.seq.gates.any (fun g => decide (g.id < id))) (gateQueues s sel) s
    (r.1.map (fun n => BitVec.ofNat 64 (256 * n + 2)), r.2)
  | 5 => (if glazeBusy s p then none else some 0, s)
  | 6 => (if mget 0 q.seq.movTok (sel.toNat % 16) = 0 then some 0 else none, s)
  | _ => (some 0, s)

/-- What a gate's resolution consumes (R124): a unit is named, a step is delivered. -/
def gateTake (p : Nat) (cls : BitVec 4) (o : DWord) (s : State) : State :=
  if cls = 3 then
    if (s.seq p).ctxB then s
    else s.modPart p (fun q => { q with fill := { q.fill with named := q.fill.named + 1, flips := [] } })
  else if cls = 4 then deliver p (o.toNat / 256) s
  else s

/-- Write s[GDST] (R122, R123). -/
def setGdst (p : Nat) (d : SReg) (v : DWord) (s : State) : State := s.modCtx p (s.seq p).ctxB (Ctx.setSreg d.toNat v)

/-! Holds of a bundle (R36, R40). -/

/-- The cycle from which a bundle's FLIPs find their planes ready; `none` while a leased plane waits for its unit (R204). -/
def flipFrom (q : Part) (as : List Nat) : Option Nat :=
  if as.any (fun a => flipEarly q a || (flipEndsLease q a && (match mget none q.fill.leases a with | some l => l.ready.isNone | none => false)))
  then none else some (flipReady q.seq as)

/-- May a bundle's FLIPs and LOADs go now. -/
def flipsGo (q : Part) (b : Bundle) : Bool :=
  flipsOf (arrsOf b) == [] || (match flipFrom q (flipsOf (arrsOf b)) with | some c => decide (c ≤ q.seq.cyc) | none => false)
def loadsGo (q : Part) (b : Bundle) : Bool :=
  (arrsOf b).all (fun e => !((e.2.op == 2 || e.2.op == 3) && decide (e.2.fmt.toNat < 13) && loadHeld q.seq e.1))

/-- Arrays whose FLIP in a bundle comes before its plane is ready and counts a clamp for it (R40): one that ends a lease does
not. -/
def lateFlips (q : Part) (b : Bundle) : List Nat :=
  (flipsOf (arrsOf b)).filter (fun a => decide (q.seq.cyc < planeReady q.seq a) && !flipEndsLease q a)

/-- A bundle whose gate is settled issues, or is held for a plane or a loader (R36, R40). Each late FLIP counts a clamp. -/
def issueOrHold (p : Nat) (b : Bundle) (s : State) : State :=
  let q := s.part p
  if !flipsGo q b then
    forEach (lateFlips q b) (fun _ s => clamp p 1 s) (s.modSeq p (fun x => { x with stall := none, heldFlip := some x.cyc }))
  else if !loadsGo q b then s.modSeq p (fun x => { x with stall := none, heldLoad := some x.cyc })
  else runBundle p b (chargeAhead p b s)

/-- Is B to be left before a bundle that carries a gate (R137). -/
def leavesAt (q : Part) (b : Bundle) : Bool := q.seq.ctxB && q.seq.preempt && q.ctxF.loaded && hasGate b.ctl

/-- A held bundle issues once its planes are ready and a loader's place is free. -/
def releaseHeld (p : Nat) (s : State) : State :=
  let q := s.part p
  let b := bundleAt s p
  if (q.seq.heldFlip.isSome || q.seq.heldLoad.isSome) && !leavesAt q b && flipsGo q b && loadsGo q b then
    runBundle p b (chargeAhead p b s)
  else s

/-! Run-ahead (R126–R134). -/

/-- The planes of the issuing context that have no record, as they stand. -/
def barePlanes (s : State) (p : Nat) : List (TileId × ArrId × Bool × Plane) :=
  let q := s.part p
  q.tiles.flatMap (fun t => (upTo 4).flatMap (fun a =>
    let at_ (active : Bool) (recs : Map LoadRec) (planes : Map Plane) :=
      if recs.any (fun e => e.1 == a) then [] else [(BitVec.ofNat 7 t, BitVec.ofNat 2 a, active, mget plane0 planes a)]
    at_ true q.ctx.recA (s.tile t).active ++ at_ false q.ctx.recS (s.tile t).shadow))

/-- Such planes of the arrays named stand again as they stood. -/
def restoreBare (as : List Nat) (l : List (TileId × ArrId × Bool × Plane)) (s : State) : State :=
  forEach (l.filter (fun e => as.contains e.2.1.toNat)) (fun e s => s.modTile e.1.toNat (fun tl =>
    if e.2.2.1 then { tl with active := mset plane0 tl.active e.2.1.toNat e.2.2.2 }
    else { tl with shadow := mset plane0 tl.shadow e.2.1.toNat e.2.2.2 })) s

/-- Run-ahead begins at a gate (R126): snapshot, prediction. -/
def startAhead (p : Nat) (b : Bundle) (s : State) : State :=
  let q := s.part p
  let c := q.ctx
  let pred := c.sreg b.ctl.gprs.toNat
  let g : Gate :=
    { id := q.seq.nextGate, cls := b.ctl.gate, sel := b.ctl.gsel, gdst := b.ctl.gdst, pred := pred, pc := c.pc
      snap := ⟨c.sregs, c.stack, q.cvu.drain.val, c.recA, c.recS, barePlanes s p, q.fill⟩
      undo := [], loaded := false, flipped := false, wide := false, flags := [], flips := [], outcome := none
      bundles := 0, segs := 0, entries := 0 }
  setGdst p b.ctl.gdst pred (s.modSeq p (fun x => { x with nextGate := x.nextGate + 1, gates := x.gates ++ [g] }))

/-- May run-ahead go on over an absent gate (R126, R129); `pending` says that a management action waits. -/
def mayAhead (s : State) (p : Nat) (pending : Bool) (b : Bundle) : Bool :=
  let q := s.part p
  let c := q.ctx.setSreg b.ctl.gdst.toNat (q.ctx.sreg b.ctl.gprs.toNat)
  b.ctl.ra && c.ractl.getLsbD 0 && decide (q.seq.gates.length < 2) && !pending && !stopsAhead c b
    && decide (segCharge s p b ≤ 2048) && decide (entryCharge s p b ≤ 1024) && !limitsAhead s p b

/-- The oldest gate commits (R132): held flags are kept, its FLIPs count toward leases (R204), what it names is consumed. -/
def commitGate (p : Nat) (g : Gate) (o : DWord) (s : State) : State :=
  let s := s.modSeq p (fun q => { q with gates := q.gates.drop 1, commits := q.commits + 1 })
  let s := forEach g.flags (keepFlag p) s
  let s := gateTake p g.cls o s
  let s := forEach ((s.part p).queues.map (·.1)) (queueSettle p) s
  if (s.seq p).ctxB then s else forEach g.flips (fun e s => countFlip p e.1 e.2 s) s

/-- Segments saved in the tile that saved most (R132). -/
def segsMost (g : Gate) : Nat :=
  let ts := g.undo.map (fun e => e.1 / 98304)
  maxL (ts.eraseDups.map (fun t => (ts.filter (· == t)).length))

/-- C of R132. -/
def undoCost (g : Gate) : Nat :=
  16 + Nat.max (segsMost g) (if g.flipped then (if g.wide then 322 else 195) else if g.loaded then 64 else 0)

/-- A write that was issued after a gate is squashed: a Mover line stops counting toward its token. -/
def squashLanding (l : Landing) (q : Seq) : Seq :=
  match l.w with
  | .mover _ _ _ _ _ t _ => { q with movTok := mmod 0 q.movTok t.toNat (· - 1) }
  | _ => q

/-- A token without the requests issued after a gate (R117, R127): `n` of them are outstanding, and the POISON that it held
before them stands again. -/
def Tok.undone (gate n : Nat) (k : Tok) : Tok :=
  let pois := match (k.cleared.filter (fun e => decide (gate ≤ e.1))).getLast? with
    | some e => e.2
    | none => k.pois
  ⟨k.cnt - n, pois.filter (fun g => decide (g < gate)), k.cleared.filter (fun e => decide (e.1 < gate))⟩

/-- Requests issued after a gate are withdrawn (R127). -/
def withdraw (gate : Nat) (q : Seq) : Seq :=
  let gone := q.reqs.filter (fun r => decide (gate ≤ r.gid))
  { q with
    reqs := q.reqs.filter (fun r => decide (r.gid < gate))
    crumbs := q.crumbs.filter (fun r => decide (r.gid < gate))
    lines := q.lines.filter (fun r => decide (r.gid < gate))
    memTok := q.memTok.foldl (fun m e =>
      mset tok0 m e.1 (e.2.undone gate (gone.filter (fun r => r.tok.toNat == e.1)).length)) [] }

/-- Loads and the last FLIP of a loader, as they stood before a gate. -/
def Loader.undone (gate : Nat) (flipped : Bool) (l : Loader) : Loader :=
  let keep (x : Option Loading) := x.filter (fun r => decide (r.gid < gate))
  { l with running := keep l.running, waiting := keep l.waiting, flipAt := if flipped then none else l.flipAt }

/-- Staging after an undo: the batch as the snapshot has it; what has been copied for that same batch since stands. -/
def FillPart.undone (snap now : FillPart) : FillPart :=
  if (snap.batch.map (·.serial)) = (now.batch.map (·.serial)) then
    { snap with copied := now.copied, copying := now.copying, released := now.released, batch := now.batch }
  else snap

/-- Everything issued after the oldest unresolved gate is undone (R132, R133): segments, planes, snapshot, requests,
commit-queue entries, held flags, deliveries. A plane without a record stands as it did at the gate (log entry 31). -/
def undoTo (p : Nat) (g : Gate) (s : State) : State :=
  let q := s.part p
  let gone := q.seq.inflight.filter (fun l => decide (g.id ≤ l.gid))
  let flips := q.seq.gates.foldl (fun (m : Map Nat) x => x.flips.foldl (fun m e => mmod 0 m e.1 (· + e.2)) m) []
  let touched := (upTo 4).filter (fun a =>
    mget 0 flips a != 0 || q.ctx.recA.find? (·.1 == a) != g.snap.recA.find? (·.1 == a)
      || q.ctx.recS.find? (·.1 == a) != g.snap.recS.find? (·.1 == a)
      || gone.any (fun l => match l.w with | .planeLine x _ _ _ => x.toNat == a | _ => false))
  let s := s.modSeq p (fun x => gone.foldl (fun x l => squashLanding l x)
    { withdraw g.id x with inflight := x.inflight.filter (fun l => decide (l.gid < g.id)) })
  let s := forEach g.undo (fun e s => match e.2 with
    | none => s
    | some sg =>
      let t := e.1 / 98304
      let k : TMem := match e.1 / 32768 % 3 with | 0 => .scratch | 1 => .lb | _ => .side
      s.modTile t (restoreSeg k (e.1 % 32768) sg)) s
  let s := forEach ((upTo 4).filter (fun a => mget 0 flips a % 2 == 1)) (fun a s => swapPlanes p a s) s
  let s := takeBack p g.id s
  let s := s.modPart p (fun x => x.modCtx x.seq.ctxB (fun c =>
    { c with sregs := g.snap.sregs, stack := g.snap.stack, recA := g.snap.recA, recS := g.snap.recS, pc := g.pc }))
  let s := s.modPart p (fun x => { x with
    cvu := { x.cvu with val := g.snap.cvuVal, queue := [] }
    fill := FillPart.undone g.snap.fill x.fill })
  let s := replayPlanes p (s.seq p).ctxB touched (restoreBare touched g.snap.bare s)
  let s := s.modSeq p (fun x => { x with
    gates := [], stall := none, heldFlip := none, heldLoad := none
    commitQ := x.commitQ.filter (fun e => decide (e.gid < g.id))
    loaders := x.loaders.filterMap (fun e =>
      let l := e.2.undone g.id (mget 0 flips e.1 != 0)
      if l = loader0 then none else some (e.1, l)) })
  let f := (s.part p).fill
  forEach (srecArrays f.srec) (fun a s =>
    match mget none f.leases a with
    | some l => loadLease p a
        (if gone.any (fun l => match l.w with | .planeLine x _ _ true => x.toNat == a | _ => false) then
          s.modPart p (fun x => { x with fill := { x.fill with leases := mset none x.fill.leases a (some ⟨l.unit, none⟩) } })
         else s)
    | none => s) s

/-- The oldest gate mispredicts (R132): the gate bundle issues again after C cycles with the actual outcome. -/
def mispredict (p : Nat) (g : Gate) (o : DWord) (s : State) : State :=
  let c := undoCost g
  let s := gateTake p g.cls o (undoTo p g s)
  s.modSeq p (fun q => { q with
    undo := some ⟨g.pc, g.gdst, o, q.cyc + c⟩, mispredicts := q.mispredicts + 1, undoCyc := q.undoCyc + BitVec.ofNat 48 c })

/-- An event of the younger gate that arrives first is recorded (R133). -/
def recordYounger (p : Nat) (s : State) : State :=
  match (s.seq p).gates with
  | _ :: g :: _ =>
    if g.outcome.isSome then s
    else
      let r := gateEvent p g.cls g.sel g.id s
      r.2.modSeq p (fun q => { q with gates := q.gates.map (fun x => if x.id = g.id then { x with outcome := r.1 } else x) })
  | _ => s

/-- Events of unresolved gates are acted on in gate order (R132, R133, R489). -/
def resolveGates (p : Nat) : Nat → State → State
  | 0, s => s
  | n + 1, s =>
    match (s.seq p).gates with
    | [] => s
    | g :: _ =>
      let r := match g.outcome with
        | some o => (some o, s)
        | none => gateEvent p g.cls g.sel g.id s
      match r.1 with
      | none => recordYounger p r.2
      | some o => if o = g.pred then resolveGates p n (commitGate p g o r.2) else mispredict p g o r.2

/-! Issue. -/

/-- Does an action change p's granules (R318, R322). -/
def Act.grans (a : Act) : Bool := a.mask != 0

/-- Does an action wait for a gate of p: at stage 0 of its p, at stage 3 of the partition its granules join (R320). -/
def Act.waitsFor (a : Act) (p : Nat) : Bool := (a.stage == 0 && a.p == p) || (a.stage == 3 && a.q == p)

/-- Does an ownership action wait for the stream of p (R15, R320): accepted, not yet in effect. Run-ahead stops meanwhile. -/
def actPending (s : State) (p : Nat) : Bool := s.acts.any (fun a => a.waitsFor p)

/-- Does either context hold a program that has not ended and has RSZ = 0 (R322). -/
def Part.rigid (q : Part) : Bool := (q.ctxF.loaded && !hdrRsz q.ctxF.hdr) || (q.ctxB.loaded && !hdrRsz q.ctxB.hdr)

/-- The first action that p takes at its next qualifying gate (R320, R322). -/
def actDue (s : State) (p : Nat) : Option Act :=
  s.acts.find? (fun a => a.waitsFor p && !(a.grans && (s.part p).rigid))

/-- May p's Sequencer issue (R321, R329, R415, R431, R443): nothing holds the stream but a gate. -/
def maySequence (s : State) (p : Nat) : Bool :=
  let q := s.part p
  q.live && q.reset.isNone && q.resize.isNone && q.seq.switch.isNone && q.seq.undo.isNone && !capturing q
    && s.pwr.state == 0

/-- The cycle in which a present event with outcome o arrived (R122): the resolution of a memory token, the bucket's
completion, the plane that made a unit staged or its order table, the step at the head of its queue, the end of the Glaze, the
last line of a Mover token; 0 where none has arrived since the reset. -/
def eventCame (q : Part) (cls : BitVec 4) (sel : Byte) (o : DWord) : Nat :=
  if cls = 6 then mget 0 q.seq.movAt (sel.toNat % 16)
  else if cls = 3 then Nat.max (mget 0 q.seq.came 768)
    (maxL (q.fill.leases.map (fun e => match e.2 with | some ⟨_, some r⟩ => r | _ => 0)))
  else if cls = 4 then mget 0 q.seq.came (1024 + o.toNat / 256 % 64)
  else if cls = 5 then mget 0 q.seq.came 1280
  else mget 0 q.seq.came (256 * cls.toNat + sel.toNat)

/-- Is an event that is present at cycle u present since cycle u − 2 (R123). -/
def inTime (q : Part) (cls : BitVec 4) (sel : Byte) (o : DWord) : Bool :=
  let a := eventCame q cls sel o
  a == 0 || decide (a + 2 ≤ q.seq.cyc)

/-- A gate resolves with no run-ahead (R123): the outcome is written, what it names is consumed, the bundle issues; after a
stall, or when the event came too late, 4 cycles from the event. -/
def passGate (p : Nat) (b : Bundle) (o : DWord) (s : State) : State :=
  let q := s.part p
  let s := if q.seq.stall.isSome then advance p (q.seq.cyc + 4) s
    else if inTime q b.ctl.gate b.ctl.gsel o then s else advance p (eventCame q b.ctl.gate b.ctl.gsel o + 4) s
  issueOrHold p b (setGdst p b.ctl.gdst o (gateTake p b.ctl.gate o s))

/-- The next bundle of p is reached: its gate is evaluated, and it issues, stalls or runs ahead (R123, R126, R129). A
preemption is taken before B's next gate bundle (R137), a management action at the first gate with none unresolved (R15,
R134). -/
def issueNext (p : Nat) (s : State) : State :=
  let q := s.part p
  let b := bundleAt s p
  let ahead := q.seq.gates != []
  let pending := actPending s p
  if ahead && (stopsFor q.ctx b || limitsAhead s p b || pending) then s
  else if !hasGate b.ctl then (if ahead && copEnds q.ctx b.ctl then s else issueOrHold p b s)
  else if leavesAt q b || (!ahead && (actDue s p).isSome) then s
  else
    let r := gateEvent p b.ctl.gate b.ctl.gsel q.seq.nextGate s
    match r.1 with
    | some o =>
      -- the outcome is written before the bundle's CTL slot sees it (R123), so it decides whether the bundle ends the program
      if ahead && copEnds (q.ctx.setSreg b.ctl.gdst.toNat o) b.ctl then r.2
      else if inTime q b.ctl.gate b.ctl.gsel o || !(mayAhead r.2 p pending b) then passGate p b o r.2
      else issueOrHold p b (startAhead p b r.2)
    | none =>
      if mayAhead r.2 p pending b then issueOrHold p b (startAhead p b r.2)
      else if ahead then r.2
      else r.2.modSeq p (fun x => { x with stall := match x.stall with
        | some st => some st
        | none => some ⟨q.ctx.pc, x.cyc, b.ctl.gate, b.ctl.gsel⟩ })

/-- Under the limiter's stall bundles issue in even cycles only (R98, R426). -/
def evenCycle (p : Nat) (s : State) : State :=
  if s.pwr.stall && (s.seq p).cyc % 2 == 1 then advance p ((s.seq p).cyc + 1) s else s

/-- BUNDLE_ISSUE (R96–R103). A held bundle issues when its hold is over. -/
def bundleIssue (p : Nat) (s : State) : State :=
  let q := s.part p
  if !(maySequence s p && q.ctx.loaded) then s
  else
    let s := evenCycle p s
    if q.seq.heldFlip.isSome || q.seq.heldLoad.isSome then releaseHeld p s else issueNext p s

/-- F's awaited event arrives while B issues: a preemption is pending (R137). -/
def notePreempt (p : Nat) (s : State) : State :=
  let q := s.part p
  if !(q.seq.ctxB && q.ctxF.loaded) || q.seq.preempt then s
  else
    let b := decodeBundle (bundleBytes s p q.ctxF.pc)
    if b.ctl.gate ≠ 4 then s
    else
      let r := hostEvent p false (gateQueues s b.ctl.gsel) s
      if r.1.isSome then r.2.modSeq p (fun x => { x with preempt := true }) else r.2

/-- The cycle in which an event that is only a matter of time arrives: Mover lines on their way, a staged plane. -/
def eventTime (q : Part) (cls : BitVec 4) (sel : Byte) : Nat :=
  if cls = 6 then maxL (q.seq.inflight.map (fun l => match l.w with
    | .mover _ _ _ _ _ t _ => if t.toNat = sel.toNat % 16 then l.at_ else 0
    | _ => 0))
  else if cls = 3 then maxL (q.fill.leases.map (fun e => match e.2 with | some ⟨_, some r⟩ => r | _ => 0))
  else 0

/-- GATE_EVENT_ARRIVAL (R123, R132, R133, R137): an awaited gate resolves and its bundle issues 4 cycles later, or unresolved
gates commit or mispredict. A pending preemption is taken before B's gates. -/
def gateArrival (p : Nat) (s : State) : State :=
  let s := notePreempt p s
  let q := s.part p
  if !(maySequence s p && q.ctx.loaded) || (q.seq.ctxB && q.seq.preempt && q.ctxF.loaded) then s
  else if q.seq.gates ≠ [] then resolveGates p 2 s
  else match q.seq.stall with
    | none => s
    | some st => issueNext p (advance p (eventTime q st.cls st.sel) s)

/-- UNDO_COMPLETE (R132): the gate bundle issues again with the actual outcome. With a preemption pending B is left before it
and issues it when it resumes (R137, log entry 123). -/
def undoComplete (p : Nat) (s : State) : State :=
  match (s.seq p).undo with
  | none => s
  | some u =>
    let s := advance p u.until_ (s.modSeq p (fun q => { q with undo := none }))
    if !((s.part p).live && (s.part p).ctx.loaded) then s
    else if leavesAt (s.part p) (bundleAt s p) then s.modCtx p true (fun c => { c with again := some (u.gdst, u.outcome) })
    else issueOrHold p (bundleAt s p) (setGdst p u.gdst u.outcome s)

/-- A committed action is carried out (R130, R132). -/
def releaseAct (p : Nat) (a : CqAct) (s : State) : State :=
  match a with
  | .memWrite lines _ req => sendWrite p req 0 lines s
  | .xch sl data _ => xchEffect p sl data s
  | .complete slot => releaseStore p slot.toNat s
  | .cvuMismatch halt => cvuInterrupt p halt s
  | .fault code unit => partFault p unit.toNat code.toNat unit.toNat s
  | .swap k se ctl => swapEffect p k.toNat se ctl s

/-- COMMIT_QUEUE_RELEASE (R130): the oldest entry, once its gate has committed. -/
def cqRelease (p : Nat) (s : State) : State :=
  match (s.seq p).commitQ with
  | [] => s
  | e :: rest =>
    if ((s.seq p).holder e.gid).isSome then s
    else releaseAct p e.act (s.modSeq p (fun q => { q with commitQ := rest }))

/-! Contexts (R135–R137). -/

/-- A switch of contexts begins: it takes `cost` cycles (R136, R137). -/
def beginSwitch (p : Nat) (toB : Bool) (cost : Nat) (s : State) : State :=
  (leavePlanes p s).modSeq p (fun q => { q with
    stall := none, heldFlip := none, heldLoad := none, switch := some ⟨toB, q.cyc + cost⟩
    undoCyc := q.undoCyc + BitVec.ofNat 48 cost })

/-- Is F out of the way (R136): it holds no program, or stalls at a gate of class 0x4 with RA = 0 whose event is absent. -/
def fWaits (s : State) (p : Nat) : Bool :=
  let q := s.part p
  !q.ctxF.loaded || (match q.seq.stall with
    | some st => st.cls == 4 && !(bundleAt s p).ctl.ra && !((gateQueues s st.sel).any (fun n => match stepHead s p n with
        | some x => x.prepared && (stepCheck s p x).isSome
        | none => false))
    | none => false)

/-- CONTEXT_SWITCH_TO_B (R136). -/
def switchToB (p : Nat) (s : State) : State :=
  let q := s.part p
  if maySequence s p && !q.seq.ctxB && q.ctxB.loaded && q.seq.gates == [] && q.seq.heldFlip.isNone && q.seq.heldLoad.isNone && fWaits s p then
    beginSwitch p true (24 + q.ctxB.tPlane) s
  else s

/-- CONTEXT_SWITCH_END (R136, R137, R207): the planes of the context are restored from its records, and plane loads that fell
due meanwhile are made. An event that F waits for and that came during the switch to B is found then; a gate bundle that B was
left before, its gate resolved, issues again. -/
def switchEnd (p : Nat) (s : State) : State :=
  match (s.seq p).switch with
  | none => s
  | some w =>
    let s := advance p w.until_ s
    let s := s.modSeq p (fun q => { q with switch := none, ctxB := w.toB, preempt := q.preempt && w.toB })
    let s := replayPlanes p w.toB (upTo 4) s
    if w.toB then
      let s := notePreempt p s
      match (s.part p).ctxB.again with
      | none => s
      | some o => (s.modSeq p (fun q => { q with undo := some ⟨(s.part p).ctxB.pc, o.1, o.2, q.cyc⟩ })).modCtx p true
          (fun c => { c with again := none })
    else forEach (srecArrays (s.part p).fill.srec) (fun a s => loadLease p a s) s

/-- PREEMPTION_OF_B (R137): B is left at its stalled gate, undone to its oldest unresolved gate, or left before its next gate
bundle, which may be one whose gate has resolved and that is held for a plane or a loader or issues again after an undo (log
entry 123). -/
def preemptB (p : Nat) (s : State) : State :=
  let q := s.part p
  if !(maySequence s p && q.seq.ctxB && q.seq.preempt && q.ctxF.loaded) then s
  else
    match q.seq.gates with
    | g :: _ =>
      let u := undoCost g
      beginSwitch p false (24 + u + q.ctxF.tPlane) (undoTo p g s)
    | [] =>
      let b := bundleAt s p
      let held := q.seq.heldFlip.isSome || q.seq.heldLoad.isSome
      if q.seq.stall.isSome || q.ctxB.again.isSome || (hasGate b.ctl && !held) then beginSwitch p false (24 + q.ctxF.tPlane) s
      else if hasGate b.ctl then
        beginSwitch p false (24 + q.ctxF.tPlane)
          (s.modCtx p true (fun c => { c with again := some (b.ctl.gdst, c.sreg b.ctl.gdst.toNat) }))
      else s

def execBundleIssue (p : PartId) (s : State) : Res := .next (bundleIssue p.toNat s)
def execGateEventArrival (p : PartId) (s : State) : Res := .next (gateArrival p.toNat s)
def execUndoComplete (p : PartId) (s : State) : Res := .next (undoComplete p.toNat s)
def execCommitQueueRelease (p : PartId) (s : State) : Res := .next (cqRelease p.toNat s)
def execContextSwitchToB (p : PartId) (s : State) : Res := .next (switchToB p.toNat s)
def execContextSwitchEnd (p : PartId) (s : State) : Res := .next (switchEnd p.toNat s)
def execPreemptionOfB (p : PartId) (s : State) : Res := .next (preemptB p.toNat s)

end Sys2Proof.Machine
end

