-- ==== Sys2Proof/Machine/HostQueue.lean ====
section
/-!
DEFINITION. The host's queues (R355–R369): doorbells, enabling and disabling, fetching entries, TOKEN_STEP with its
preparation and its completion, DATA_MOVE.
-/

namespace Sys2Proof.Machine

/-- Entries of an SQ, of a CQ (R355). -/
def Queue.sqSize (u : Queue) : Nat := 2 ^ u.sqs
def Queue.cqSize (u : Queue) : Nat := 2 ^ u.cqs

/-- Are p's queues frozen, for any cause (R345, R354). -/
def queuesFrozen (s : State) (p : Nat) : Bool := (s.part p).frozen || !hostUp s

/-- A CQ head takes effect (R361): completions up to it are consumed; with unread ones that had NOTIFY, one more
notification goes. -/
def cqHeadTake (p q v : Nat) (s : State) : State :=
  let u := s.queue p q
  let n := (v + u.cqSize - u.chead.toNat) % u.cqSize
  let rest := u.flags.drop n
  let again := u.ntfOut && u.ien && rest.any id
  let s := s.modQueue p q (fun u => { u with chead := BitVec.ofNat 16 v, flags := rest, ntfOut := false })
  if again then notify 1 p (q + 2 ^ 32 * (s.part p).gen.toNat) s else s

/-- A doorbell takes effect (R356). -/
def bellTake (p : Nat) (cq : Bool) (q v : Nat) (s : State) : State :=
  let u := s.queue p q
  if !u.en then s
  else
    let size := if cq then u.cqSize else u.sqSize
    let s := clampIf (decide (size ≤ v)) p 0xA s
    if cq then cqHeadTake p q (v % size) s
    else s.modQueue p q (fun u => { u with tail := BitVec.ofNat 16 (v % size) })

/-- A doorbell arrives (R356), a wake event (R415): one of a frozen partition's queues is recorded (R369), and so is one that
arrives in another state than Run, where it acts (R425). -/
def bell (p : Nat) (cq : Bool) (q : QueueId) (v : Half) (s : State) : State :=
  let s := wakeUp s
  if (s.part p).frozen || !inRun s then s.modPart p (fun x => { x with bells := x.bells ++ [(cq, q, v)] })
  else bellTake p cq q.toNat v.toNat s

/-- The queues unfreeze: recorded doorbells act (R369). -/
def unfreeze (p : Nat) (s : State) : State :=
  let bs := (s.part p).bells
  forEach bs (fun b s => bellTake p b.1 b.2.1.toNat b.2.2.toNat s) (s.modPart p (fun x => { x with frozen := false, bells := [] }))

/-- EN 0 → 1 (R355). -/
def queueEnable (p q : Nat) (s : State) : State :=
  s.modQueue p q (fun u => if u.en then u else { u with
    en := true, sqhead := 0, cqtail := 0, tail := 0, chead := 0, phase := true, err := false, ntfOut := false, flags := []
    opened := 0, ep := u.ep + 1 })

/-- EN 1 → 0 (R355): unfetched entries are discarded; what has been fetched goes on. -/
def queueDisable (p q : Nat) (s : State) : State := s.modQueue p q (fun u => { u with en := false, tail := u.sqhead })

/-- Has a pair's CQ room for one more completion beside those owed (R357). -/
def Queue.room (u : Queue) : Bool := decide (u.flags.length + u.opened + 1 < u.cqSize)

/-- May the device fetch the entry at a pair's SQ head (R350, R357, R364): one that has been fetched and not started holds the
next one back. -/
def mayFetch (s : State) (p q : Nat) : Bool :=
  let u := s.queue p q
  u.en && !u.err && u.sqhead != u.tail && u.fetched.isEmpty && (mget [] (s.part p).steps q).isEmpty && u.room
    && !queuesFrozen s p && (s.part p).pstate != 0 && (freeTag s).isSome && inRun s

/-- The SQ that round robin serves next among those of all partitions, as 64·partition + queue (R357). -/
def nextFetch (s : State) : Option Nat :=
  ((upTo 2048).map (fun i => (s.host.rr + 1 + i) % 2048)).find? (fun n => mayFetch s (n / 64) (n % 64))

/-- SQ_ENTRY_FETCH (R357): the entry at the head is asked for. -/
def sqFetch (p q : Nat) (s : State) : State :=
  if nextFetch s ≠ some (64 * p + q) then s
  else match freeTag s with
    | none => s
    | some tag =>
      let u := s.queue p q
      let s := s.modQueue p q (fun u => { u with opened := u.opened + 1, fetched := u.fetched ++ [⟨u.ep, tag, []⟩] })
      hostRead (.entry p q u.ep (s.part p).gen) (u.sqbase.toNat + 64 * u.sqhead.toNat) 64
        (s.modHost (fun h => { h with rr := 64 * p + q }))

/-- An entry's bytes have come. -/
def entryCome (p q tag : Nat) (bs : List Byte) (s : State) : State :=
  queueSettle p q (s.modQueue p q (fun u => { u with
    fetched := u.fetched.map (fun e => if e.tag = tag ∧ e.bytes = [] then { e with bytes := bs } else e) }))

/-- A queue fetch failed (R350): the pair stops. -/
def entryLost (p q tag ep : Nat) (s : State) : State :=
  s.modQueue p q (fun u => { u with
    err := u.err || u.ep == ep, opened := if u.ep = ep then u.opened - 1 else u.opened
    fetched := u.fetched.filter (fun e => !(e.tag == tag && e.bytes == [])) })

/-! TOKEN_STEP (R367, R368). -/

/-- TOKEN_STEP at its SQ's head (R364, R367): ROWS above 256 are taken as 256. One that waits for its delivery has not started. -/
def tokenStep (p : Nat) (w : Work) (b : StepBody) (s : State) : State :=
  let c := b.ctx.toNat
  if standbyRefuses s p ∨ ccount s p ≤ c then refuse w 0xA (headOn w s)
  else
    let s := clampIf (decide (256 < b.rows.toNat)) p 0xA s
    let b := { b with rows := if 256 < b.rows.toNat then 256 else b.rows }
    let s := if b.bind then
        modCtxRec p c (fun r => { r with fidx := b.fidx, none_ := b.none_, cv := b.cv, pinned := false, stale := false, active := true })
          (pinRelease p c s)
      else s
    if b.rows = 0 then complete w stDone 0 [] (headOn w (if b.release then ctxRelease p c s else s))
    else s.modPart p (fun x => { x with steps := mmod [] x.steps w.q (fun l => l ++ [⟨w, b, true, false, 0, [], false⟩]) })

/-- The step at a queue's head changes. -/
def modStep (p q : Nat) (f : Step → Step) (s : State) : State :=
  s.modPart p (fun x => { x with steps := mmod [] x.steps q (fun l => match l with | a :: r => f a :: r | [] => []) })

/-- The 64 bytes of a TOKEN_STEP entry, with clamped values (R366, R368). -/
def stepBytes (w : Work) (b : StepBody) : List Byte :=
  [0x02, BitVec.ofNat 8 (b2n w.notify), 0, 0] ++ leBytes 4 w.cid.toNat ++ leBytes 2 b.ctx.toNat ++ leBytes 2 b.rows.toNat
    ++ [BitVec.ofNat 8 (b2n b.bind + 2 * b2n b.release + 4 * b2n b.none_ + 8 * b2n b.cv), 0] ++ leBytes 2 b.fidx.toNat
    ++ leBytes 8 b.ina.toNat ++ leBytes 8 b.inlen.toNat ++ leBytes 8 b.outa.toNat ++ leBytes 8 b.outmax.toNat ++ padTo 16 b.param

/-- Tile rank 0 of a partition. -/
def rank0 (q : Part) : Nat := nth 0 q.tiles 0

/-- Lines of a delivery slot (R368). -/
def slotLine (q : Part) (k j : Nat) : Nat := spLine (q.dlvLine + 2 * k + j)

/-- Is a delivery slot free: no step delivered into it, none prepared for it (R367). -/
def slotFree (q : Part) (k : Nat) : Bool :=
  (mget none q.dlv k).isNone && !(q.steps.any (fun e => e.2.any (fun st => (st.asked || st.prepared) && st.n % Nat.max 1 q.dlvCount == k)))

/-- Write bytes to tile rank 0 as the host link does (R112). -/
def hostWrite (p line : Nat) (bs : List Byte) (s : State) : State :=
  (toLines bs).zipIdx.foldl (fun s e =>
    writeTile p 0 .scratch (rank0 (s.part p)) (64 * spLine (line + e.2)) ((e.1.take (bs.length - 64 * e.2)).map (fun b => (true, b))) 3 false s) s

/-- Ask for the rest of a step's input, or finish the preparation (R367): the input is written, then the slot, and the queue
is not empty for gates of class 0x4. -/
def stepInput (p q : Nat) (s : State) : State :=
  match stepHead s p q with
  | none => s
  | some st =>
    if !st.asked || st.prepared then s
    else if st.input.length < st.body.inlen.toNat then
      hostRead (.input p q) (st.body.ina.toNat + st.input.length) (st.body.inlen.toNat - st.input.length) s
    else
      let x := s.part p
      let k := st.n % Nat.max 1 x.dlvCount
      let s := hostWrite p (hdrInl x.ctxF.hdr + k * hdrInsz x.ctxF.hdr) (st.input.take st.body.inlen.toNat) s
      let s := hostWrite p (slotLine x k 0) (stepBytes st.work st.body) s
      let dev (i : Nat) : Bool := decide (i < 8) || (decide (32 ≤ i) && decide (i < 56))
      let line := leBytes 2 q ++ leBytes 2 st.work.gen.toNat ++ leBytes 4 st.n ++ List.replicate 56 0
      let s := writeTile p 0 .scratch (rank0 x) (64 * slotLine x k 1) (line.zipIdx.map (fun e => (dev e.2, e.1))) 3 false s
      notePreempt p ((modStep p q (fun st => { st with prepared := true, input := [] }) s).modSeq p (Seq.arrives (1024 + q)))

/-- TOKEN_STEP_PREPARATION (R367): F holds a program, the context has no step in flight, the slot is free. -/
def stepPrepare (p q : Nat) (s : State) : State :=
  match stepHead s p q with
  | none => s
  | some st =>
    let x := s.part p
    let k := x.dlvNext % Nat.max 1 x.dlvCount
    if st.asked || st.prepared || !x.ctxF.loaded || !x.live || (s.ctxRec (cbase s p + st.body.ctx.toNat)).inflight || !(slotFree x k) then s
    else
      let most := 64 * hdrInsz x.ctxF.hdr
      let s := clampIf (decide (most < st.body.inlen.toNat)) p 0xA s
      let s := modStep p q (fun st => { st with
        asked := true, n := x.dlvNext, body := { st.body with inlen := BitVec.ofNat 32 (Nat.min most st.body.inlen.toNat) } }) s
      stepInput p q (s.modPart p (fun x => { x with dlvNext := x.dlvNext + 1 }))

/-- Input bytes arrive. -/
def stepBytesCome (p q : Nat) (bs : List Byte) (s : State) : State :=
  stepInput p q (modStep p q (fun st => { st with input := st.input ++ bs }) s)

/-- The input could not be read (R350): the step completes POISON. -/
def stepPoison (p q : Nat) (s : State) : State :=
  match stepHead s p q with
  | none => s
  | some st => queueSettle p q (complete st.work stPoison 0 [] (dropStep p q st s))

/-- A step's slot is free again, its context no longer in flight; RELEASE applies (R368). -/
def stepOver (p k : Nat) (d : Delivery) (tokens : Nat) (s : State) : State :=
  let c := d.body.ctx.toNat
  let s := s.modPart p (fun x => { x with dlv := mset none x.dlv k none })
  let s := modCtxRec p c (fun r => { r with inflight := false, tokens := r.tokens + BitVec.ofNat 32 tokens }) s
  if d.body.release then ctxRelease p c s else s

/-- Is a delivered step's context still good for its completion (R180, R192). -/
def stepServes (s : State) (p : Nat) (d : Delivery) : Bool :=
  let r := s.ctxRec (cbase s p + d.body.ctx.toNat)
  servesCv s p && (r.none_ || pinValid s r)

/-- Bytes of tile rank 0 from a line, circular, and whether one of their lines is marked. -/
def rank0Bytes (s : State) (p line n : Nat) : List Byte × Bool :=
  let tl := s.tile (rank0 (s.part p))
  (tileBytes .scratch tl (64 * line) n, (upTo (cdiv n 64)).any (fun i => tl.pois .scratch (spLine (line + i))))

/-- COMPLETION_STORE (R192, R368). It waits while the host link is down (R346). Of the slot, line 1 is read. -/
def completionStore (p k : Nat) (s : State) : State :=
  match mget none (s.part p).dlv k with
  | none => s
  | some d =>
    if !d.stored || !hostUp s then s
    else if !(stepServes s p d) then
      let c := d.body.ctx.toNat
      let s := modCtxRec p c (fun r => { r with pinned := false, stale := false }) (pinRelease p c s)
      complete d.head stStale 0 [] (stepOver p k d 0 s)
    else
      let x := s.part p
      let own := rank0Bytes s p (slotLine x k 1) 64
      let line := own.1
      let outl := leNat ((line.drop 8).take 4) % 131072
      let len := leNat ((line.drop 12).take 4)
      let n := Nat.min len d.body.outmax.toNat
      let s := clampIf (decide (d.body.outmax.toNat < len)) p 0xA s
      let out := rank0Bytes s p outl n
      if own.2 || out.2 then partFault p 8 0x30 8 s
      else
        let s := hostStore p d.head.gen d.body.outa.toNat out.1 s
        complete d.head stDone n ((line.drop 16).take 16) (stepOver p k d 1 s)

/-! DATA_MOVE (R368). -/

/-- Ask for the next bytes of a move from the host. -/
def moveAsk (p : Nat) (j : MoveJob) (s : State) : State :=
  if j.done < j.n then hostRead (.move p) (j.haddr + 64 * j.done) (64 * (j.n - j.done)) s else s

/-- DATA_MOVE starts (R219, R368). With no window at all, the lines read to the host are zeros. -/
def dataMove (p : Nat) (w : Work) (b : MoveBody) (s : State) : State :=
  let n := if b.nlines = 0 then 1 else Nat.min 16777216 b.nlines.toNat
  let s := clampIf (b.nlines == 0 || decide (16777216 < b.nlines.toNat)) p 0xA s
  let c := if !b.toHost then writeClamp s p b.pline.toNat n
    else if windowEnd s p = 0 then (0, n, true) else readClamp s p b.pline.toNat n
  let s := clampIf c.2.2 p 6 s
  let j : MoveJob := ⟨w, b.toHost, b.haddr.toNat / 64 * 64, c.1, c.2.1, 0, false⟩
  let first := (s.part p).moves.all (fun m => m.toHost)
  let s := s.modPart p (fun x => { x with moves := x.moves ++ [j] })
  if !b.toHost && first then moveAsk p j s else s

/-- The oldest move from the host changes. -/
def modMove : List MoveJob → (MoveJob → MoveJob) → List MoveJob
  | [], _ => []
  | m :: r, f => if m.toHost then m :: modMove r f else f m :: r

/-- Host bytes of the oldest move from the host arrive; the `bad` bytes after them could not be read, and their lines are stored
poisoned (R350). The move goes on with its next MRD. -/
def moveBytes (p : Nat) (bs : List Byte) (bad : Nat) (s : State) : State :=
  match (s.part p).moves.find? (fun m => !m.toHost) with
  | none => s
  | some j =>
    let ls := (toLines bs).take (j.n - j.done)
    let s := ls.zipIdx.foldl (fun s e => partWrite p (j.line + j.done + e.2) e.1 false s) s
    let got := j.done + ls.length
    let lost := Nat.min (cdiv bad 64) (j.n - got)
    let s := (upTo lost).foldl (fun s i => partWrite p (j.line + got + i) (List.replicate 64 0) true s) s
    let j := { j with done := got + lost, pois := j.pois || decide (0 < bad) }
    moveAsk p j (s.modPart p (fun x => { x with moves := modMove x.moves (fun _ => j) }))

/-- The lines of a move to the host, read in slots of class C1 and sent as long as the next slot is theirs (R225, R227); a poisoned
one is consumed (R254): how many have been sent now, and whether one was poisoned. -/
def moveOut (p : Nat) (j : MoveJob) : Nat → Nat → State → State × Nat × Bool
  | 0, i, s => (s, i, false)
  | n + 1, i, s =>
    if !unitMay s 1 p [j.line + i] then (s, i, false)
    else
      let r := partRead 1 p (j.line + i) s
      if r.2.2 then (r.1, i, true) else moveOut p j n (i + 1) (hostStore p j.work.gen (j.haddr + 64 * i) r.2.1 r.1)

/-- DATA_MOVE_END (R363, R368): the oldest move whose lines are all written completes; one to the host is carried out as far as its
reads get their slots. -/
def dataMoveEnd (p : Nat) (s : State) : State :=
  match (s.part p).moves.find? (fun m => m.toHost || decide (m.n ≤ m.done)) with
  | none => s
  | some j =>
    let gone (s : State) : State := s.modPart p (fun x => { x with moves := x.moves.erase j })
    if j.toHost then
      let r := moveOut p j (j.n - j.done) j.done s
      if r.2.2 then partFault p 8 0x30 8 (gone r.1)
      else if r.2.1 < j.n then r.1.modPart p (fun x => { x with moves := x.moves.map (fun m => if m = j then { j with done := r.2.1 } else m) })
      else complete j.work stDone j.n [] (gone r.1)
    else
      let s := complete j.work (if j.pois then stPoison else stDone) j.n [] (gone s)
      match (s.part p).moves.find? (fun m => !m.toHost) with
      | some next => moveAsk p next s
      | none => s

def execSqTailDoorbell (p : PartId) (q : QueueId) (v : Half) (s : State) : Res := .next (bell p.toNat false q v s)
def execCqHeadDoorbell (p : PartId) (q : QueueId) (v : Half) (s : State) : Res := .next (bell p.toNat true q v s)
def execQueueEnable (p : PartId) (q : QueueId) (s : State) : Res := .next (queueEnable p.toNat q.toNat s)
def execQueueDisable (p : PartId) (q : QueueId) (s : State) : Res := .next (queueDisable p.toNat q.toNat s)
def execSqEntryFetch (p : PartId) (q : QueueId) (s : State) : Res := .next (sqFetch p.toNat q.toNat s)
def execTokenStep (p : PartId) (h : EntryHead) (b : StepBody) (s : State) : Res :=
  .next (reachHead p.toNat h 0x02 (fun bs => stepBody bs == b) (fun w s => tokenStep p.toNat w b s) s)
def execTokenStepPreparation (p : PartId) (q : QueueId) (s : State) : Res := .next (stepPrepare p.toNat q.toNat s)
def execCompletionStore (p : PartId) (slot : Half) (s : State) : Res := .next (completionStore p.toNat slot.toNat s)
def execDataMove (p : PartId) (h : EntryHead) (b : MoveBody) (s : State) : Res :=
  .next (startEntry p.toNat h 0x05 (fun bs => moveBody bs == b) (fun w s => dataMove p.toNat w b s) s)
def execDataMoveEnd (p : PartId) (s : State) : Res := .next (dataMoveEnd p.toNat s)

end Sys2Proof.Machine
end

