-- ==== Sys2Proof/Machine/Zstd.lean ====
section
/-!
DEFINITION. Zstandard frames (R372), as RFC 8878 lays them out: the frame header, the blocks, skippable frames. The content of
compressed blocks and the content checksum are the published format's own (`Config.zstdData`, `Config.xxh64`; log entry 126).
-/

namespace Sys2Proof.Machine

/-- How the blocks of a frame end: more bytes are needed; a block that is none, with the bytes before it; at a byte. `plain` is the
content while every block is raw or run-length. -/
inductive ZEnd where
  | more
  | bad (at_ : Nat) (plain : Option (List Byte))
  | done (at_ : Nat) (plain : Option (List Byte))
  deriving DecidableEq, Repr

/-- The blocks of a frame from byte `n` on; `most` is the largest block. -/
def zBlocks (most : Nat) : Nat → List Byte → Nat → Option (List Byte) → ZEnd
  | 0, _, _, _ => .more
  | k + 1, bs, n, plain =>
    if bs.length < 3 then .more else
    let h := leNat (bs.take 3)
    let size := h / 8
    let len := if h / 2 % 4 = 1 then 1 else size
    if h / 2 % 4 = 3 ∨ most < size then .bad n plain
    else if bs.length < 3 + len then .more
    else
      let d := (bs.drop 3).take len
      let plain := match plain, h / 2 % 4 with
        | some a, 0 => some (a ++ d)
        | some a, 1 => some (a ++ List.replicate size (nth 0 d 0))
        | _, _ => none
      if h % 2 = 1 then .done (n + 3 + len) plain else zBlocks most k (bs.drop (3 + len)) (n + 3 + len) plain

/-- A frame at the front of the bytes: skippable; its window size and Dictionary_ID; whether a content checksum follows its blocks;
how they end, the checksum included. -/
structure ZFrame where
  skippable : Bool
  window : Nat
  dictId : Nat
  csum : Bool
  end_ : ZEnd
  deriving DecidableEq, Repr

def zMore : ZFrame := ⟨false, 0, 0, false, .more⟩

/-- A frame that is not one: nothing of it can be decoded. -/
def zBad : ZFrame := ⟨false, 0, 0, false, .bad 0 (some [])⟩

def zSkip (bs : List Byte) : ZFrame :=
  let n := 8 + leNat ((bs.drop 4).take 4)
  if bs.length < 8 ∨ bs.length < n then zMore else ⟨true, 0, 0, false, .done n none⟩

/-- Window_Size from a Window_Descriptor. -/
def zWindow (b : Byte) : Nat := 2 ^ (10 + b.toNat / 8) + 2 ^ (10 + b.toNat / 8) / 8 * (b.toNat % 8)

/-- The frame at the front of the bytes. -/
def zFrame (bs : List Byte) : ZFrame :=
  if bs.length < 5 then zMore
  else
    let magic := leNat (bs.take 4)
    if magic / 16 = 0x184D2A5 then zSkip bs
    else if magic ≠ 0xFD2FB528 then zBad
    else
      let d := nth 0 bs 4
      let single := d.getLsbD 5
      let w := if single then 0 else 1
      let idLen := nth 0 [0, 1, 2, 4] (d.toNat % 4)
      let sizeLen := if d.toNat / 64 = 0 then (if single then 1 else 0) else 2 ^ (d.toNat / 64)
      let head := 5 + w + idLen + sizeLen
      if bs.length < head then zMore
      else if d.getLsbD 3 then zBad
      else
        let content := leNat ((bs.drop (5 + w + idLen)).take sizeLen) + (if sizeLen = 2 then 256 else 0)
        let window := if single then content else zWindow (nth 0 bs 5)
        let z : ZFrame := ⟨false, window, leNat ((bs.drop (5 + w)).take idLen), d.getLsbD 2, .more⟩
        match zBlocks (Nat.min 131072 window) bs.length (bs.drop head) head (some []) with
        | .done n plain =>
          if d.getLsbD 2 then (if bs.length < n + 4 then z else { z with end_ := .done (n + 4) plain }) else { z with end_ := .done n plain }
        | e => { z with end_ := e }

/-- The content of a frame and whether it decodes to its end, by its dictionary. -/
def zContent (dict frame : List Byte) : Option (List Byte) → Bool → List Byte × Bool
  | some d, ended => (d, ended)
  | none, ended => let r := Config.zstdData dict frame; (r.1, r.2 && ended)

/-- Does the content checksum at a frame's end match. -/
def zSumOk (z : ZFrame) (frame content : List Byte) : Bool :=
  !z.csum || leNat (frame.drop (frame.length - 4)) == (Config.xxh64 content).toNat % 2 ^ 32

end Sys2Proof.Machine
end

