-- ==== Sys2Proof/Machine/Ingest.lean ====
section
/-!
DEFINITION. The Sample Ingest Unit (R370–R377): feeds, frames, records, windows in keyed order, the output ring. The content
of a Zstandard frame is what the published format gives (Zstd.lean). Records stand in the buffer halves in partition memory, in the
device's own form (log entry 32).
-/

namespace Sys2Proof.Machine

def State.siu (s : State) (p : Nat) : Siu := (s.part p).siu
def State.modSiu (p : Nat) (f : Siu → Siu) (s : State) : State := s.modPart p (fun q => { q with siu := f q.siu })

/-- The restart position follows the window being emitted (R376). -/
def Siu.settlePos (u : Siu) : Siu :=
  match u.wins with
  | w :: _ => { u with rposW := w.w, foff := w.foff, skip := w.skip }
  | [] => u

/-- END feeds complete when the last window has been emitted (R375). -/
def siuEnds (p : Nat) (s : State) : State :=
  let u := s.siu p
  if u.wins = [] then forEach u.ends (fun w s => complete w stDone 0 [] s) (s.modSiu p (fun u => { u with ends := [] })) else s

/-- The filling window closes (R374). -/
def Siu.closeLast (u : Siu) : Siu :=
  { u with wins := u.wins.map (fun w => { w with closed := true }) }

/-- An EPOCH takes effect (R371, R377): window and ring are clamped under R219. -/
def siuEpoch (p : Nat) (w : Work) (seed : DWord) (k : Nat) (s : State) : State :=
  let c := (s.siu p).cfg
  let s := clampIf (decide (26 < k)) p 0xD s
  let ring := Nat.max 2 (nth 0 c 3)
  let s := clampIf (decide (nth 0 c 3 < 2)) p 0xD s
  let wb := writeClamp s p (nth 0 c 0) (2 * nth 0 c 1)
  let ob := writeClamp s p (nth 0 c 2) (ring + 2)
  let s := clampIf wb.2.2 p 0xD (clampIf ob.2.2 p 0xD s)
  let cons := leNat ((partRead 1 p (ob.1 + 1) s).2.1.take 8)
  let s := s.modSiu p (fun u => { siu0 with
    cfg := u.cfg, live := true, seed := seed, k := Nat.min 26 k, wbase := wb.1, whalf := wb.2.1 / 2, obase := ob.1
    oring := Nat.max 2 (ob.2.1 - 2), dicts := u.dicts, feeds := u.feeds, ends := u.ends, cons := cons })
  complete w stDone 0 [] (siuEnds p (partWrite p ob.1 (padTo 64 (leBytes 8 0)) false s))

/-- A line of a feed's source in partition memory is read, in a slot of class C1 (R370); nothing is read past a poisoned one. -/
def feedLine (p : Nat) (f : SiuFeed) (s : State) : SiuFeed × State :=
  let r := partRead 1 p (f.addr + f.got / 64) s
  (if r.2.2 then { f with got := f.len, pois := true }
    else { f with got := Nat.min f.len (f.got + 64), buf := f.buf ++ r.2.1.take (f.len - f.got) }, r.1)

/-- Lines of a feed's source are read as long as the next slot is theirs (R225, R227). -/
def feedPull (p : Nat) : Nat → SiuFeed → State → SiuFeed × State
  | 0, f, s => (f, s)
  | n + 1, f, s =>
    if f.src ≠ 2 ∨ f.len ≤ f.got ∨ unitMay s 1 p [f.addr + f.got / 64] = false then (f, s)
    else let r := feedLine p f s; feedPull p n r.1 r.2

/-- The feed at the front changes. -/
def setFeed (p : Nat) (f : SiuFeed) (s : State) : State := s.modSiu p (fun u => { u with feeds := f :: u.feeds.drop 1 })

/-- Ask for more of a feed's source, or read it where it lies in partition memory. -/
def feedAsk (p : Nat) (f : SiuFeed) (s : State) : State :=
  if f.len ≤ f.got then s
  else if f.src = 0 then hostRead (.feed p) (f.addr + f.got) (f.len - f.got) s
  else if f.src = 1 then fetchFrom (.feed p) 1 f.port f.addr f.got (f.len - f.got) s
  else let r := feedPull p (cdiv (f.len - f.got) 64) f s; setFeed p r.1 r.2

/-- The feed at the front is over. What its frames have not used of a DATA feed still counts for the stream's offset (R376). -/
def feedDone (p status : Nat) (s : State) : State :=
  match (s.siu p).feeds with
  | [] => s
  | f :: rest =>
    let data := match f.op with | .data => true | _ => false
    complete f.work status 0 [] (dropReads (· == .feed p) (s.modSiu p (fun u => { u with
      feeds := rest, off := if data then u.off + f.left else u.off })))

/-- A feed with a source begins (R371, R376); lines of partition memory are clamped (R219). -/
def feedBegin (p : Nat) (f : SiuFeed) (s : State) : State :=
  let s := match f.op with
    | .resume foff skip => s.modSiu p (fun u => { u with
        kept := siuBase u, wins := [], foff := foff, skip := skip, off := foff, passing := skip, waits := false })
    | _ => s
  let c := readClamp s p (f.addr % 2 ^ 34) (cdiv f.len 64)
  let mem := decide (f.src = 2)
  let len := if mem && windowEnd s p != 0 then Nat.min f.len (64 * c.2.1) else f.len
  let f := { f with begun := true, addr := if mem then c.1 else f.addr, len := len, left := len }
  feedAsk p f (setFeed p f (clampIf (mem && c.2.2) p 6 s))

/-- Has a feed no whole frame left to decode although all has come that will: its source was poisoned (R350). -/
def SiuFeed.starved (f : SiuFeed) : Bool :=
  f.pois && decide (f.len ≤ f.got) && f.rest.isNone && (zFrame f.buf).end_ == .more

/-- What the oldest feed does next (R370, R371, R376): none when it waits. `rest` are the feeds behind it. -/
def siuTurn (p : Nat) (f : SiuFeed) (rest : List SiuFeed) (s : State) : Option State :=
  let off := fun (s : State) => s.modSiu p (fun u => { u with feeds := rest })
  let ends := fun (s : State) => feedDone p (if f.pois then stPoison else stDone) s
  match f.op with
  | .epoch seed k => some (siuEpoch p f.work seed k (off s))
  | .dict slot id =>
    if !f.begun then some (feedBegin p f s)
    else if f.got < f.len then none
    else some (ends (s.modSiu p (fun u =>
      { u with dicts := if f.pois then u.dicts else mset none u.dicts (b2n slot) (some (id, f.buf)) })))
  | .finish =>
    if !(s.siu p).live then some (refuse f.work 0xD (off s))
    else some (siuEnds p (s.modSiu p (fun u => { u.closeLast with feeds := rest, ends := u.ends ++ [f.work] })))
  | .data | .resume _ _ =>
    if !(s.siu p).live then some (refuse f.work 0xD (off s))
    else if !f.begun then some (feedBegin p f s)
    else if (f.left = 0 ∧ f.rest.isNone) ∨ f.starved then some (ends s)
    else none

/-- Feeds are taken in order (R370, R371): a feed before any EPOCH is refused but for EPOCH and DICT. -/
def siuSettle (p : Nat) : Nat → State → State
  | 0, s => s
  | n + 1, s =>
    match (s.siu p).feeds with
    | [] => s
    | f :: rest => match siuTurn p f rest s with
      | none => s
      | some s => siuSettle p n s

/-- Steps that `siuSettle` may take: two for each feed. -/
def siuFuel (s : State) (p : Nat) : Nat := 2 * (s.siu p).feeds.length + 2

/-- A feed reaches the SIU (R370): its source is checked first. -/
def siuFeed (p : Nat) (w : Work) (op : SiuOp) (f : FeedSrc) (most : Nat) (s : State) : State :=
  let src := match op with | .epoch _ _ | .finish => 0 | _ => f.src.toNat
  if src = 3 ∨ (src = 1 ∧ isStorage s f.port.toNat = false) then refuse w 0xD s
  else
    let s := clampIf (decide (most < f.len.toNat)) p 0xD s
    let len := Nat.min most f.len.toNat
    let s := s.modSiu p (fun u => { u with feeds := u.feeds ++ [⟨w, op, src, f.port.toNat, f.srca.toNat, len, false, 0, len, false, [], none⟩] })
    siuSettle p (siuFuel s p) s

/-- Source bytes of the running feed arrive, or cannot be read (R350). -/
def feedBytes (p : Nat) (bs : List Byte) (pois : Bool) (s : State) : State :=
  match (s.siu p).feeds with
  | [] => s
  | f :: rest =>
    let g := { f with
      got := if pois then f.len else Nat.min f.len (f.got + bs.length), pois := f.pois || pois, buf := f.buf ++ bs.take (f.len - f.got) }
    let s := feedAsk p g (s.modSiu p (fun u => { u with feeds := g :: rest }))
    siuSettle p (siuFuel s p) s

/-- Lines of a record in the ring, in a buffer half (R375; log entry 32). -/
def recLines64 (d : List Byte) : Nat := cdiv (16 + d.length) 64

/-- First line of a window's records in its buffer half, behind the record index, and the lines for records (R374, R377). -/
def Siu.half (u : Siu) (w : Nat) : Nat := u.wbase + w % 2 * u.whalf
def Siu.indexLines (u : Siu) : Nat := cdiv (2 ^ u.k) 8
def Siu.room (u : Siu) : Nat := u.whalf - u.indexLines

/-- The window that takes a record of n lines (R374): the one that fills, or the next, which needs a half that is free. -/
def Siu.winFor (u : Siu) (n : Nat) : Option (Nat × Bool) :=
  match u.wins.getLast? with
  | none => some (u.rposW, true)
  | some w =>
    if !(w.closed || decide (u.room < w.used + n)) then some (w.w, false)
    else if u.wins.length < 2 then some (w.w + 1, true) else none

/-- A record joins a window: the window before it closes, and it closes itself with its last record (R374). -/
def Siu.join (u : Siu) (new : Bool) (w : Nat) (r : SiuRec) (n foff before : Nat) : Siu :=
  if new then
    { u with kept := u.kept + 1, wins := u.wins.map (fun x => { x with closed := true }) ++ [⟨w, decide (2 ^ u.k ≤ 1), [r], n, foff, before⟩] }
  else { u with kept := u.kept + 1, wins := u.wins.map (fun x => if x.w = w then
      { x with recs := x.recs ++ [r], used := x.used + n, closed := decide (2 ^ u.k ≤ x.recs.length + 1) } else x) }

/-- A kept record is buffered (R374, R375): its lines and its place in the record index are written in class C2, both in a form of the
device's own, which is a free value; the payload stands behind 16 bytes (log entry 32). A record that waits for a half: none. -/
def siuKeep (p : Nat) (d : List Byte) (foff before : Nat) (s : State) : Option State :=
  let u := s.siu p
  let n := recLines64 d
  match u.winFor n with
  | none => none
  | some (w, new) =>
    let used := if new then 0 else match u.wins.getLast? with | some x => x.used | none => 0
    let pos := if new then 0 else match u.wins.getLast? with | some x => x.recs.length | none => 0
    let line := u.half w + u.indexLines + used
    let room := Nat.min n (u.room - used)
    let a := fresh s
    let b := fresh a.2
    let s := partWriteN p line ((leBytes 16 a.1 ++ padTo (64 * n - 16) d).take (64 * room)) b.2
    let s := partWrite p (u.half w + pos / 8) (leBytes 64 b.1) false s
    some (s.modSiu p (fun u => u.join new w ⟨u.kept, line, room, d.length⟩ n foff before))

/-- Count in a 16-bit counter that saturates (R377). -/
def up16 (n : Nat) : Nat := Nat.min 0xFFFF (n + 1)

/-- The records of a frame's decompressed data (R373), until one waits for a free buffer half: what is left then. -/
def siuRecords (p : Nat) : Nat → SiuRest → State → State × Option SiuRest
  | 0, _, s => (s, none)
  | n + 1, r, s =>
    let cut (s : State) : State := s.modSiu p (fun u => { u with frames := up16 u.frames })
    if r.bs = [] then (if r.whole then s else cut s, none)
    else
      let len := leNat (r.bs.take 4)
      let size := 8 + (len + 7) / 8 * 8
      if r.bs.length < 8 ∨ 16777216 < len ∨ r.bs.length < size then (cut s, none)
      else
        let d := (r.bs.drop 8).take len
        let next : SiuRest := { r with bs := r.bs.drop size }
        if crc32c d ≠ leNat ((r.bs.drop 4).take 4) then siuRecords p n next (s.modSiu p (fun u => { u with badcrc := up16 u.badcrc }))
        else if 0 < (s.siu p).passing then
          siuRecords p n { next with before := r.before + 1 } (s.modSiu p (fun u => { u with passing := u.passing - 1 }))
        else
          match siuKeep p d r.foff r.before s with
          | none => (s, some r)
          | some s => siuRecords p n { next with before := r.before + 1 } s

/-- A frame's records are taken as far as they go; at its end no record is left to pass over (R376). -/
def takeRecords (p : Nat) (r : SiuRest) (s : State) : State :=
  let x := siuRecords p (r.bs.length + 1) r s
  x.1.modSiu p (fun u => { u with
    passing := if x.2.isNone then 0 else u.passing
    feeds := match u.feeds with | f :: l => { f with rest := x.2 } :: l | [] => [] })

/-- The front feed's frames have used n of its bytes. -/
def feedUse (p n : Nat) (s : State) : State :=
  s.modSiu p (fun u => { u with
    off := u.off + n, feeds := match u.feeds with | f :: l => { f with left := f.left - n, buf := f.buf.drop n } :: l | [] => [] })

/-- A frame that is dropped whole: FRAMES counts it (R372). -/
def dropFrame (p used : Nat) (s : State) : State :=
  (feedUse p used s).modSiu p (fun u => { u with frames := up16 u.frames, passing := 0 })

/-- The frame at the front of a feed's bytes is decoded (R372): n bytes of it stand here, `used` are spent, `ended` unless a block of
it is malformed. -/
def decodeFrame (p : Nat) (z : ZFrame) (f : SiuFeed) (n used : Nat) (plain : Option (List Byte)) (ended : Bool) (s : State) : State :=
  let u := s.siu p
  let dict := if z.dictId = 0 then some [] else
    ((upTo 2).filterMap (fun i => (mget none u.dicts i))).find? (fun d => d.1.toNat == z.dictId) |>.map (·.2)
  match dict with
  | none => dropFrame p used s
  | some d =>
    if 2 ^ 23 < z.window then dropFrame p used s
    else
      let frame := f.buf.take n
      let c := zContent d frame plain ended
      let s := if ended && c.2 && !zSumOk z frame c.1 then s.modSiu p (fun u => { u with csum := up16 u.csum }) else s
      takeRecords p ⟨c.1, 0, c.2, u.off⟩ (feedUse p used s)

/-- The next frame of the feed that runs, if all of it has come; one that runs past the end of its feed is dropped, and a malformed
one drops the rest of the feed (R372; log entry 126). -/
def nextFrame (p : Nat) (f : SiuFeed) (s : State) : State :=
  let z := zFrame f.buf
  match z.end_ with
  | .more => if f.len ≤ f.got ∧ f.pois = false then dropFrame p f.left s else s
  | .bad n plain => decodeFrame p z f n f.left plain false s
  | .done n plain => if z.skippable then feedUse p n s else decodeFrame p z f n n plain true s

/-- SIU_FRAME_DECODE (R372–R374): the records that wait, or the next frame of the feed that runs. -/
def siuFrame (p : Nat) (s : State) : State :=
  match (s.siu p).feeds with
  | [] => s
  | f :: _ =>
    if !f.begun || !(s.part p).live then s
    else
      let r := feedPull p (cdiv (f.len - f.got) 64) f s
      let s := setFeed p r.1 r.2
      let frames := match f.op with | .data | .resume _ _ => (s.siu p).live && decide (0 < f.left ∨ f.rest.isSome) | _ => false
      let s := if !frames then s else match r.1.rest with
        | some x => takeRecords p x s
        | none => nextFrame p r.1 s
      siuSettle p (siuFuel s p) (s.modSiu p Siu.settlePos)

/-- The next i at or after `i` whose place holds a record (R374). -/
def nextPlace (seed : DWord) (w k m : Nat) : Nat → Nat → Nat
  | 0, i => i
  | n + 1, i => if perm seed (BitVec.ofNat 64 w) k i < m then i else nextPlace seed w k m n (i + 1)

/-- A record is written to the ring from line count `prod` (R375), and then the producer line. -/
def ringWrite (p : Nat) (u : Siu) (head data : List Byte) (lines : Nat) (s : State) : State :=
  let s := partWriteN p (u.obase + 2 + u.prod % u.oring) (padTo (64 * lines) (head ++ data)) s
  let s := s.modSiu p (fun u => { u with prod := u.prod + lines, waits := false })
  partWrite p u.obase (padTo 64 (leBytes 8 (u.prod + lines))) false s

/-- The window being emitted moves to its next i; after the last, to the next window (R374, R375). -/
def siuStep (p i : Nat) (s : State) : State :=
  let s := s.modSiu p (fun u =>
    if 2 ^ u.k ≤ i then
      { { u with wins := u.wins.drop 1, nexti := 0, rposW := u.rposW + 1, foff := u.off, skip := 0 } with waits := false }.settlePos
    else { u with nexti := i })
  siuEnds p s

/-- A record's payload from its buffer half (R374); of one that is larger than the half, the rest is a free value (log entry 32). -/
def siuData (p : Nat) (r : SiuRec) (s : State) : State × List Byte × Bool :=
  let x := partReadN 1 p r.line r.room s
  let d := (x.2.1.drop 16).take r.len
  if d.length = r.len then (x.1, d, x.2.2)
  else let a := fresh x.1; (a.2, d ++ leBytes (r.len - d.length) a.1, x.2.2)

/-- SIU_RECORD_EMIT (R374, R375): a PAD record first where the record would cross the ring's end. -/
def siuEmit (p : Nat) (s : State) : State :=
  let u := s.siu p
  match u.wins with
  | [] => s
  | w :: _ =>
    if !w.closed || !(s.part p).live then s
    else
      let i := nextPlace u.seed w.w u.k w.recs.length (2 ^ u.k - u.nexti) u.nexti
      if 2 ^ u.k ≤ i then siuStep p i s
      else
        match w.recs[perm u.seed (BitVec.ofNat 64 w.w) u.k i]? with
        | none => s
        | some r =>
          let n := cdiv (16 + r.len) 64
          let a := u.prod % u.oring
          if u.oring - 1 < n then siuStep p (i + 1) (s.modSiu p (fun u => { u with long := up16 u.long }))
          else if u.oring < a + n then
            let pad := u.oring - a
            if u.oring + u.cons < u.prod + pad then s.modSiu p (fun u => { u with waits := true, nexti := i })
            else
              ringWrite p u (leBytes 8 (2 ^ 64 - 1) ++ leBytes 4 (64 * pad - 16) ++ [1, 0, 0, 0]) [] pad (s.modSiu p (fun u => { u with nexti := i }))
          else if u.oring + u.cons < u.prod + n then s.modSiu p (fun u => { u with waits := true, nexti := i })
          else if !unitMay s 1 p ((upTo r.room).map (r.line + ·)) then s
          else
            let d := siuData p r s
            if d.2.2 then partFault p 0xA 0x30 0xA d.1
            else
              siuStep p (nextPlace u.seed w.w u.k w.recs.length (2 ^ u.k - (i + 1)) (i + 1))
                (ringWrite p u (leBytes 8 r.idx ++ leBytes 4 r.len ++ [0, 0, 0, 0]) d.2.1 n d.1)

/-- SIU_CONSUMER_REREAD (R375). -/
def siuReread (p : Nat) (s : State) : State :=
  let u := s.siu p
  if !u.waits || !unitMay s 1 p [u.obase + 1] then s
  else
    let r := partRead 1 p (u.obase + 1) s
    if r.2.2 then partFault p 0xA 0x30 0xA r.1 else
    r.1.modSiu p (fun u => { u with cons := leNat (r.2.1.take 8), waits := false })

def execSiuFeedData (p : PartId) (h : EntryHead) (f : FeedSrc) (s : State) : Res :=
  .next (startEntry p.toNat h 0x06 (fun bs => feedOp bs == 0 && feedBody bs == f) (fun w s => siuFeed p.toNat w .data f (2 ^ 64) s) s)
def execSiuFeedEpoch (p : PartId) (h : EntryHead) (seed : DWord) (k : BitVec 5) (s : State) : Res :=
  .next (startEntry p.toNat h 0x06 (fun bs => feedOp bs == 1 && entryBits bs 32 0 64 == seed.toNat && entryBits bs 10 0 5 == k.toNat)
    (fun w s => siuFeed p.toNat w (.epoch seed k.toNat) ⟨0, 0, 0, 0⟩ 0 s) s)
def execSiuFeedDict (p : PartId) (h : EntryHead) (f : FeedSrc) (slot : Bool) (id : Word) (s : State) : Res :=
  .next (startEntry p.toNat h 0x06 (fun bs => feedOp bs == 2 && feedBody bs == f && entryFlag bs 11 0 == slot && entryBits bs 12 0 32 == id.toNat)
    (fun w s => siuFeed p.toNat w (.dict slot id) f (2 ^ 20) s) s)
def execSiuFeedEnd (p : PartId) (h : EntryHead) (s : State) : Res :=
  .next (startEntry p.toNat h 0x06 (fun bs => feedOp bs == 3) (fun w s => siuFeed p.toNat w .finish ⟨0, 0, 0, 0⟩ 0 s) s)
def execSiuFeedResume (p : PartId) (h : EntryHead) (f : FeedSrc) (foff : DWord) (skip : Word) (s : State) : Res :=
  .next (startEntry p.toNat h 0x06 (fun bs => feedOp bs == 4 && feedBody bs == f && entryBits bs 32 0 64 == foff.toNat && entryBits bs 40 0 32 == skip.toNat)
    (fun w s => siuFeed p.toNat w (.resume foff.toNat skip.toNat) f (2 ^ 64) s) s)
def execSiuFrameDecode (p : PartId) (s : State) : Res := .next (siuFrame p.toNat s)
def execSiuRecordEmit (p : PartId) (s : State) : Res := .next (siuEmit p.toNat s)
def execSiuConsumerReread (p : PartId) (s : State) : Res := .next (siuReread p.toNat s)

end Sys2Proof.Machine
end

