-- ==== Sys2Proof/Machine/Management.lean ====
section
/-!
DEFINITION. The management path (R378–R399): which commands are accepted in which mode, the checks of a signed command, the
flash and its counter record, enrolment, COMMIT, TLS sessions.
-/

namespace Sys2Proof.Machine

/-- An erased byte of the flash reads 0xFF; `Tc.flash` keeps the complement, so that an unlisted byte is an erased one (log
entry 33). -/
def flashBytes (s : State) (a n : Nat) : List Byte := (rdBytes s.tc.flash a n).map (fun b => ~~~b)
def flashStore (a : Nat) (bs : List Byte) (s : State) : State :=
  s.modTc (fun t => { t with flash := wrBytes t.flash a (bs.map (fun b => ~~~b)) })
def flashErase (a n : Nat) (s : State) : State := s.modTc (fun t => { t with flash := zeroRange t.flash a n })

/-- An image copy (R384): its first address and its size. -/
def copyBase (b : Bool) : Nat := if b then 0x04000000 else 0
def copySize : Nat := 0x04000000

/-- The counter record is written into its other half (R385). -/
def writeCounters (s : State) : State :=
  let n := s.tc.ctrSeq + 1
  let body := leBytes 8 n ++ leBytes 4 s.tc.boots.toNat ++ leBytes 4 0 ++ leBytes 8 s.tc.cmdctr.toNat ++ leBytes 8 0
  flashStore (0x08030000 + 0x8000 * (n % 2)) (body ++ hmac384 s.tc.macKey body) (s.modTc (fun t => { t with ctrSeq := n }))

/-- An entry of the repair record (R385), a row by its channel, pseudo-channel, row and bank of R221. -/
def repairBytes : RepairEnt → List Byte
  | .lane c pc spare pin => [0, BitVec.ofNat 8 c, BitVec.ofNat 8 (pc % 2 + 2 * (spare % 2)), BitVec.ofNat 8 pin, 0, 0, 0, 0]
  | .row r => rowEnt 1 r
  | .lost c => [2, BitVec.ofNat 8 c, 0, 0, 0, 0, 0, 0]
  | .overRow r => rowEnt 3 r
where
  rowEnt (kind r : Nat) : List Byte :=
    [BitVec.ofNat 8 kind, BitVec.ofNat 8 (rowChan r), BitVec.ofNat 8 (rowPc r), 0] ++ leBytes 2 (rowNo r)
      ++ [BitVec.ofNat 8 (rowBank r), 0]

/-- A half of the repair record after n entries: each entry is one writing, into the halves in turn (R385). -/
def repairHalf (s : State) (n : Nat) : List Byte :=
  let body := padTo 65488 (leBytes 8 n ++ leBytes 4 n ++ leBytes 4 0 ++ (s.repairs.take n).flatMap repairBytes)
  body ++ hmac384 s.tc.macKey body

/-- What a read of the flash gives: the repair record's region shows the two latest writings. -/
def flashRead (s : State) (a n : Nat) : List Byte :=
  if inRange 0x08010000 0x0802FFFF a then
    let h := (a - 0x08010000) / 65536
    let k := s.repairs.length
    let m := if k % 2 = h then k else k - 1
    if m = 0 then flashBytes s a n else ((repairHalf s m).drop (a % 65536)).take n
  else flashBytes s a n

/-- Is a key certificate valid for a use (R383)? `sig` is the verdict of its signature. -/
def keyCertValid (s : State) (usage : Nat) (c : List Byte) (sig : Bool) : Bool :=
  let n (off k : Nat) := leNat ((c.drop off).take k)
  sig && n 0 4 == 0x5452434B && n 4 1 == usage && sha48 ((c.drop 112).take 96) == s.tc.roothash
    && decide (n 8 4 < 32) && !(s.tc.keyrevoke.getLsbD (n 8 4))

/-- Is a firmware header valid (R383, R386)? `sigs` is the verdict of its two signatures. -/
def hdrValid (s : State) (h : List Byte) (sigs : Bool) : Bool :=
  let n (off k : Nat) := leNat ((h.drop off).take k)
  let inLimits (off len maxLen : Nat) : Bool :=
    off % 4096 == 0 && decide (1 ≤ len) && decide (len ≤ maxLen) && decide (0x1000 ≤ off) && decide (off + len ≤ 0x3000000)
  sigs && n 0 4 == 0x57465A50 && n 4 4 == 1 && decide (n 8 1 ≤ 127) && decide (s.tc.fwfloor ≤ n 8 1)
    && decide (n 12 4 ≤ Config.romVersion.toNat) && inLimits (n 24 4) (n 28 4) 262144 && inLimits (n 32 4) (n 36 4) 33554432
    && keyCertValid s 1 ((h.drop 136).take 320) sigs

/-- The firmware header of a copy, and whether it is valid. -/
def fwHeader (s : State) (b : Bool) : List Byte := flashBytes s (copyBase b) 640
def fwValid (s : State) (b sigs : Bool) : Bool := hdrValid s (fwHeader s b) sigs

/-! A configuration section and its acceptance (R387, R388). -/

/-- Fields of a section's partition entry, slab entry, VC entry and topology words. -/
def secNum (c : List Byte) (off n : Nat) : Nat := leNat ((c.drop off).take n)
def secPart (c : List Byte) (p off n : Nat) : Nat := secNum c (0x400 + 32 * p + off) n
def secSlab (c : List Byte) (n : Nat) : Nat := secNum c (0x800 + 8 * n) 8
def secVc (c : List Byte) (q v : Nat) : Nat := secNum c (0x190 + 16 * q + 2 * v) 2
def secTopo (c : List Byte) (k j : Nat) : Nat := secNum c (0x1F0 + 40 * k + 8 * j) 8
def secRole (c : List Byte) (q : Nat) : Nat := secNum c (0x188 + q) 1

/-- Is a partition defined by a section. -/
def secDefined (c : List Byte) (p : Nat) : Bool := decide (p < 32) && secPart c p 0 4 != 0

/-- Do half-open ranges (first, count) overlap nowhere. -/
def disjoint : List (Nat × Nat) → Bool
  | [] => true
  | (a, n) :: r => r.all (fun x => n == 0 || x.2 == 0 || decide (a + n ≤ x.1) || decide (x.1 + x.2 ≤ a)) && disjoint r

def masksDisjoint : List Nat → Bool
  | [] => true
  | m :: r => r.all (fun x => Nat.land m x == 0) && masksDisjoint r

def noRepeats : List Nat → Bool
  | [] => true
  | a :: r => !r.contains a && noRepeats r

/-- Every field lies in its stated range (R387). -/
def secRanges (c : List Byte) : Bool :=
  let n := secNum c
  let crust (v : Nat) : Bool := decide (n (0x14A + 8 * v) 2 ≤ 768) && decide (n (0x148 + 8 * v) 2 + n (0x14A + 8 * v) 2 ≤ 768)
    && decide (n (0x14C + 8 * v) 1 ≤ 7)
  inRange 1000 3000 (n 0x100 2) && inRange 500 1500 (n 0x102 2) && inRange 500 2200 (n 0x104 2) && decide (n 0x106 2 ≤ 300)
    && decide (n 0x108 1 ≤ 4) && decide (n 0x140 1 ≤ 1) && crust 0 && crust 1
    && (upTo 7).all (fun q => decide (secRole c q ≤ 3))
    && decide (n 0x340 1 ≤ 2) && decide (n 0x348 1 ≤ 2) && decide (n 0x349 1 ≤ 5)
    && inRange 30 3600 (n 0x34C 4) && inRange 30 3600 (n 0x350 4) && decide (1 ≤ n 0x354 4)
    && decide (n 0x380 1 ≤ 1) && decide (n 0x381 1 ≤ 128) && decide (1 ≤ n 0x382 2) && inRange 1280 9000 (n 0x384 2)
    && inRange 1 4 (n 0x386 1) && (upTo 4).all (fun i => decide (n (0x2400 + 2048 * i) 2 ≤ 2044))

/-- Partitions' resources do not overlap and lie within the module's (R388). -/
def secParts (c : List Byte) : Bool :=
  let ps := upTo 32
  let rng (f w : Nat) (fw ww : Nat) := ps.map (fun p => (secPart c p f fw, secPart c p w ww))
  let descs := rng 4 6 2 2
  let ctxs := rng 8 10 2 4
  let slots := rng 15 16 1 2
  masksDisjoint (ps.map (fun p => secPart c p 0 4)) && disjoint descs && descs.all (fun r => decide (r.1 + r.2 ≤ 16384) || r.2 == 0)
    && disjoint ctxs && ctxs.all (fun r => decide (r.1 + r.2 ≤ 65536)) && decide (sumL (ctxs.map (·.2)) ≤ 65536)
    && disjoint slots && slots.all (fun r => decide (r.1 + r.2 ≤ 256))

/-- The slab table and the Crust regions (R388). -/
def secSlabs (c : List Byte) : Bool :=
  let ns := upTo 768
  let e (n : Nat) := secSlab c n
  let priv := ns.filter (fun n => bit (e n) 0 && !bit (e n) 1)
  let owner (n : Nat) := fld (e n) 4 5
  let shared (v n : Nat) : Bool := bit (e n) 0 && bit (e n) 1 && b2n (bit (e n) 2) == v
  let first (v : Nat) := secNum c (0x148 + 8 * v) 2
  let count (v : Nat) := secNum c (0x14A + 8 * v) 2
  let ks (v : Nat) := secNum c (0x14C + 8 * v) 1
  priv.all (fun n => secDefined c (owner n))
    && noRepeats (priv.map (fun n => owner n * 2048 + fld (e n) 9 11))
    && [0, 1].all (fun v => ns.all (fun n => shared v n == (decide (first v ≤ n) && decide (n < first v + count v)))
        && ns.all (fun n => !shared v n || fld (e n) 20 3 == ks v))
    && (count 0 == 0 || count 1 == 0 || ks 0 != ks 1)
    && ns.all (fun n => (upTo 32).all (fun p => !bit (fld (e n) 32 32) p || secDefined c p))

/-- Ports of a topology in a section. -/
def secTopoPorts (c : List Byte) (k : Nat) : List Nat :=
  let dn (d : Nat) := fld (secTopo c k 1) (6 * d) 3
  let up (d : Nat) := fld (secTopo c k 1) (6 * d + 3) 3
  match fld (secTopo c k 0) 0 2 with
  | 0 => []
  | 1 => [dn 0, up 0]
  | 2 => [dn 0, up 0, dn 1, up 1]
  | _ => (if dn 0 = 7 then [] else [dn 0]) ++ (upTo 6).filter (fun q => bit (fld (secTopo c k 1) 12 6) q)

/-- Virtual channels, topologies and roles (R388). -/
def secLinks (c : List Byte) : Bool :=
  let granted (q v : Nat) : Bool := bit (secVc c q v) 5
  (upTo 6).all (fun q => (upTo 8).all (fun v => !granted q v || secDefined c (fld (secVc c q v) 0 5))
      && decide (sumL ((upTo 8).map (fun v => if granted q v then fld (secVc c q v) 8 8 else 0)) ≤ 128) && secRole c q != 3)
    && (upTo 8).all (fun k => fld (secTopo c k 0) 0 2 == 0 || (secDefined c (fld (secTopo c k 0) 2 5)
      && (secTopoPorts c k).all (fun q => decide (q < 6) && secRole c q == 1 && granted q (fld (secTopo c k 0) 55 3)
        && fld (secVc c q (fld (secTopo c k 0) 55 3)) 0 5 == fld (secTopo c k 0) 2 5)))
    && (secRole c 6 == 0 || secRole c 6 == 3) && (secNum c 0x340 1 == 0 || secRole c 6 == 3)

/-- The 17,504 bytes of a copy's configuration section. -/
def sectionOf (s : State) (b : Bool) : List Byte := flashBytes s (copyBase b + 0x3000000) 17504

/-- Is a configuration section accepted (R388)? `sig` is the verdict of its operator signature, the slot's hash among it. -/
def cfgAccepted (s : State) (c : List Byte) (sig : Bool) : Bool :=
  sig && secNum c 0 4 == 0x4746435A && secNum c 4 4 == 1 && decide (secNum c 17 1 < 4)
    && !s.tc.oprevoke.getLsbD (secNum c 17 1) && mget [] s.tc.ophash (secNum c 17 1) != []
    && decide (s.tc.cfgfloor ≤ secNum c 16 1)
    && (secNum c 32 16 == 0 || secNum c 32 16 == s.tc.serial.toNat)
    && secRanges c && secParts c && secSlabs c && secLinks c

/-! Acceptance of commands (R390, R396–R398). -/

/-- MODE of R390. -/
def modeNormal : Nat := 0
def modeProvision : Nat := 1
def modeRecovery : Nat := 2
def modeHalted : Nat := 3

/-- Does the management service run: from Ready on, and in Halted mode (R390, R393). -/
def mgmtRuns (s : State) : Bool := s.tc.ready || s.tc.mode == 3

/-- Are commands signed: not in Provision mode nor in Halted mode without a section (R390). -/
def mgmtSigned (s : State) : Bool := s.tc.hasCfg

/-- Does the mode accept an opcode (R390). -/
def mgmtAllows (s : State) (op : Nat) : Bool :=
  if !s.tc.hasCfg then [0x0001, 0x0140, 0x0150].contains op
  else if s.tc.mode = 3 then [0x0001, 0x0130, 0x0140, 0x0141, 0x0142].contains op
  else true

/-- Command anchor a: VALID and its ROLES bit (R387, R397). -/
def anchorOk (s : State) (a role : Nat) : Bool :=
  cfgNum s (0x2000 + 128 * a) 1 == 1 && bit (cfgNum s (0x2001 + 128 * a) 1) role

/-- Status codes of R398. -/
def mOk : Nat := 0
def mRefused : Nat := 1
def mBadSig : Nat := 2
def mReplay : Nat := 3
def mWrongDev : Nat := 4
def mBadPkg : Nat := 5
def mNotAuth : Nat := 6
def mDigest : Nat := 7
def mAborted : Nat := 8

/-- CMDCTR takes the counter of an accepted command, in the counter record too (R397). -/
def countCommand (c : DWord) (s : State) : State := writeCounters (s.modTc (fun t => { t with cmdctr := c }))

/-- A management command arrives (R397): it is carried out by `f` once its checks have passed, in the order in which R397 names
them (log entry 35). `okSig` is the verdict of its signature and anchor. `wakes`: the command reaches a partition or the memory
system and is a wake event (R415; log entry 114). -/
def mgmtChecked (op : Nat) (env : Env) (okSig wakes : Bool) (f : State → State) (s : State) : State :=
  if env.serial ≠ s.tc.serial then respond op mWrongDev env.counter [] true s
  else if !okSig then respond op mBadSig env.counter [] true s
  else if env.counter.toNat ≤ s.tc.cmdctr.toNat then respond op mReplay env.counter [] true s
  else f (if wakes then wakeUp (countCommand env.counter s) else countCommand env.counter s)

def mgmtCommand (op role : Nat) (env : Env) (f : State → State) (s : State) : State :=
  if !mgmtRuns s then s
  else if !mgmtAllows s op then respond op mRefused env.counter [] (mgmtSigned s) s
  else if !mgmtSigned s then f s
  else mgmtChecked op env (env.sigOk && anchorOk s env.anchor.toNat role) (decide (role < 2)) f s

/-- A message that exceeds 1,049,600 bytes closes its session, and nothing of it is carried out (R396). An envelope has 148 bytes
beside the data of a FLASH_WRITE. -/
def sessionClose (s : State) : State := s.modTc (fun t => { t with sessions := t.sessions - 1 })

/-- FLASH_WRITE (R399): the copy that runs may be written only while the other one is whole. -/
def flashWrite (env : Env) (b erase : Bool) (off : Nat) (data : List Byte) (otherSigs : Bool) (s : State) : State :=
  let ans (st : Nat) (s : State) := respond 0x0140 st env.counter [] (mgmtSigned s) s
  let running := s.tc.fwCopy == b || (s.tc.hasCfg && s.tc.cfgCopy == b)
  let other := fwValid s (!b) otherSigs && cfgAccepted s (sectionOf s (!b)) otherSigs
  if off % 256 ≠ 0 ∨ 1048576 < data.length ∨ copySize < off + data.length ∨ (running && !other) then ans mRefused s
  else
    let s := if erase then flashErase (copyBase b) copySize s else s
    ans mOk (flashStore (copyBase b + off) data s)

/-- COMMIT (R391). -/
def commitFloors (counter : DWord) (s : State) : State :=
  let h := s.tc.fwHdr
  let s := s.modTc (fun t => { t with
    fwfloor := Nat.max t.fwfloor (leNat ((h.drop 8).take 1))
    cfgfloor := if t.hasCfg then Nat.max t.cfgfloor (secNum t.cfg 16 1) else t.cfgfloor
    keyrevoke := t.keyrevoke ||| BitVec.ofNat 32 (leNat ((h.drop 16).take 4)) })
  respond 0x0141 mOk counter [] true s

/-- ENROLL (R399): a blank slot takes the hash; with REVOKE = 1 the slot's revoke fuse is blown instead (log entry 36). -/
def enroll (counter : DWord) (slot : Nat) (revoke : Bool) (hash : List Byte) (s : State) : State :=
  let ans (st : Nat) (s : State) := respond 0x0150 st counter [] true s
  if revoke then
    ans mOk (s.modTc (fun t => { t with oprevoke := t.oprevoke ||| BitVec.ofNat 4 (2 ^ slot) }))
  else if mget [] s.tc.ophash slot ≠ [] ∨ s.tc.oprevoke.getLsbD slot then ans mRefused s
  else ans mOk (s.modTc (fun t => { t with ophash := mset [] t.ophash slot (padTo 48 hash) }))

/-- Sessions that may be open (R387); without a section, one (log entry 37). -/
def maxSessions (s : State) : Nat := if s.tc.hasCfg then cfgNum s 0x386 1 else 1

/-- The identity block of the flash: the identity certificate, and the manufacturing CA certificate behind it (R384). -/
def identityBlock (s : State) : List Byte := flashBytes s 0x08000004 (Nat.min 0xFFFC (leNat (flashBytes s 0x08000000 4)))
def identityCert (s : State) : List Byte := derFirst (identityBlock s)
def caCert (s : State) : List Byte := (identityBlock s).drop (identityCert s).length

/-- The certificates that the server sends behind the management certificate (R381, R382): an identity certificate whose key is not
the derived one is not served. -/
def serverChain (s : State) : List (List Byte) := (if s.tc.certOk then [identityCert s] else []) ++ [caCert s]

/-- A TCP connection is accepted, and the server's chain is sent, or closed when SESS sessions are open (R396). -/
def tlsAccept (s : State) : State :=
  if mgmtRuns s && decide (s.tc.sessions < maxSessions s) then
    emit (.tls s.tc.mgmtCert (serverChain s)) (s.modTc (fun t => { t with sessions := t.sessions + 1 }))
  else s

def execTlsConnectionAccept (s : State) : Res := .next (tlsAccept s)
def execFlashWrite (env : Env) (b erase : Bool) (off : Word) (data : List Byte) (otherSigs : Bool) (s : State) : Res :=
  .next (if 1049600 < 148 + data.length then sessionClose s
    else mgmtCommand 0x0140 3 env (flashWrite env b erase off.toNat data otherSigs) s)
def execCommit (env : Env) (s : State) : Res := .next (mgmtCommand 0x0141 3 env (commitFloors env.counter) s)
/-- ENROLL carries its own key certificate and signature in every mode that accepts it (R383, R390, R398); `certSig` is the verdict of
the certificate's signature. -/
def execEnroll (env : Env) (slot : BitVec 2) (revoke : Bool) (hash cert : List Byte) (certSig : Bool) (s : State) : Res :=
  .next (
    if !mgmtRuns s then s
    else if !mgmtAllows s 0x0150 then respond 0x0150 mRefused env.counter [] true s
    else mgmtChecked 0x0150 env (keyCertValid s 2 cert certSig && env.sigOk) false (enroll env.counter slot.toNat revoke hash) s)

end Sys2Proof.Machine
end

