-- ==== Sys2Proof/Machine/Partition.lean ====
section
/-!
DEFINITION. Partitions (R317–R343): ownership actions, resizes, resets, the Glaze of granules and the end of a slab's, DISSOLVE.
-/

namespace Sys2Proof.Machine

/-! Resets (R325–R332). -/

/-- Entries of p that are owed a completion: fetched, not completed, of a pair still enabled. -/
def owed (q : Part) : Nat := sumL (q.queues.map (fun e => if e.2.en then e.2.opened else 0))

/-- What a reset does to a pair (R369): fetched entries are gone but for PART_RESETs, which may still be merged (R332), SQHEAD
moves to the tail last written; only the PART_RESET that the reset answers is still owed. -/
def Queue.onReset (ws : List Work) (n : Nat) (u : Queue) : Queue :=
  { u with
    sqhead := u.tail, fetched := u.fetched.filter (fun e => (nth 0 e.bytes 0).toNat == 8)
    opened := (ws.filter (fun w => w.q == n && w.ep == u.ep)).length }

/-- Bucket slots, their ledger entries and the waiting SEND frames of p (R312). -/
def freeSlots (p : Nat) (s : State) : State :=
  let ks := toposOf s p
  let s := forEach (upTo (slotCount s p)) (fun i s => s.modBucket (slotBase s p + i) (fun _ => bucket0)) s
  s.modPcl (fun x => { x with early := x.early.filter (fun e => !(match topoAt s e.1 e.2.vc.toNat with
    | some k => ks.contains k
    | none => false)) })

/-- Reads of host memory and of storage endpoints that belong to p. -/
def Req.ofPart (s : State) (p : Nat) : Req → Bool
  | .entry a _ _ _ => a == p
  | .run a _ => a == p
  | .input a _ => a == p
  | .move a => a == p
  | .stage i => inRangeOf s p i
  | .feed a => a == p
  | .crust _ => false
  | .trailer a => a == p
  | .restore a => a == p
  | .gone => false

/-- Work of p that its units lose at a reset (R326, R330): writes not begun, read data that would land, requests not yet
accepted. -/
def squash (p : Nat) (s : State) : State :=
  let s := s.modHost (fun h => { h with held := h.held.filter (fun o => match o with
    | .mwr a _ _ _ => a != p
    | .ntf _ a _ _ => a != p
    | .cpl w _ _ _ => w.p != p
    | _ => true) })
  let s := dropReads (Req.ofPart s p) s
  s.modHbm (fun h => { h with crumbQ := h.crumbQ.filterMap (fun e =>
    let l := e.2.filter (fun x => x.1.toNat != p)
    if l = [] then none else some (e.1, l)) })

/-- A reset of p is taken (R328, R331, R369). The state of R329 is written when it completes. -/
def resetTaken (p : Nat) (dissolve : Bool) (works : List Work) (mgmt : List DWord) (s : State) : State :=
  let q := s.part p
  let gen := q.gen + 1
  let works := works.map (fun w => { w with gen := gen })
  let twin := mirrors s p
  let s := s.modPart p (fun q => { q with
    gen := gen, resets := q.resets + 1, resizesRst := 0, pstate := if dissolve then 4 else 2, frozen := true
    seq := { q.seq.stopped with inflight := [], lines := [], reqs := [], crumbs := [], memTok := [], movTok := [] }
    ctxF := { q.ctxF with loaded := false, head := none }, ctxB := { q.ctxB with loaded := false, head := none }
    runs := [], moves := [], steps := [], dlv := []
    queues := q.queues.map (fun e => (e.1, e.2.onReset works e.1))
    reset := some ⟨works, mgmt, owed q - works.length, !twin⟩ })
  let s := squash p (abandonCheckpoints p stAborted 5 (sendHalts p 0x0100 true s))
  let s := if twin then sendTwin 0x14 1 p 0 [] s else s
  let s := if dissolve then s else notify 3 p (2 + 2 ^ 32 * gen.toNat) s
  let s := fillReset p s
  let s := s.modFills (fun x => { x with
    ctxs := mfilter (fun c => !(decide (cbase s p ≤ c) && decide (c < cbase s p + ccount s p))) x.ctxs })
  freeSlots p s

/-- A reset of p reaches the device (R327, R332): one that meets another, or a partition being dissolved, is merged into it. -/
def resetPart (p : Nat) (dissolve : Bool) (works : List Work) (mgmt : List DWord) (s : State) : State :=
  let q := s.part p
  match q.reset with
  | some r =>
    let s := clamp p 0xE s
    let works := works.map (fun w => { w with gen := q.gen })
    let s := forEach works (fun w s => s.modQueue p w.q (fun u => { u with opened := u.opened + 1 })) s
    s.modPart p (fun q => { q with
      reset := some { r with works := r.works ++ works, mgmt := r.mgmt ++ mgmt, lost := r.lost - works.length } })
  | none =>
    if q.pstate = 4 then (clamp p 0xE s).modPart p (fun q => { q with reset := some ⟨works, mgmt, 0, true⟩ })
    else resetTaken p dissolve works mgmt s

/-- A tile after a partition reset (R329): tally slots, vector and mask registers and all flags are zero. -/
def Tile.onReset (t : Tile) : Tile := { t with arrStat := [], vec := ⟨[], [], [], 0⟩, updStat := 0 }

/-- The state of R329 is written; what the table does not name stays. -/
def resetState (p : Nat) (s : State) : State :=
  let s := forEach (s.part p).tiles (fun t s => s.modTile t Tile.onReset) s
  s.modPart p (fun q => { q with
    ctxF := ctx0, ctxB := ctx0
    seq := { seq0 with cyc := q.seq.cyc, nextGate := q.seq.nextGate, nextReq := q.seq.nextReq }
    regs := [], fresh := [], cvu := cvu0, fill := fillPart0, dlvLine := 0, dlvCount := 0, dlv := [], dlvNext := 0
    siu := { siu0 with cfg := q.siu.cfg } })

/-! Ownership actions: when they may be taken (R319). -/

/-- Does an action name a partition. -/
def Act.moves (a : Act) : Bool := a.op == 0x103 || a.op == 0x106
def Act.grants (a : Act) : Bool := a.op == 0x101 || a.op == 0x104
def Act.reclaims (a : Act) : Bool := a.op == 0x102 || a.op == 0x105

def Act.names (a : Act) (p : Nat) : Bool := a.p == p || (a.moves && a.q == p)

def Act.meets (a b : Act) : Bool := b.names a.p || (a.moves && b.names a.q)

def ownGrans (mask : Word) : List Nat := (upTo 32).filter (fun g => mask.getLsbD g)

/-- Is a granule in the free pool and promised to no action (R317). -/
def granFree (s : State) (g : Nat) : Bool :=
  (upTo 32).all (fun p => !(s.part p).hasGran g) && (mget none s.glazeGrans g).isNone
    && !(s.acts.any (fun a => a.stage != 9 && a.grans && a.mask.getLsbD g))

/-- Is a slab in the free pool and promised to no action (R317). -/
def slabFree (s : State) (n : Nat) : Bool :=
  !(s.slab n).valid && (s.slab n).avail && (mget none s.glazeSlabs n).isNone
    && !(s.acts.any (fun a => a.stage != 9 && a.grants && a.slabs.any (fun e => e.1 == n)))

/-- Is a PSLOT of a partition taken by a private slab that stays, or by one under a Glaze for it (R319). -/
def pslotTaken (s : State) (leaving : List Nat) (p ps : Nat) : Bool :=
  s.hbm.slabs.any (fun e => e.2.valid && !e.2.shared && e.2.owner.toNat == p && e.2.pslot.toNat == ps && !leaving.contains e.1)
    || s.glazeSlabs.any (fun e => match e.2 with
      | some j => (match j.dest with | some (o, x) => o.toNat == p && x.toNat == ps | none => false)
      | none => false)

def ownsSlab (s : State) (p n : Nat) : Bool := (s.slab n).valid && !(s.slab n).shared && (s.slab n).owner.toNat == p

/-- Would p keep a granule, and the indices of its programs with RSZ = 1, without `mask` (R319, R322). -/
def mayShrink (q : Part) (mask : Word) : Bool :=
  let rest := q.granules &&& ~~~mask
  let size := ((upTo 32).filter (fun g => rest.getLsbD g)).length * granBundles
  let ok (c : Ctx) : Bool := !c.loaded || !hdrRsz c.hdr || decide (c.hi ≤ size)
  (mask == 0 || (rest != 0 && ok q.ctxF && ok q.ctxB)) && (mask &&& ~~~q.granules) == 0

/-- May an action's granules be granted, reclaimed or moved (R319). -/
def gransOk (s : State) (a : Act) : Bool :=
  if a.grants then (ownGrans a.mask).all (granFree s) else mayShrink (s.part a.p) a.mask

/-- May an action's slabs be granted, reclaimed or moved: each named once, no PSLOT taken twice (R319). -/
def slabsOk (s : State) (a : Act) : Bool :=
  let ns := a.slabs.map (·.1)
  let leaving := if a.moves && a.p == a.q then ns else []
  decide (ns.eraseDups.length = ns.length) && ns.all (fun n => decide (n < 768)) &&
    (if a.grants then ns.all (slabFree s) else ns.all (ownsSlab s a.p)) &&
    (a.reclaims || (decide ((a.slabs.map (·.2)).eraseDups.length = ns.length) &&
      a.slabs.all (fun e => !pslotTaken s leaving (if a.moves then a.q else a.p) e.2)))

/-- Does the TC take an action (R319)? -/
def actOk (s : State) (a : Act) : Bool :=
  if a.grants || a.reclaims || a.moves then gransOk s a && slabsOk s a
  else if a.op = 0x107 ∨ a.op = 0x108 then decide (a.v < 2)
  else a.op == 0x109 || (s.part a.p).pstate != 0

/-- An action ends with a response (R398). -/
def actEnd (a : Act) (status : Nat) (s : State) : State :=
  respond a.op status a.counter [] true (s.modActs (fun l => l.filter (fun b => b.counter != a.counter)))

def setStageOf (a : Act) (n : Nat) (s : State) : State :=
  s.modActs (fun l => l.map (fun b => if b.counter = a.counter then { b with stage := n } else b))

/-- p's bit in GRANT of every slab of a Crust region (R318). -/
def shareRegion (p v : Nat) (on : Bool) (s : State) : State :=
  let m : Word := BitVec.ofNat 32 (2 ^ p)
  forEach (crustRegion s v) (fun n s => s.modSlab n (fun e => { e with grant := if on then e.grant ||| m else e.grant &&& ~~~m })) s

/-- Does a transfer of p to a slab still run (R217): a request issued and not served, a DATA_MOVE, the drain of a checkpoint. -/
def slabBusy (s : State) (p n : Nat) : Bool :=
  let q := s.part p
  let mine (l : Nat) : Bool := match translate s p l with | some d => d / 2 ^ 29 == n | none => false
  let own := if (s.slab n).shared then mine else fun l => l / 2 ^ 23 == (s.slab n).pslot.toNat
  let span (a b : Nat) : Bool := decide (a < b) && (own a || own (b - 1) || decide (a / 2 ^ 23 < (s.slab n).pslot.toNat ∧ (s.slab n).pslot.toNat < b / 2 ^ 23))
  q.seq.lines.any (fun l => l.arrived.isNone && l.dev / 2 ^ 29 == n) || !q.seq.crumbs.isEmpty
    || q.moves.any (fun m => span (m.line + m.done) (m.line + m.n))
    || q.ckp.jobs.any (fun j => j.secs.any (fun e => e.2.any (fun x => match x with
        | .lines first count _ => span first (first + count)
        | .bytes _ => false)))

/-- Are transfers of p outstanding to a slab that an action takes from it. -/
def actBusy (s : State) (p : Nat) (a : Act) : Bool :=
  if a.op = 0x108 then (crustRegion s a.v).any (slabBusy s p)
  else !a.grants && a.p == p && decide (a.stage < 3) && a.slabs.any (fun e => slabBusy s p e.1)

/-- The free slabs of a grant begin their Glaze for p (R333). -/
def grantSlabs (p : Nat) (l : List (Nat × Nat)) (s : State) : State :=
  forEach l (fun e s => startGlaze e.1 (some (BitVec.ofNat 5 p, BitVec.ofNat 11 e.2)) none s) s

/-- REVOKE_SHARED takes effect once no transfer of p to the region is outstanding (R217, R320). -/
def revoke (a : Act) (s : State) : State :=
  if actBusy s a.p a then setStageOf a 5 s else actEnd a mOk (shareRegion a.p a.v false s)

/-- An action is taken by the TC: refused, carried out where it needs no gate, or left to wait for its gate (R319, R320). A grant
of slabs alone needs none; with granules it takes effect as a whole at their gate (R318). A DISSOLVE begins with its reset (R325,
R339). -/
def actTake (a : Act) (s : State) : State :=
  if !actOk s a then actEnd a mRefused s
  else if a.grants && !a.grans then actEnd a mOk (grantSlabs a.p a.slabs s)
  else match a.op with
    | 0x107 => actEnd a mOk (shareRegion a.p a.v true s)
    | 0x108 => revoke a s
    | 0x109 => actEnd a mOk (s.modHbm (fun h => { h with weights := mset 0 h.weights a.p (BitVec.ofNat 8 a.v) }))
    | 0x10A => resetPart a.p true [] [] (setStageOf a 1 s)
    | _ => setStageOf a 0 s

/-- The first action that may be taken: no earlier one names a partition of it, and its p is in no reset (R319, R320, R329). -/
def nextAct (s : State) : List Act → List Act → Option Act
  | _, [] => none
  | before, a :: r =>
    let held := (s.part a.p).reset.isSome || (s.part a.p).pstate == 4
    if a.stage = 9 ∧ !(before.any (fun b => a.meets b)) ∧ !held then some a else nextAct s (before ++ [a]) r

/-- Every action that may be taken is taken. -/
def kickActs : Nat → State → State
  | 0, s => s
  | n + 1, s =>
    match nextAct s [] s.acts with
    | none => s
    | some a => kickActs n (actTake a s)

def settleActs (s : State) : State := kickActs s.acts.length s

/-- An ownership command has passed its checks (R319). -/
def actAccept (a : Act) (s : State) : State := settleActs (s.modActs (fun l => l ++ [a]))

/-! Taking effect (R320–R324). -/

/-- Has p a program that has not ended. -/
def Part.runs_ (q : Part) : Bool := q.ctxF.loaded || q.ctxB.loaded

/-- Is p's issuing context at a gate with none unresolved (R320). -/
def atGate (s : State) (p : Nat) : Bool :=
  let q := s.part p
  q.live && q.ctx.loaded && q.seq.gates == [] && q.seq.switch.isNone && q.seq.undo.isNone && q.seq.heldFlip.isNone
    && q.seq.heldLoad.isNone && !capturing q && hasGate (bundleAt s p).ctl

/-- The granules that p owns after an action. -/
def gransAfter (q : Part) (p : Nat) (a : Act) : Word :=
  if a.grants ∨ (a.stage ≥ 3 ∧ a.q = p) then q.granules ||| a.mask
  else if a.reclaims ∨ a.moves then q.granules &&& ~~~a.mask else q.granules

/-- Step 5 of R321: p holds other granules; the instruction memories of the new set hold the bundles of the indices before, or
zeros. The instruction memory of granules that left and are no copy's target stays until it is cleared. -/
def regroup (p : Nat) (grans : Word) (s : State) : State :=
  let old := (s.part p).grans
  let mems := s.imem
  let s := s.modPart p (fun q => { q with granules := grans, resizes := q.resizes + 1, resizesRst := q.resizesRst + 1 })
  forEach (s.part p).grans.zipIdx (fun e s => s.modImem e.1 (fun _ => match old[e.2]? with | some g => nth [] mems g | none => [])) s

/-- A key slot of a partition that becomes defined (R263, R317): epoch 0 is loaded with a fresh key. -/
def freshKey (p : Nat) (s : State) : State :=
  let (id, s) := newKey s
  s.modKey p (fun x => { x with k0 := none, k1 := none, cur := false, loading := some (false, id), flipDue := false, sweep := none })

/-- A slab leaves p: fillings that touch it are evicted, its lines become holes, its Glaze begins (R208, R321, R335). -/
def slabLeaves (p n : Nat) (dest : Option (PartId × BitVec 11)) (diss : Option Nat) (s : State) : State :=
  let s := evictSlab p (s.slab n).pslot.toNat s
  let s := s.modSlab n (fun e => { e with valid := false, owner := 0, pslot := 0 })
  let s := if privateSlabs s p = [] ∧ !glazesFor s p then destroyKeys p s else s
  startGlaze n dest diss s

/-- Granules begin step 3 of their Glaze (R334, R337). -/
def clearGrans (src : Nat) (gs : List Nat) (dest : Option PartId) (s : State) : State :=
  forEach gs (fun g s => s.modGlazeGrans (fun m => mset none m g (some ⟨src, dest, false⟩))) s

/-- Steps 2 to 5 of R321 for an action in p. -/
def actApply (p : Nat) (a : Act) (s : State) : State :=
  let q := s.part p
  let s := if a.grants then grantSlabs p a.slabs s
    else if a.stage < 3 then
      forEach a.slabs (fun e s =>
        slabLeaves p e.1 (if a.moves then some (BitVec.ofNat 5 a.q, BitVec.ofNat 11 e.2) else none) none s) s
    else s
  if !a.grans then s
  else
    let s := if q.pstate = 0 then notify 3 p (1 + 2 ^ 32 * q.gen.toNat) (freshKey p (s.modPart p (fun q => { q with pstate := 1, wake := 20 }))) else s
    let leaving := (ownGrans a.mask).filter (fun g => q.hasGran g && !(gransAfter q p a).getLsbD g)
    clearGrans p leaving (if a.moves then some (BitVec.ofNat 5 a.q) else none) (regroup p (gransAfter q p a) s)

/-- An action has taken effect in p: it waits for its granules' step 3 and then for q, or is answered (R340, R398). -/
def actDone (p : Nat) (a : Act) (s : State) : State :=
  if a.moves ∧ a.grans ∧ a.stage < 3 then
    if (ownGrans a.mask).all (fun g => match mget none s.glazeGrans g with | some x => x.cleared | none => true) then setStageOf a 3 s
    else setStageOf a 2 s
  else
    let s := if a.moves then
        forEach (ownGrans a.mask) (fun g s => s.modGlazeGrans (fun m => mset none m g none)) s
      else s
    let s := actEnd a mOk s
    if (s.part p).reset.isSome then s else settleActs s

/-- An action takes effect in p at once: p holds no program, is halted, or has just been reset (R320, R329). -/
def actNow (p : Nat) (a : Act) (s : State) : State := actDone p a (actApply p a s)

/-- p's state in a notification of kind 0x3 (R361). -/
def notifyState (p : Nat) (s : State) : State :=
  notify 3 p ((s.part p).pstate.toNat + 2 ^ 32 * (s.part p).gen.toNat) s

/-- OWNERSHIP_ACTION_EFFECT (R15, R320): at once, or at a qualifying gate, where the resize of R321 begins. No slab leaves while a
transfer of p to it is outstanding (R217). -/
def actEffect (p : Nat) (s : State) : State :=
  let q := s.part p
  match s.acts.find? (fun a => a.stage == 5 && a.p == p && !actBusy s p a) with
  | some a => settleActs (revoke a s)
  | none =>
  match actDue s p with
  | none => s
  | some a =>
    if q.reset.isSome || q.pstate == 4 || q.resize.isSome then s
    else if !q.runs_ || q.pstate == 5 then (if actBusy s p a then s else actNow p a s)
    else if !atGate s p then s
    else
      let s := (setStageOf a (a.stage + 1) s).modPart p (fun q => { q with
        resize := some ⟨gransAfter q p a, false⟩, pstate := if a.grans then 3 else q.pstate })
      if a.grans then notifyState p s else s

/-- The action that p is taking. -/
def actTaking (s : State) (p : Nat) : Option Act :=
  s.acts.find? (fun a => a.op != 0x10A && ((a.stage == 1 && a.p == p) || (a.stage == 4 && a.q == p)))

/-- RESIZE_QUIESCE_END (R321 steps 1 to 5): every operation issued before the gate has completed. -/
def quiesceEnd (p : Nat) (s : State) : State :=
  let q := s.part p
  match q.resize, actTaking s p with
  | some z, some a =>
    if z.quiet || !(q.seq.reqs.isEmpty && q.seq.crumbs.isEmpty && q.seq.lines.isEmpty && q.seq.movTok.isEmpty) || actBusy s p a then s
    else
      let s := advance p (maxL (q.seq.inflight.map (·.at_))) s
      (actApply p a s).modPart p (fun q => { q with resize := some ⟨q.granules, true⟩ })
  | _, _ => s

/-- Staging of the current and the next unit restarts in the new set of tiles (R207). -/
def restage (p : Nat) (s : State) : State :=
  s.modPart p (fun q => { q with fill := { q.fill with
    copied := Nat.min q.fill.copied (q.fill.named - 1), copying := none, leases := q.fill.leases.map (fun e => (e.1, e.2.map (fun l => { l with ready := none }))) } })

/-- RESIZE_RESUME (R321 steps 6, 7): the shape records are written, staging restarts, the action has taken effect, and the
gate bundle is evaluated. -/
def resizeResume (p : Nat) (s : State) : State :=
  match (s.part p).resize, actTaking s p with
  | some z, some a =>
    if !z.quiet then s
    else
      let s := if a.grans then restage p (writeShapes p s) else s
      let s := s.modPart p (fun q => { q with resize := none, pstate := if q.pstate = 3 then 1 else q.pstate })
      bundleIssue p (actDone p a (if a.grans then notifyState p s else s))
  | _, _ => s

/-! The end of a reset (R329–R332). -/

/-- Actions held by p's reset take effect in arrival order before the queues unfreeze (R329). -/
def actsAtReset (p : Nat) : Nat → State → State
  | 0, s => s
  | n + 1, s =>
    let s := settleActs s
    match s.acts.find? (fun a => a.stage == 5 && a.p == p && !actBusy s p a), actDue s p with
    | some a, _ => actsAtReset p n (revoke a s)
    | none, some a => actsAtReset p n (actNow p a s)
    | none, none => s

/-- May p's reset complete (R330, R331): no resize before its step 6, no clearing of its granules in progress, the mirror's
drain over. -/
def resetMayEnd (s : State) (p : Nat) : Bool :=
  let q := s.part p
  let acked := ((s.port 6).vc 1).queue.all (fun e => !isPreset e.2) && ((s.port 6).vc 1).sent.all (fun e => !isPreset e.2)
  match q.reset with
  | none => false
  | some r => q.resize.isNone && (r.mirror || acked)
      && s.glazeGrans.all (fun e => match e.2 with | some g => g.src != p || g.cleared | none => true)
where
  isPreset (f : Frame) : Bool := f.tag.toNat == 0x14 && f.step.toNat == p

/-- DISSOLVE after its reset (R339): every granule and private slab of p goes under one Glaze. -/
def dissolveGlaze (p : Nat) (s : State) : State :=
  let s := forEach (privateSlabs s p) (fun n s => slabLeaves p n none (some p) s) s
  let gs := (s.part p).grans
  clearGrans p gs none (s.modPart p (fun q => { q with granules := 0 }))

/-- A DISSOLVE ends with its last step 2 and step 3 (R339, R369): p is undefined and its pairs are disabled. -/
def dissolveSettle (p : Nat) (s : State) : State :=
  let q := s.part p
  if q.pstate ≠ 4 ∨ q.granules ≠ 0
      ∨ s.glazeGrans.any (fun e => match e.2 with | some g => g.src == p && !g.cleared | none => false)
      ∨ s.glazeSlabs.any (fun e => match e.2 with | some j => j.diss == some p | none => false) then s
  else
    let r := q.reset
    let s := s.modPart p (fun q => { q with
      pstate := 0, frozen := false, bells := [], reset := none, queues := q.queues.map (fun e => (e.1, { e.2 with en := false, tail := e.2.sqhead })) })
    let s := forEach (match r with | some r => r.mgmt | none => []) (fun c s => respond 0x0110 mOk c [] true s) s
    let s := match s.acts.find? (fun a => a.op == 0x10A && a.p == p && a.stage == 1) with
      | some a => actEnd a mOk s
      | none => s
    settleActs (notify 3 p (2 ^ 32 * q.gen.toNat) s)

/-- RESET_COMPLETE (R331, R332, R369). In Device-fatal state the partition stays halted (R432). -/
def resetComplete (p : Nat) (s : State) : State :=
  match (s.part p).reset with
  | none => s
  | some r =>
    if !resetMayEnd s p || (s.part p).granules == 0 then s
    else
      let gen := (s.part p).gen
      let diss := (s.part p).pstate == 4
      let s := report 0 0 0x0001 p gen.toNat (resetState p s)
      let s := sendVcResets p (s.modPart p (fun q => { q with
        reset := none, pstate := if diss then 4 else if s.mdl.fatal then 5 else 1
        queues := q.queues.map (fun e => (e.1, { e.2 with fetched := [] })) }))
      let s := forEach r.mgmt (fun c s => respond 0x0110 mOk c [] true s) s
      if diss then dissolveSettle p (dissolveGlaze p s)
      else
        let s := forEach r.works (fun w s => complete w stDone r.lost [] s) s
        let s := notify 3 p ((s.part p).pstate.toNat + 16 + 2 ^ 32 * gen.toNat) s
        let s := actsAtReset p s.acts.length s
        -- a DISSOLVE that the reset held has begun with a reset of its own (R320, R325)
        if s.mdl.fatal || (s.part p).reset.isSome then s else unfreeze p s

/-- PART_RESET (R327, R332, R368): one that meets a reset is merged, and one of a halted partition is taken, although the
queues are frozen (log entry 39). -/
def partReset (p : Nat) (h : EntryHead) (s : State) : State :=
  let q := s.part p
  if q.pstate = 0 then s
  else if q.frozen then
    if entryIs s p h 0x08 anyBody then resetPart p false [workOf s p h 0x08] [] (takeEntry p h.q.toNat s) else s
  else startEntry p h 0x08 anyBody (fun w s => resetPart p false [w] [] s) s

/-! The Glaze (R333–R340). -/

/-- A tile after step 3 (R337). -/
def Tile.cleared (_ : Tile) : Tile := tile0

/-- GRANULE_CLEAR_END (R337): the granule's tiles and its instruction memory are cleared; it enters the free pool, or waits
for a gate of the partition it will join. -/
def granClearEnd (g : Nat) (s : State) : State :=
  match mget none s.glazeGrans g with
  | none => s
  | some x =>
    if x.cleared then s
    else
      let s := forEach ((upTo 128).filter (fun t => granuleOf t == g)) (fun t s => s.modTile t Tile.cleared) s
      let s := s.modImem g (fun _ => [])
      let s := s.modGlazeGrans (fun m => mset none m g (x.dest.map (fun d => ⟨x.src, some d, true⟩)))
      let s := match x.dest with | some d => s.modSeq d.toNat (Seq.arrives 1280) | none => s
      let s := match s.acts.find? (fun a => a.stage == 2 && a.mask.getLsbD g) with
        | none => s
        | some a =>
          if (ownGrans a.mask).all (fun i => match mget none s.glazeGrans i with | some y => y.cleared | none => true) then setStageOf a 3 s
          else s
      dissolveSettle x.src s

/-- SLAB_GLAZE_END (R340). -/
def slabGlazeEnd (n : Nat) (s : State) : State :=
  if !glazeDone s n then s
  else
    let d := (mget none s.glazeSlabs n).bind (fun j => j.diss)
    let s := glazeEnd n s
    match d with | some p => dissolveSettle p s | none => s

def act (op p q : Nat) (mask : Word) (slabs : List (Nat × Nat)) (v : Nat) (env : Env) : Act := ⟨op, p, q, mask, slabs, v, env.counter, 9⟩

def slabPairs (l : List (SlabId × BitVec 11)) : List (Nat × Nat) := l.map (fun e => (e.1.toNat, e.2.toNat))

/-- An ownership command (R398): role bit 0. -/
def ownCommand (a : Act) (env : Env) (s : State) : State := mgmtCommand a.op 0 env (actAccept a) s

/-- A granule command may carry slabs for the same partitions (R318). -/
def execGrantGran (env : Env) (p : PartId) (mask : Word) (slabs : List (SlabId × BitVec 11)) (s : State) : Res :=
  .next (ownCommand (act 0x101 p.toNat 0 mask (slabPairs slabs) 0 env) env s)
def execReclaimGran (env : Env) (p : PartId) (mask : Word) (slabs : List SlabId) (s : State) : Res :=
  .next (ownCommand (act 0x102 p.toNat 0 mask (slabs.map (fun n => (n.toNat, 0))) 0 env) env s)
def execMoveGran (env : Env) (p q : PartId) (mask : Word) (slabs : List (SlabId × BitVec 11)) (s : State) : Res :=
  .next (ownCommand (act 0x103 p.toNat q.toNat mask (slabPairs slabs) 0 env) env s)
def execGrantSlab (env : Env) (p : PartId) (slab : SlabId) (ps : BitVec 11) (s : State) : Res :=
  .next (ownCommand (act 0x104 p.toNat 0 0 [(slab.toNat, ps.toNat)] 0 env) env s)
def execReclaimSlab (env : Env) (p : PartId) (slab : SlabId) (s : State) : Res :=
  .next (ownCommand (act 0x105 p.toNat 0 0 [(slab.toNat, 0)] 0 env) env s)
def execMoveSlab (env : Env) (p q : PartId) (slab : SlabId) (ps : BitVec 11) (s : State) : Res :=
  .next (ownCommand (act 0x106 p.toNat q.toNat 0 [(slab.toNat, ps.toNat)] 0 env) env s)
def execGrantShared (env : Env) (p : PartId) (v : Byte) (s : State) : Res :=
  .next (ownCommand (act 0x107 p.toNat 0 0 [] v.toNat env) env s)
def execRevokeShared (env : Env) (p : PartId) (v : Byte) (s : State) : Res :=
  .next (ownCommand (act 0x108 p.toNat 0 0 [] v.toNat env) env s)
def execSetShare (env : Env) (p : PartId) (weight : Byte) (s : State) : Res :=
  .next (ownCommand (act 0x109 p.toNat 0 0 [] weight.toNat env) env s)
def execDissolve (env : Env) (p : PartId) (s : State) : Res := .next (ownCommand (act 0x10A p.toNat 0 0 [] 0 env) env s)
/-- RESET_PART (R327, R398): an undefined partition has nothing to reset (log entry 38). -/
def execResetPart (env : Env) (p : PartId) (s : State) : Res :=
  .next (mgmtCommand 0x0110 0 env (fun s =>
    if (s.part p.toNat).pstate = 0 then respond 0x0110 mRefused env.counter [] true s
    else resetPart p.toNat false [] [env.counter] s) s)
def execOwnershipActionEffect (p : PartId) (s : State) : Res := .next (actEffect p.toNat s)
def execResizeQuiesceEnd (p : PartId) (s : State) : Res := .next (quiesceEnd p.toNat s)
def execResizeResume (p : PartId) (s : State) : Res := .next (resizeResume p.toNat s)
def execSlabGlazeEnd (n : SlabId) (s : State) : Res := .next (slabGlazeEnd n.toNat s)
def execGranuleClearEnd (g : GranId) (s : State) : Res := .next (granClearEnd g.toNat s)
def execPartReset (p : PartId) (h : EntryHead) (s : State) : Res := .next (partReset p.toNat h s)
def execResetComplete (p : PartId) (s : State) : Res := .next (resetComplete p.toNat s)
/-- EVT_CLAMP_p.CLR (R343). -/
def execEvtClampClr (p : PartId) (s : State) : Res :=
  .next (s.modPart p.toNat (fun q => { q with clampCount := 0, clampSrc := 0 }))

end Sys2Proof.Machine
end

