-- ==== Sys2Proof/Machine/Trust.lean ====
section
/-!
DEFINITION. The Trusted Controller's work (R394–R406): Crust packages and their keys, Recipes, requests of the MP.
-/

namespace Sys2Proof.Machine

/-- An operation joins the TC's work (R395). -/
def tcQueue (o : TcOp) (s : State) : State := s.modTc (fun t => { t with work := t.work ++ [o] })

def tcNext (s : State) : State := s.modTc (fun t => { t with work := t.work.drop 1 })

/-! Crust packages (R400–R403). -/

def State.load (s : State) (v : Nat) : Option CrustLoad := mget none s.fills.loads v
def State.setLoad (v : Nat) (l : Option CrustLoad) (s : State) : State :=
  s.modFills (fun x => { x with loads := mset none x.loads v l })

/-- Fields of a package header. -/
def CrustLoad.num (l : CrustLoad) (off n : Nat) : Nat := leNat ((l.pkg.drop off).take n)
def CrustLoad.lines (l : CrustLoad) : Nat := l.num 24 8
def CrustLoad.ndev (l : CrustLoad) : Nat := l.num 80 4
def CrustLoad.head (l : CrustLoad) : Nat := 512 + 128 * l.ndev

/-- Steps of a load: the package is read, its signature is checked, its key is unwrapped, its key is loaded, its image
streams. -/
def ldRead : Nat := 0
def ldSig : Nat := 1
def ldKey : Nat := 2
def ldKeyLoad : Nat := 3
def ldImage : Nat := 4

/-- Ask for the next bytes of a package. -/
def crustAsk (v : Nat) (s : State) : State :=
  match s.load v with
  | none => s
  | some l =>
    let (off, want) :=
      if l.checked = ldRead then (l.pkg.length, (if l.pkg.length < 512 then 512 else l.head) - l.pkg.length)
      else (l.head + l.img.length, 64 * l.lines - l.img.length)
    if want = 0 then s
    else if l.hostSrc then fetchFrom (.crust v) 0 0 l.addr off want s
    else fetchFrom (.crust v) 1 l.port (l.stream + 2 ^ 16 * l.addr) off want s

/-- A load ends other than OK (R402): v is Absent, the slot's key is destroyed, a region with lines written is glazed. -/
def crustFail (v status : Nat) (s : State) : State :=
  match s.load v with
  | none => s
  | some l =>
    let s := dropReads (fun r => r == .crust v) (s.setLoad v none)
    let s := if l.img ≠ [] then crustRelease v s else destroyKeys (32 + crustKslot s v) (s.modCrust v (fun _ => crust0))
    respond 0x0120 status l.counter [] true s

/-- CRUST_LOAD (R179, R402). -/
def crustLoad (counter : DWord) (v : Nat) (hostSrc : Bool) (port stream addr : Nat) (s : State) : State :=
  if 1 < v ∨ (s.crust v).state ≠ 0 ∨ crustSlabs s v = 0 ∨ (!hostSrc && !isStorage s port) ∨ (crustRegion s v).any (fun n => !(s.slab n).avail) then
    respond 0x0120 mRefused counter [] true s
  else
    let l : CrustLoad := ⟨counter, hostSrc, port, stream, addr, [], ldRead, 0, []⟩
    crustAsk v ((s.modCrust v (fun _ => ⟨1, []⟩)).setLoad v (some l))

/-- The image lines are stored in the region in class C2, decrypted under the slot's key with tweak 64j and encrypted for their place
(R400, R402 step 5). They belong to no partition, and so to no share (R227). -/
def crustStore (v : Nat) (l : CrustLoad) (bs : List Byte) (s : State) : State :=
  let k := crustKslot s v
  let kp := keyPair s l.key
  (toLines bs).zipIdx.foldl (fun s e =>
    let j := l.img.length / 64 + e.2
    let dev := crustFirst s v * 2 ^ 29 + 64 * j
    let plain := (upTo 4).flatMap (fun i => leBytes 16 (xtsDec kp.k1 kp.k2 (64 * j) i (blockOf e.1 i)).toNat)
    (storeLine dev (lineOf plain false false k l.key) s).modArb (pcOf s dev) (fun a => { a with wq := a.wq ++ [32] })) s

/-- Bytes of a package arrive; `bad`: what follows could not be read (R350), which ends the load BADPKG (log entry 40). -/
def crustBytes (v : Nat) (bs : List Byte) (bad : Bool) (s : State) : State :=
  match s.load v with
  | none => s
  | some l =>
    if l.checked = ldRead then
      let want := (if l.pkg.length < 512 then 512 else l.head) - l.pkg.length
      let l := { l with pkg := l.pkg ++ bs.take want }
      let s := s.setLoad v (some l)
      if bad then crustFail v mBadPkg s
      else if 512 ≤ l.pkg.length ∧ (l.ndev = 0 ∨ 4096 < l.ndev) then crustFail v mBadPkg s
      else if 512 ≤ l.pkg.length ∧ l.pkg.length = l.head then tcQueue (.crustSig v) (s.setLoad v (some { l with checked := ldSig }))
      else crustAsk v s
    else if l.checked = ldImage then
      let bs := bs.take (64 * l.lines - l.img.length)
      let s := crustStore v l bs s
      let s := s.setLoad v (some { l with img := l.img ++ bs })
      if bad then crustFail v mBadPkg s else crustAsk v s
    else s

/-- Wrap table entry e. -/
def CrustLoad.entry (l : CrustLoad) (e : Nat) : List Byte := (l.pkg.drop (512 + 128 * e)).take 128

/-- The first wrap entry for this device (R402 step 3). -/
def CrustLoad.mine (l : CrustLoad) (t : Tc) : Option Nat :=
  (upTo l.ndev).find? (fun e => (l.entry e).take 48 == sha48 (identityPub t))

/-- Do a package's plain fields pass (R402 step 2). -/
def pkgOk (s : State) (v : Nat) (l : CrustLoad) : Bool :=
  l.num 0 4 == 0x54535243 && l.num 4 4 == 1 && decide (l.num 84 1 < 4) && cfgNum s (0x2200 + 128 * l.num 84 1) 1 == 1
    && (l.pkg.drop 184).take 48 == padTo 48 (Config.sha384 ((l.pkg.drop 512).take (128 * l.ndev)))
    && decide (l.lines ≤ crustSlabs s v * 2 ^ 23)

/-- The TC has checked a package's signature (R402 steps 2 and 3). -/
def crustChecked (v : Nat) (ok : Bool) (s : State) : State :=
  match s.load v with
  | none => s
  | some l =>
    if l.checked ≠ ldSig then s
    else if !ok || !pkgOk s v l then crustFail v mBadPkg s
    else if (l.mine s.tc).isNone then crustFail v mNotAuth s
    else tcQueue (.crustKey v) (s.setLoad v (some { l with checked := ldKey }))

/-- Key agreement and unwrap are over (R401, R402 steps 3 and 4). -/
def crustUnwrapped (v : Nat) (s : State) : State :=
  match s.load v with
  | none => s
  | some l =>
    if l.checked ≠ ldKey then s
    else match crustKey s.tc (l.pkg.take 512) (l.entry ((l.mine s.tc).getD 0)) with
    | none => crustFail v mNotAuth s
    | some key =>
      if key.take 32 = (key.drop 32).take 32 then crustFail v mBadPkg s
      else
        let (id, s) := newKey s
        let num (b : List Byte) : BitVec 256 := BitVec.ofNat 256 (leNat b)
        let s := s.modHbm (fun h => { h with crustKeys := mset none h.crustKeys id (some ⟨num (key.take 32), num ((key.drop 32).take 32)⟩) })
        let k := 32 + crustKslot s v
        let s := s.modKey k (fun x => { x with loading := some (false, id), cur := false })
        s.setLoad v (some { l with checked := ldKeyLoad, key := id })

/-- KEY_LOAD_IN_EFFECT (R263): a Crust whose key is in effect streams its image (R402). -/
def keyInEffect (k : Nat) (s : State) : State :=
  let due := ((s.keyReg k).loading).isSome
  let s := keyLoaded k s
  if !due then s
  else forEach [0, 1] (fun v s => match s.load v with
    | some l =>
      if l.checked = ldKeyLoad ∧ 32 + crustKslot s v = k then crustAsk v (s.setLoad v (some { l with checked := ldImage })) else s
    | none => s) s

/-- CRUST_LOAD_IMAGE_END (R402 step 6). -/
def crustImageEnd (v : Nat) (s : State) : State :=
  match s.load v with
  | none => s
  | some l =>
    if l.checked ≠ ldImage ∨ l.img.length < 64 * l.lines then s
    else
      let dig := padTo 48 (Config.sha384 l.img)
      if dig = (l.pkg.drop 32).take 48 then
        respond 0x0120 mOk l.counter [] true ((s.setLoad v none).modCrust v (fun _ => ⟨2, dig⟩))
      else crustFail v mDigest s

/-- CRUST_RETIRE (R179, R403). -/
def crustRetire (counter : DWord) (v : Nat) (s : State) : State :=
  let ok (s : State) := respond 0x0121 mOk counter [] true s
  if 1 < v then respond 0x0121 mRefused counter [] true s
  else match (s.crust v).state.toNat with
    | 1 => ok (crustFail v mAborted s)
    | 2 => ok (if 0 < crustFills s v then s.modCrust v (fun c => { c with state := 3 }) else crustRelease v s)
    | _ => ok s

/-- SHARED_ROTATE (R267, R403): of a slot that a Loading version uses it is refused. -/
def sharedRotate (counter : DWord) (k : Nat) (s : State) : State :=
  if 7 < k ∨ [0, 1].any (fun v => (s.crust v).state == 1 && crustKslot s v == k) then respond 0x0122 mRefused counter [] true s
  else keyRotate (32 + k) [] [counter] s

/-! The Recipe (R404–R406). -/

/-- A level of the Merkle tree (R405). -/
def merkleUp : List (List Byte) → List (List Byte)
  | a :: b :: r => padTo 48 (Config.sha384 ([1] ++ a ++ b)) :: merkleUp r
  | l => l

def merkleRoot : Nat → List (List Byte) → List Byte
  | _, [] => List.replicate 48 0
  | _, [a] => a
  | 0, a :: _ => a
  | n + 1, l => merkleRoot n (merkleUp l)

/-- Leaves of FROOT in a scope (R405). -/
def recipeLeaves (s : State) (scope : Nat → Bool) : List (List Byte) :=
  (s.fills.descs.filter (fun e => scope e.1 && (e.2.state == 2 || e.2.state == 3 || e.2.state == 4))).map (fun e =>
    padTo 48 (Config.sha384 ([0] ++ leBytes 2 e.1 ++ leBytes 2 e.2.gen.toNat ++ padTo 48 e.2.digest)))

/-- A partition's entry (R404). -/
def recipeEntry (s : State) (p : Nat) : List Byte :=
  let q := s.part p
  let d (c : Ctx) : List Byte := if c.loaded then padTo 48 c.digest else List.replicate 48 0
  padTo 112 ([BitVec.ofNat 8 p, BitVec.ofNat 8 q.pstate.toNat] ++ leBytes 2 q.gen.toNat ++ List.replicate 4 0 ++ d q.ctxF ++ d q.ctxB)

/-- The Recipe without its signature (R404): of the device (`none`), or of a partition. -/
def recipeBody (s : State) (part : Option Nat) (nonce : List Byte) : List Byte :=
  let ps := match part with | some p => [p] | none => (upTo 32).filter (fun p => (s.part p).pstate != 0)
  let leaves := recipeLeaves s (fun i => match part with | some p => inRangeOf s p i | none => true)
  let seen (v : Nat) : Bool := match part with | some p => crustGranted s p v | none => true
  let cst (v : Nat) : Byte := if seen v then BitVec.ofNat 8 (s.crust v).state.toNat else 0
  let cdig (v : Nat) : List Byte := if seen v ∧ 2 ≤ (s.crust v).state.toNat then padTo 48 (s.crust v).digest else List.replicate 48 0
  let t := s.tc
  let b8 (n : Nat) : Byte := BitVec.ofNat 8 n
  leBytes 4 0x45504352 ++ leBytes 2 1 ++ leBytes 2 ps.length ++ leBytes 4 (608 + 112 * ps.length)
    ++ [if part.isSome then 1 else 0, b8 (part.getD 0), 0, 0] ++ padTo 32 nonce ++ leBytes 16 t.serial.toNat
    ++ identityPub t ++ leBytes 4 Config.romVersion.toNat ++ leBytes 4 0
    ++ padTo 48 ((t.fwHdr.drop 40).take 48) ++ padTo 48 ((t.fwHdr.drop 88).take 48) ++ padTo 48 (Config.sha384 t.cfg)
    ++ [b8 (leNat ((t.fwHdr.drop 8).take 1)), b8 (secNum t.cfg 16 1), b8 t.fwfloor, b8 t.cfgfloor] ++ leBytes 4 0
    ++ leBytes 8 (secNum t.cfg 8 8) ++ leBytes 4 t.boots.toNat ++ leBytes 4 0 ++ leBytes 8 t.rcpcnt.toNat ++ [cst 0, cst 1]
    ++ List.replicate 6 0 ++ cdig 0 ++ cdig 1 ++ leBytes 4 leaves.length ++ leBytes 4 0 ++ padTo 48 (merkleRoot leaves.length leaves)
    ++ List.replicate 8 0 ++ ps.flatMap (recipeEntry s)

def recipe (s : State) (part : Option Nat) (nonce : List Byte) : List Byte :=
  let b := recipeBody s part nonce
  b ++ signId s b

/-- ATTEST (R368): a partition-scope Recipe is 720 bytes; one longer than MAXLEN is refused with its length. -/
def attest (w : Work) (haddr maxlen : Nat) (nonce : List Byte) (s : State) : State :=
  if maxlen < 720 then complete w stRefused 720 [] (clamp w.p 0xA s)
  else tcQueue (.recipe w haddr maxlen nonce) s

/-- RECIPE_WRITTEN (R406): the TC's first work is a Recipe, which is signed, written and answered. One of an older generation
is lost (R325, R330). -/
def recipeWritten (s : State) : State :=
  match s.tc.work with
  | .recipe w haddr _ nonce :: _ =>
    let s := (tcNext s).modTc (fun t => { t with rcpcnt := t.rcpcnt + 1 })
    if w.gen ≠ (s.part w.p).gen then s
    else
      let r := recipe s (some w.p) nonce
      complete w stDone r.length [] (hostStore w.p w.gen haddr r s)
  | .recipeDev c nonce :: _ =>
    let s := (tcNext s).modTc (fun t => { t with rcpcnt := t.rcpcnt + 1 })
    respond 0x0130 mOk c (recipe s none nonce) true s
  | _ => s

/-! The MP's requests (R394). The request codes are the model's own (log entry 41). -/

def mpRead : Nat := 1
def mpWrite : Nat := 2
def mpSignature : Nat := 3

/-- The TC carries out a request of the MP, or refuses it with an Info event (R394, R435). `data` of a read is the number of
bytes wanted. -/
def mpRequest (code addr : Nat) (data : List Byte) (s : State) : State :=
  if !mgmtRuns s then s
  else if code = mpRead then emit (.mp code 0 (flashRead s addr (Nat.min 4096 (leNat (data.take 4))))) s
  else if code = mpWrite ∧ 0x08040000 ≤ addr ∧ addr + data.length ≤ 0x10000000 then emit (.mp code 0 []) (flashStore addr data s)
  else if code = mpSignature then tcQueue (.mpSign data) s
  else emit (.mp code 2 []) (report 0 0 0x0002 0xFF code s)

/-- TC_WORK_COMPLETE (R395): the first signature check, with its verdict, signature or key agreement ends, and the next begins.
A Recipe's own end is RECIPE_WRITTEN. -/
def tcWorkComplete (ok : Bool) (s : State) : State :=
  match s.tc.work with
  | .crustSig v :: _ => crustChecked v ok (tcNext s)
  | .crustKey v :: _ => crustUnwrapped v (tcNext s)
  | .mpSign data :: _ => emit (.mp mpSignature 0 (signMgmt s data)) (tcNext s)
  | _ => s

def execKeyLoadInEffect (k : KeySlot) (s : State) : Res := .next (keyInEffect (slotNo k) s)
def execAttest (p : PartId) (h : EntryHead) (haddr : DWord) (maxlen : Word) (nonce : List Byte) (s : State) : Res :=
  .next (startEntry p.toNat h 0x0A (fun bs => attestBody bs == (haddr, maxlen, nonce)) (fun w s => attest w haddr.toNat maxlen.toNat nonce s) s)
def execRecipeWritten (s : State) : Res := .next (recipeWritten s)
def execCrustLoad (env : Env) (v : Byte) (hostSrc : Bool) (port : PortId) (stream : Half) (addr : DWord) (s : State) : Res :=
  .next (mgmtCommand 0x0120 1 env (crustLoad env.counter v.toNat hostSrc port.toNat stream.toNat addr.toNat) s)
def execCrustLoadImageEnd (v : BitVec 1) (s : State) : Res := .next (crustImageEnd v.toNat s)
def execCrustRetire (env : Env) (v : Byte) (s : State) : Res := .next (mgmtCommand 0x0121 1 env (crustRetire env.counter v.toNat) s)
def execSharedRotate (env : Env) (k : Byte) (s : State) : Res := .next (mgmtCommand 0x0122 1 env (sharedRotate env.counter k.toNat) s)
def execAttestDev (env : Env) (nonce : List Byte) (s : State) : Res :=
  .next (mgmtCommand 0x0130 2 env (tcQueue (.recipeDev env.counter nonce)) s)
def execTcWorkComplete (ok : Bool) (s : State) : Res := .next (tcWorkComplete ok s)
def execMpRequest (code : DWord) (addr : Word) (data : List Byte) (s : State) : Res := .next (mpRequest code.toNat addr.toNat data s)

end Sys2Proof.Machine
end

