-- ==== Sys2Proof/Machine/Power.lean ====
section
/-!
DEFINITION. Clocks, power states, wake tolerance, the limiter, temperatures and power telemetry (R412–R429), and the lid
temperature (R480).
-/

namespace Sys2Proof.Machine

/-! The configured limits (R388). -/

def aclkMax (s : State) : Nat := cfgNum s 0x100 2
def fclkMax (s : State) : Nat := cfgNum s 0x102 2
def pkgLim (s : State) : Nat := cfgNum s 0x104 2
def hostLim (s : State) : Nat := cfgNum s 0x106 2
def pstDeep (s : State) : Nat := cfgNum s 0x108 1

/-! The permitted state (R418, R421, R422). -/

/-- Exit latencies in nanoseconds (R415): Idle takes 60 ACLK cycles at the clock that runs (R9), 20 ns at 3 GHz. -/
def exitNs (s : State) (st : Nat) : Nat := [0, cdiv 60000 (Nat.max 1 s.pwr.aclk), 1500, 60000, 3000000].getD st 0

/-- T_host (R422): the smallest effective tolerance over the defined partitions. Before Ready it reads its reset value. -/
def tHost (s : State) : Half :=
  if !s.tc.ready then 20
  else (s.parts.filter (fun q => q.pstate != 0)).foldl (fun t q => tolMin t (tolEff q.wake)) 0x8000

/-- A port's partner tolerance (R423): 0 until a WAKETOL has come. -/
def partnerTol (x : Port) : Half := if x.tolOk then x.ptol else 0

/-- T_link (R422): the smallest partner tolerance over the UP ports of P0–P5. -/
def tPartner (s : State) : Half :=
  ((upTo 6).filter (portUp s)).foldl (fun t q => tolMin t (partnerTol (s.port q))) 0x8000

/-- Does an exit latency fit a tolerance. -/
def tolFits (t : Half) (ns : Nat) : Bool := match tolNs t with | none => true | some x => decide (ns ≤ x)

/-- No operation of a tile is in flight and nothing counts toward a token (R418). -/
def Seq.still (q : Seq) : Bool :=
  q.inflight.isEmpty && q.loaders.all (fun e => e.2.running.isNone) && q.memTok.all (fun e => e.2.cnt == 0)
    && q.movTok.all (fun e => e.2 == 0)

/-- Idle's preconditions (R418). -/
def idleOk (s : State) : Bool :=
  s.parts.all (fun q => q.seq.still && (!q.live || (!q.ctxF.loaded && !q.ctxB.loaded) || decide (q.seq.quietAt ≤ q.seq.cyc)))

/-- No line request of any class is outstanding or waits at a controller. -/
def linesIdle (s : State) : Bool :=
  s.parts.all (fun q => q.seq.lines.isEmpty && q.seq.crumbs.isEmpty) && s.hbm.arbs.all (fun e => e.2.wq.isEmpty && e.2.batch == 0)
    && s.hbm.crumbQ.all (fun e => e.2.isEmpty) && s.hbm.wbq.isEmpty

/-- No Glaze, key sweep, checkpoint, staging, DATA_MOVE, SIU work or commit-queue entry is outstanding. -/
def unitsIdle (s : State) : Bool :=
  s.glazeSlabs.isEmpty && s.glazeGrans.isEmpty && s.hbm.keys.all (fun e => e.2.sweep.isNone && e.2.loading.isNone)
    && s.fills.stages.isEmpty && s.fills.loads.isEmpty
    && s.parts.all (fun q => q.ckp.jobs.isEmpty && q.ckp.restore.isNone && q.moves.isEmpty && q.siu.feeds.isEmpty && q.siu.ends.isEmpty
      && q.siu.wins.all (fun w => !w.closed) && q.seq.commitQ.isEmpty && q.fill.copying.isNone)

/-- Proof's own preconditions, but for the time of eligibility. -/
def proofOk (s : State) : Bool :=
  linesIdle s && unitsIdle s && (upTo 6).all (fun q => !portUp s q || portQuiet s q) && decide (3 ≤ pstDeep s)

/-- Chill's own preconditions, but for the time of eligibility. -/
def chillOk (s : State) : Bool :=
  s.parts.all (fun q => !q.ctxF.loaded && !q.ctxB.loaded) && !portUp s 6
    && (upTo 6).all (fun q => !portUp s q || (partnerTol (s.port q)).getLsbD 15) && pstDeep s == 4

/-- Is a state eligible (R418, R422): everything but the time without a break. -/
def eligible (s : State) (st : Nat) : Bool :=
  decide (st ≤ pstDeep s) && tolFits (tHost s) (exitNs s st) && (decide (st < 3) || tolFits (tPartner s) (exitNs s st))
    && (decide (st < 1) || idleOk s) && (decide (st < 3) || proofOk s) && (decide (st < 4) || chillOk s)

/-- How long a state must have been eligible (R418). -/
def eligTicks (st : Nat) : Nat := [0, 0, 32, 6400, 1600000].getD st 0

/-- Note since when each state has been eligible. -/
def noteEligible (s : State) : State :=
  s.modPwr (fun w => { w with
    elig := (upTo 5).foldl (fun m st => mset 0 m st (if eligible s st then (if mget 0 w.elig st = 0 then s.aon.toNat + 1 else mget 0 w.elig st) else 0)) w.elig })

/-- Are all preconditions of a state met, with its time. -/
def mayEnter (s : State) (st : Nat) : Bool :=
  st == 0 || (eligible s st && mget 0 s.pwr.elig st != 0 && decide (mget 0 s.pwr.elig st + eligTicks st ≤ s.aon.toNat + 1))

/-- The deepest state that may be entered. -/
def permitted (s : State) : Nat := maxL ((upTo 5).filter (mayEnter s))

/-- The link to the host die leaves L1 (R425). -/
def leaveL1 (s : State) : State :=
  if s.host.l1 then drainHeld (emit (.l1 false) (s.modHost (fun h => { h with l1 := false }))) else s

/-- POWER_STATE_ENTRY_BEGIN (R418, R424, R425): toward Proof, LPI goes out and L1 is asked for. -/
def entryBegin (s : State) : State :=
  let t := s.pwr.permit.toNat
  if s.pwr.change.isSome ∨ t ≤ s.pwr.state.toNat ∨ !mayEnter s t then s
  else
    let s := if 3 ≤ t ∧ s.pwr.state.toNat < 3 then
        let s := forEach (upTo 6) lpiSend s
        if hostUp s then emit (.l1 true) s else s
      else s
    s.modPwr (fun w => { w with change := some (t, true) })

/-- PERMITTED_STATE_RECOMPUTE (R422): a deeper state than the permitted one is left at once, a shallower one begins to enter it. -/
def recompute (s : State) : State :=
  let s := noteEligible s
  let pm := permitted s
  let s := s.modPwr (fun w => { w with permit := BitVec.ofNat 3 pm })
  match s.pwr.change with
  | none => if pm < s.pwr.state.toNat then s.modPwr (fun w => { w with change := some (0, false) }) else entryBegin s
  | some (t, true) => if pm < t then s.modPwr (fun w => { w with change := some (0, false) }) else s
  | some (_, false) => s

/-- The module is in a new state: its residency is accounted (R429). -/
def nowIn (st : Nat) (s : State) : State :=
  s.modPwr (fun w => { w with
    resTicks := mmod 0 w.resTicks w.state.toNat (fun n => (n + (s.aon.toNat - w.since)) % 2 ^ 48)
    resEntries := if w.state.toNat = st then w.resEntries else mmod 0 w.resEntries st (fun n => n + 1)
    state := BitVec.ofNat 3 st, since := s.aon.toNat, change := none })

/-- POWER_STATE_ENTRY_END (R415, R418): on entry to Chill the ports go DOWN and the line caches are emptied. -/
def entryEnd (s : State) : State :=
  match s.pwr.change with
  | some (t, true) =>
    let s := nowIn t s
    let s := if 3 ≤ t ∧ hostUp s then s.modHost (fun h => { h with l1 := true }) else s
    let s := if t = 4 then (forEach (upTo 7) (fun q s => downPort q false s) s).modHbm (fun h => { h with cache := [] }) else s
    if s.pwr.permit.toNat < s.pwr.state.toNat then s.modPwr (fun w => { w with change := some (0, false) }) else entryBegin s
  | _ => s

/-- What Chill loses is cleared (R419): every tile, and the Sequencers' state as R337 lists it. -/
def clearLost (s : State) : State :=
  { s with
    tiles := s.tiles.map Tile.cleared
    imem := s.imem.map (fun _ => [])
    parts := s.parts.map (fun q => { q with
      ctxF := ctx0, ctxB := ctx0, regs := [], fresh := [], cvu := cvu0
      seq := { seq0 with cyc := q.seq.cyc, nextGate := q.seq.nextGate, nextReq := q.seq.nextReq } }) }

/-- On leaving Chill a port that is in use trains again (R424); in Device-fatal state only TP does (R432). -/
def trainAgain (q : Nat) (s : State) : State :=
  if roleOf s q = 0 ∨ (s.mdl.fatal ∧ q < 6) then s
  else s.modPort q (fun x => { x with state := if x.state = 0 then 1 else x.state })

/-- POWER_STATE_EXIT_END (R415, R419, R422, R424, R425): doorbells that came meanwhile act, and the move to a permitted state that
is pending follows. -/
def exitEnd (s : State) : State :=
  match s.pwr.change with
  | some (_, false) =>
    let s := if s.pwr.state = 4 then forEach (upTo 7) trainAgain (clearLost s) else s
    let s := leaveL1 (nowIn 0 s)
    entryBegin (forEach (upTo 32) (fun p s => if (s.part p).frozen then s else unfreeze p s) s)
  | _ => s

/-- A write of PWR_WAKE_p (R421, R423): SCALE 6 and 7 are clamped, the partners are told of a change, and a lowering below the
exit latency of the current state wakes the device (R415). Every write is an access to the control window. -/
def wakeWrite (p : Nat) (v : Nat) (s : State) : State :=
  let t : Half := BitVec.ofNat 16 (fld v 0 13 + put (fld v 15 1) 15 1)
  let old := tolEff (s.part p).wake
  let s := wakeUp (clampIf (decide (5 < fld v 10 3)) p 0xB (s.modPart p (fun q => { q with wake := t })))
  if tolEff t = old then s else sendTols s

/-! Clocks and the limiter (R412–R414, R426, R428). -/

/-- REFCLK_LOSS (R413, R480). -/
def refclkLoss (s : State) : State :=
  if s.pwr.reflost then s
  else deviceFault 0xB 0x42 0 (setCause 6 (s.modPwr (fun w => { w with reflost := true })))

/-- Does ACLK run (R412, R415). -/
def aclkRuns (s : State) : Bool := s.pwr.aclk != 0 && decide (s.pwr.state.toNat < 3)

/-- LIMITER_SAMPLE (R414, R426, R428): the average over 100 µs is the operand. -/
def limiterSample (avg : Nat) (s : State) : State :=
  if !aclkRuns s then s
  else
    let w := s.pwr
    let t := s.aon.toNat
    let below := if avg * 100 < w.target * 95 then (if w.below = 0 then t + 1 else w.below) else 0
    let down := decide (w.target < avg) || w.level != 0
    let stall := if w.aclk < 1050 ∧ w.target < avg then true else if avg < w.target then false else w.stall
    let aclk :=
      if down then (if 1050 ≤ w.aclk ∧ (w.lastStep = 0 ∨ w.lastStep + 31 ≤ t) then w.aclk - 50 else w.aclk)
      else if below ≠ 0 ∧ below + 3199 ≤ t ∧ (w.lastStep = 0 ∨ w.lastStep + 319 ≤ t) ∧ w.aclk + 50 ≤ aclkMax s then w.aclk + 50 else w.aclk
    s.modPwr (fun w => { w with
      below := below, stall := stall, aclk := aclk, lastStep := if aclk = w.aclk then w.lastStep else t + 1 })

/-- LIMITER_TARGET_SET (R426): between 500 W and PKGLIM. -/
def targetSet (watts : Nat) (s : State) : State := s.modPwr (fun w => { w with target := clampNat 500 (pkgLim s) watts })

/-- DIE_TEMP_READ (R428, R480). -/
def dieTemp (temps : List Byte) (s : State) : State :=
  let l := temps.take 32
  let hot := maxL (l.map (fun b => b.toNat))
  let old := s.pwr.level.toNat
  let new := if 110 ≤ hot then 2 else if 100 ≤ hot ∨ (old ≠ 0 ∧ 97 ≤ hot) then 1 else 0
  let s := s.modPwr (fun w => { w with
    hotspot := BitVec.ofNat 8 hot
    peak := if w.peak.toNat < hot then BitVec.ofNat 8 hot else w.peak
    level := BitVec.ofNat 2 new
    thrcnt := if new = 1 ∧ old = 0 then w.thrcnt + 1 else w.thrcnt })
  let s := if new = 1 ∧ old = 0 then setCause 3 s else s
  if new = 2 ∧ old ≠ 2 then deviceFault 0xB 0x43 (l.findIdx (fun b => b.toNat == hot)) s else s

/-! Telemetry (R427, R429, R480). -/

/-- The average of the last ten measurements of 100 µs, once there are ten. -/
def average1ms (l : List Nat) : Option Nat := if l.length < 10 then none else some (sumL (l.take 10) / 10)

/-- Is VIN, averaged over 1 ms, outside 40–60 V. -/
def vinBad (l : List Nat) : Bool := match average1ms l with | some v => decide (v < 40000) || decide (60000 < v) | none => false

/-- Is the host die site over its limit, averaged over 1 ms. -/
def hostOver (lim : Nat) (l : List Nat) : Bool := match average1ms l with | some v => decide (lim < v) | none => false

def hmax (a b : Half) : Half := if a.toNat < b.toNat then b else a

/-- TELEMETRY_REFRESH (R427, R429, R480): measurements, maxima, and the conditions over 1 ms on entry into them. -/
def telemetry (m : Telemetry) (s : State) : State :=
  let w := s.pwr
  let vins := (m.vin.toNat :: w.vinHist).take 10
  let hosts := (m.host.toNat :: w.hostHist).take 10
  let s := s.modPwr (fun w => { w with
    vin := m.vin, iin := m.iin, pin := m.pin, pinMax := hmax w.pinMax m.pin, pkg := m.pkg, pkgMax := hmax w.pkgMax m.pkg
    host := m.host, hostMax := hmax w.hostMax m.host, vinHist := vins, hostHist := hosts
    temps := (upTo 32).foldl (fun t g => mset 0 t g (nth 0 m.temps g)) w.temps })
  let s := if vinBad vins && !vinBad w.vinHist then setCause 1 s else s
  if hostOver (hostLim s) hosts && !hostOver (hostLim s) w.hostHist then setCause 5 (report 0 0xB 0x50 0xFF 0 s) else s

/-- HOST_SITE_SWITCH_OFF (R345, R427). -/
def hostSiteOff (s : State) : State :=
  if !s.host.siteOn then s
  else setCause 5 (report 0 0xB 0x50 0xFF 1 (s.modHost (fun h => { h with siteOn := false, mods := 0, posted := 0, nonposted := 0 })))

/-- LID_TEMP_READ (R480). -/
def lidTemp (t : Byte) (s : State) : State :=
  let old := s.mdl.lidt
  let s := s.modMdl (fun m => { m with lidt := t, lidpeak := if m.lidpeak.toNat < t.toNat then t else m.lidpeak })
  if 60 ≤ t.toNat ∧ old.toNat < 60 then setCause 2 s else s

/-- A trim moves the oscillator's frequency by at most 10 ppm, and neither skips nor repeats a tick (R412). -/
def execAonTrim (s : State) : Res := .next s
def execRefclkLoss (s : State) : Res := .next (refclkLoss s)
def execWakeEvent (s : State) : Res := .next (wakeUp s)
def execPermittedStateRecompute (s : State) : Res := .next (recompute s)
def execPowerStateEntryBegin (s : State) : Res := .next (entryBegin s)
def execPowerStateEntryEnd (s : State) : Res := .next (entryEnd s)
def execPowerStateExitEnd (s : State) : Res := .next (exitEnd s)
def execPwrWakeWrite (p : PartId) (value : DWord) (s : State) : Res := .next (wakeWrite p.toNat value.toNat s)
def execUcieL1ExitRequest (s : State) : Res := .next (leaveL1 (wakeUp s))
def execLimiterSample (avg : Half) (s : State) : Res := .next (limiterSample avg.toNat s)
def execLimiterTargetSet (watts : BitVec 12) (s : State) : Res := .next (targetSet watts.toNat s)
def execDieTempRead (temps : List Byte) (s : State) : Res := .next (dieTemp temps s)
def execTelemetryRefresh (m : Telemetry) (s : State) : Res := .next (telemetry m s)
def execHostSiteSwitchOff (s : State) : Res := .next (hostSiteOff s)
def execLidTempRead (t : Byte) (s : State) : Res := .next (lidTemp t s)
/-- A parity failure of an internal control store (R435): the unit that finds it reports it. -/
def execControlStoreParityFailure (unit : Byte) (s : State) : Res :=
  .next (deviceFault (if unit.toNat ≤ 0xC then unit.toNat else 0xB) 0x44 unit.toNat s)

end Sys2Proof.Machine
end

