-- ==== Sys2Proof/Machine/EventLog.lean ====
section
/-!
DEFINITION. The event log (R434–R439): taking a report from a unit's buffer, coalescing, entries of the general area and of
the fatal reserve, overflow, notifications.
-/

namespace Sys2Proof.Machine

/-- Entries of the general area, and the first of the fatal reserve (R434). -/
def generalSize : Nat := 1984

/-- Entries of the fatal reserve (R434). -/
def reserveSize : Nat := 64

/-- Reports of equal CLASS, SRC, CODE, PART and ARG (R436). -/
def sameEvent (e : EvRec) (r : Report) : Bool :=
  e.cls == r.cls && e.src == r.src && e.code == r.code && e.part == r.part && e.arg == r.arg

/-- The entry that holds the most recent record of a report's class, when the report coalesces with it (R436 step 1). -/
def coalesceAt (l : EvLog) (r : Report) : Option Nat :=
  match mget none l.recent r.cls with
  | none => none
  | some i => match mget none l.recs i with
    | some e => if sameEvent e r then some i else none
    | none => none

/-- The entry that a new record takes, with RESERVE (R436 steps 2 and 3). -/
def entryFor (l : EvLog) (r : Report) : Option (Nat × Bool) :=
  if (l.wr.toNat + 1) % generalSize ≠ l.rd.toNat then some (l.wr.toNat, false)
  else if 3 ≤ r.cls ∧ l.fused < reserveSize then some (generalSize + l.fused, true)
  else none

/-- A new record (R434). -/
def newRec (l : EvLog) (r : Report) (reserve : Bool) : EvRec :=
  { tick := r.tick.setWidth 48, cls := r.cls, reserve := reserve, src := r.src, code := r.code, count := 1, part := r.part,
    seq := l.seq, last := r.tick.setWidth 48, arg := r.arg }

/-- Record a report (R436): the log after it, and the entry that holds the occurrence, if it was recorded. -/
def logRecord (l : EvLog) (r : Report) : EvLog × Option Nat :=
  match coalesceAt l r with
  | some i =>
    ({ l with recs := mset none l.recs i ((mget none l.recs i).map (fun e =>
        { e with count := Nat.min 65535 (e.count + 1), last := r.tick.setWidth 48 })) }, some i)
  | none =>
    match entryFor l r with
    | none => (ovfAdd r.cls r.tick l, none)
    | some (i, reserve) =>
      ({ l with
          recs := mset none l.recs i (some (newRec l r reserve))
          recent := mset none l.recent r.cls (some i)
          seq := l.seq + 1
          wr := if reserve then l.wr else BitVec.ofNat 11 ((l.wr.toNat + 1) % generalSize)
          fused := if reserve then l.fused + 1 else l.fused }, some i)

/-- The partitions that a recorded report notifies (R439). -/
def notified (s : State) (r : Report) : List Nat :=
  if r.cls = 3 then [r.part.toNat]
  else if r.cls = 4 then (upTo 32).filter (fun p => (s.part p).pstate != 0)
  else []

/-- ARG of such a notification (R439). -/
def eventArg (i : Nat) (r : Report) (gen : Half) : Nat := put i 0 11 + put r.cls 11 3 + put r.code.toNat 16 16 + put gen.toNat 32 16

/-- What follows when a report has been recorded (R439, R480). -/
def recorded (i : Nat) (r : Report) (s : State) : State :=
  let s := forEach (notified s r) (fun p s => notify 4 p (eventArg i r (s.part p).gen) s) s
  if r.cls = 4 then setCause 0 s else s

/-- The buffer that round robin serves next (R437). -/
def nextBuf (l : EvLog) : Option Nat :=
  ((upTo 13).map (fun k => (l.turn + 1 + k) % 13)).find? (fun k => !(mget [] l.bufs k).isEmpty)

/-- EVENT_LOG_INTAKE (R436, R437). -/
def logIntake (s : State) : State :=
  match nextBuf s.log with
  | none => s
  | some k =>
    match mget [] s.log.bufs k with
    | [] => s
    | r :: rest =>
      let x := logRecord { s.log with bufs := mset [] s.log.bufs k rest, turn := k } r
      let s := s.modLog (fun _ => x.1)
      match x.2 with
      | some i => recorded i r s
      | none => s

def execEventLogIntake (s : State) : Res := .next (logIntake s)
/-- The MP's write of EVT_RD (R438), an index of the general area. -/
def execEvtRdAdvance (rd : BitVec 11) (s : State) : Res :=
  .next (s.modLog (fun l => { l with rd := BitVec.ofNat 11 (rd.toNat % generalSize) }))
/-- EVT_CTL.FRCLR (R436, R464). -/
def execEvtCtlFrclr (s : State) : Res := .next (s.modLog (fun l => { l with fused := 0 }))

end Sys2Proof.Machine
end

