-- ==== Sys2Proof/Machine/HostLink.lean ====
section
/-!
DEFINITION. The host link and the control window (R12, R344–R354): every register that the host reads, with its layout as its
chapter gives it, the writes, the answers to reads of host memory and of storage endpoints (R311, R350), outages (R345,
R346), and READ_REG (R398).
-/

namespace Sys2Proof.Machine

/-! Registers of the device-wide region. `i` is the number of the 8-byte register within its group. -/

/-- HST_LINK (R352). -/
def hstLink (s : State) : Nat := s.host.mods.toNat + put (b2n (hostUp s)) 4 1

/-- CFG_BOOT_j (R411), readable from phase 8 of start-up. -/
def bootReg (s : State) (i : Nat) : Nat :=
  let t := s.tc
  if !t.phase8 then 0
  else if i = 0 then
    t.mode.toNat + put (b2n t.fwCopy) 2 1 + put (b2n t.cfgCopy) 3 1 + put (b2n t.fallback) 4 1 + put (b2n t.altfail) 5 1
      + put (leNat ((t.fwHdr.drop 8).take 1)) 8 8 + put (cfgNum s 16 1) 16 8 + put t.fwfloor 24 8 + put t.cfgfloor 32 8
      + put Config.romVersion.toNat 40 16
      + put (sumL ((upTo 4).map (fun n => if mget [] t.ophash n ≠ [] ∧ !t.oprevoke.getLsbD n then 2 ^ n else 0))) 56 4
  else if i = 1 then cfgNum s 8 8
  else t.boots.toNat

/-- CFG_FRANGE_p, CFG_CRUST_v (R212). -/
def frangeReg (s : State) (p : Nat) : Nat := put (fbase s p) 0 14 + put (fcount s p) 14 15
def crustReg (s : State) (v : Nat) : Nat :=
  (s.crust v).state.toNat + put (crustSlabs s v) 2 10 + put (crustFirst s v) 12 10 + put (crustFills s v) 22 15

/-- CFG_GLZSLABk, CFG_GLZGRAN (R342). -/
def glzSlabReg (s : State) (k : Nat) : Nat :=
  sumL ((upTo 64).map (fun b => if (mget none s.glazeSlabs (64 * k + b)).isSome then 2 ^ b else 0))
def glzGranReg (s : State) : Nat :=
  sumL ((upTo 32).map (fun g => match mget none s.glazeGrans g with | some x => if x.cleared then 0 else 2 ^ g | none => 0))
    + put (b2n s.glazeKey.isSome) 32 1

/-- HBM_SLABn (R239). -/
def slabReg (s : State) (n : Nat) : Nat :=
  let e := s.slab n
  b2n e.valid + put (b2n e.shared) 1 1 + put (b2n e.cv) 2 1 + put (b2n e.avail) 3 1 + put e.owner.toNat 4 5 + put e.pslot.toNat 9 11
    + put e.kslot.toNat 20 3 + put e.grant.toNat 32 32

/-- HBM_SHARE_p (R240), HBM_CFG (R241). -/
def shareReg (s : State) (p : Nat) : Nat := (mget 0 s.hbm.weights p).toNat + put (effective s p) 8 8
def hbmCfgReg (s : State) : Nat :=
  b2n s.hbm.refAll + (match s.hbm.mapout with | some c => 2 + put c.toNat 2 8 + put 765 10 10 | none => put 768 10 10)

/-- HBM_THERM_s (R242), HBM_SCRUB (R272), HBM_ROWREP_s (R271). -/
def thermReg (s : State) (k : Nat) : Nat :=
  let x := s.therm k
  x.temp.toNat + put x.level.toNat 8 2 + put x.peak.toNat 10 8 + put x.warnCnt.toNat 32 16 + put x.hotCnt.toNat 48 16
def scrubReg (s : State) : Nat := s.hbm.scrubPeriod.toNat + put s.hbm.scrubPasses.toNat 8 32 + put s.hbm.scrubSlab 40 10
def rowRepReg (s : State) (k : Nat) : Nat :=
  let r := s.rowRep k
  put r.used 0 10 + put r.start 10 10 + put r.overs 20 16

/-- CRB_WAYS_p (R244), CRB_STAT_s (R245). -/
def waysReg (s : State) (p : Nat) : Nat := (mget 0 s.hbm.ways p).toNat
def crbStatReg (s : State) (k : Nat) : Nat := (mget 0 s.hbm.crbHits k).toNat + put (mget 0 s.hbm.crbMisses k).toNat 32 32

/-- HBM_CHSTAT_c (R243), HBM_ECC_c (R269), HBM_PIN_c (R270). -/
def chstatReg (s : State) (c : Nat) : Nat :=
  let x := s.chan c
  x.retrains.toNat + put x.repairs.toNat 16 16 + put x.maxHold.toNat 32 12 + put (b2n x.lost) 44 1
def eccReg (s : State) (c : Nat) : Nat :=
  let x := s.chan c
  put x.corr1 0 16 + put x.corr2 16 16 + put x.uncorr 32 16 + put x.badMeta 48 16
def pinReg (s : State) (c : Nat) : Nat :=
  let x := s.chan c
  put (nth 0x3F x.susp 0) 0 6 + put (nth 0x3F x.susp 1) 6 6 + sumL ((upTo 4).map (fun i => put (nth 0x3F x.spares i) (12 + 6 * i) 6))

/-- KEY_PSTAT_p (R273), KEY_SSTAT_k (R274): state only. -/
def keyReg (s : State) (k : Nat) (shared : Bool) : Nat :=
  let x := s.keyReg k
  let low := b2n x.cur + put (b2n x.k0.isSome) 1 1 + put (b2n x.k1.isSome) 2 1 + put (b2n x.sweep.isSome) 3 1
  if shared then low
  else low + put (b2n x.waiting) 4 1 + put (match x.sweep with | some w => w.doneSlabs | none => 0) 16 10 + put x.rots.toNat 32 16

/-- PCL_PORTq_j (R316), PCL_LEDGp, PCL_TPSTAT (R467). -/
def portReg (s : State) (q j : Nat) : Nat :=
  let x := s.port q
  if j = 0 then x.state.toNat + put (roleOf s q) 2 3 + put x.peer.toNat 5 24 + put x.rtt.toNat 29 24
  else put x.replays 0 16 + put x.downs 16 16 + put x.badjob 32 16 + put x.badtype 48 16
def ledgReg (s : State) (p : Nat) : Nat :=
  let l := mget (0, 0, 0) s.pcl.ledg p
  put l.1 0 16 + put l.2.1 16 16 + put l.2.2 32 16
def tpReg (s : State) : Nat := let x := s.port 6; x.state.toNat + put x.peer.toNat 2 24 + put x.rtt.toNat 26 24

/-- PWR_ registers (R429), by number from PWR_STAT. -/
def pwrReg (s : State) (i : Nat) : Nat :=
  let w := s.pwr
  let on := decide (w.state.toNat < 3) && w.aclk != 0
  if i = 0 then
    w.state.toNat + put w.permit.toNat 3 3 + put (b2n (w.aclk != 0 && (decide (w.aclk < aclkMax s) || w.stall))) 6 1 + put (b2n w.reflost) 7 1
      + put (tHost s).toNat 8 16 + put (tPartner s).toNat 24 16
  else if i = 1 then s.aon.toNat
  else if i = 2 then
    (if on then put w.aclk 0 12 + put (fclkMax s) 12 12 else 0) + put (aclkMax s) 24 12 + put (fclkMax s) 36 12
  else if i = 3 then put (pkgLim s) 0 12 + put (hostLim s) 12 9 + put (pstDeep s) 21 3 + put w.target 24 12
  else if i = 4 then w.vin.toNat + put w.iin.toNat 16 16 + put w.pin.toNat 32 16 + put w.pinMax.toNat 48 16
  else if i = 5 then w.pkg.toNat + put w.pkgMax.toNat 16 16 + put w.host.toNat 32 16 + put w.hostMax.toNat 48 16
  else if i < 10 then leNat ((upTo 8).map (fun j => mget 0 w.temps (8 * (i - 6) + j)))
  else if i = 10 then w.hotspot.toNat + put w.peak.toNat 8 8 + put w.level.toNat 16 2 + put w.thrcnt.toNat 32 16
  else if 12 ≤ i ∧ i < 17 then
    let st := i - 12
    put (mget 0 w.resTicks st + (if w.state.toNat = st then s.aon.toNat - w.since else 0)) 0 48 + put (mget 0 w.resEntries st).toNat 48 16
  else if 18 ≤ i ∧ i < 25 then
    let x := s.port (i - 18)
    x.ptol.toNat + put (b2n x.tolOk) 16 1 + put (b2n x.lpi) 17 1
  else 0

/-- EVT_ registers (R464), by number from EVT_STAT. -/
def evtReg (s : State) (i : Nat) : Nat :=
  let l := s.log
  if i = 0 then l.wr.toNat + put l.fused 11 7 + put l.seq.toNat 18 16
  else if i = 1 then l.rd.toNat
  else if i = 2 then s.evPage.toNat
  else if 4 ≤ i ∧ i < 9 then let o := mget (0, 0) l.ovf (i - 4); put o.1 0 32 + put o.2 32 32
  else 0

/-- The 32 bytes of an event record (R434). -/
def evBytes (e : EvRec) : List Byte :=
  leBytes 6 e.tick.toNat ++ [BitVec.ofNat 8 (e.cls % 8 + 8 * b2n e.reserve), BitVec.ofNat 8 e.src] ++ leBytes 2 e.code.toNat
    ++ leBytes 2 e.count ++ [e.part, 0] ++ leBytes 2 e.seq.toNat ++ leBytes 6 e.last.toNat ++ [0, 0] ++ leBytes 8 e.arg.toNat

/-- The event window (R438, R464): 128 entries from 128 × PAGE. -/
def evtWindow (s : State) (i : Nat) : Nat :=
  match mget none s.log.recs (128 * s.evPage.toNat + i / 4) with
  | some e => leNat (((evBytes e).drop (8 * (i % 4))).take 8)
  | none => 0

/-- CKP_FLEET, CKP_MOD (R465), CKP_ registers of a partition (R466). -/
def ckpModReg (s : State) : Nat :=
  put (ckTgt s) 0 2 + put (ckPort s) 2 3 + put (ckStream s) 5 16 + put (ckMin s) 21 12 + put (ckMax s) 33 12
def ckpReg (s : State) (p j : Nat) : Nat :=
  let k := (s.part p).ckp
  if j < 4 then k.word j
  else if j = 4 then k.lastB.toNat
  else if j = 5 then put k.tau 0 16 + put k.cms 16 20 + put k.defer 36 16 + put k.fails 52 12
  else 0

/-- TWN_STAT, TWN_CNT (R467), PWR_MOD (R480). -/
def twnReg (s : State) (i : Nat) : Nat :=
  let t := s.twin
  if i = 0 then t.role.toNat + put (b2n t.sync) 2 1 + put (b2n t.sense) 3 1 + put (b2n t.paired) 4 1 + 2 ^ 32 * sumL ((upTo 32).map (fun p => if mirroredNow s p then 2 ^ p else 0))
  else put t.failovers 0 16 + put t.resyncs 16 16 + put t.refused 32 16 + put t.stales 48 16
def pwrModReg (s : State) : Nat :=
  let m := s.mdl
  m.lidt.toNat + put m.lidpeak.toNat 8 8 + put m.slotId.toNat 16 3 + put m.cause.toNat 24 7

/-- The device-wide region (R352, R411, R429, R464–R467, R480): first offset, count, what register i of the group reads. -/
def devTable : List (Nat × Nat × (State → Nat → Nat)) :=
  [(0x00000, 1, fun s _ => hstLink s), (0x00100, 3, bootReg), (0x01000, 32, frangeReg), (0x01100, 2, crustReg),
   (0x01200, 12, glzSlabReg), (0x01260, 1, fun s _ => glzGranReg s), (0x02000, 768, slabReg), (0x04000, 32, shareReg),
   (0x04100, 1, fun s _ => hbmCfgReg s), (0x04140, 8, thermReg), (0x04180, 1, fun s _ => scrubReg s), (0x041C0, 8, rowRepReg),
   (0x04200, 32, waysReg), (0x04300, 8, crbStatReg), (0x05000, 256, chstatReg), (0x05800, 256, eccReg), (0x06000, 256, pinReg),
   (0x07000, 32, fun s p => keyReg s p false), (0x07100, 8, fun s k => keyReg s (32 + k) true)]
  ++
  [(0x08000, 1, fun s _ => s.pcl.id.toNat), (0x08100, 32, fun s p => (mget 0 s.pcl.slots p).toNat),
   (0x08200, 12, fun s i => (mget 0 s.pcl.vcImg i).toNat), (0x08300, 12, fun s i => portReg s (i / 2) (i % 2)),
   (0x08400, 32, ledgReg), (0x08500, 64, fun s i => if i % 8 < 5 then topoW s (i / 8) (i % 8) else 0),
   (0x08800, 1, fun s _ => tpReg s), (0x10000, 25, pwrReg), (0x10800, 9, evtReg), (0x10900, 1, fun s _ => s.fleet.toNat),
   (0x10908, 1, fun s _ => ckpModReg s), (0x10A00, 2, twnReg), (0x10B00, 1, fun s _ => pwrModReg s), (0x11000, 512, evtWindow),
   (0x12000, 256, fun s i => ckpReg s (i / 8) (i % 8))]

/-! The window of a partition (R353). -/

/-- CFG_PART_p_j (R341). -/
def partReg (s : State) (p j : Nat) : Nat :=
  let q := s.part p
  if j = 0 then q.granules.toNat + put (nth 0 q.grans 0) 32 5 + put q.pstate.toNat 37 3 + put q.gen.toNat 40 16
  else
    put (privateSlabs s p).length 0 10
      + put (s.glazeSlabs.filter (fun e => match e.2 with
          | some j => (match j.dest with | some d => d.1.toNat == p | none => false)
          | none => false)).length 10 10
      + put q.resizes.toNat 20 16 + put q.resets.toNat 36 16

/-- The registers from the start of the window: CFG_PART, EVT_CLAMP_p (R343), PWR_WAKE_p (R421), HST_ (R354). -/
def partHead (s : State) (p i : Nat) : Nat :=
  let q := s.part p
  if i < 2 then partReg s p i
  else if i = 2 then q.clampCount.toNat + put q.clampSrc.toNat 32 4
  else if i = 3 then q.wake.toNat + put (tolEff q.wake).toNat 16 16
  else if i = 4 then b2n (queuesFrozen s p) + put (b2n (q.queues.any (fun e => e.2.err))) 1 1
  else if i = 5 then q.ftpage.toNat
  else if i = 6 then q.ctxpage.toNat
  else if i = 7 then put (cbase s p) 0 16 + put (ccount s p) 16 17
  else 0

/-- HST_QCFGq_j (R355). -/
def qcfgReg (u : Queue) (j : Nat) : Nat :=
  if j = 0 then u.sqbase.toNat
  else if j = 1 then u.cqbase.toNat
  else if j = 2 then
    put u.sqs 0 5 + put u.cqs 5 5 + put (b2n u.en) 10 1 + put (b2n u.ien) 11 1 + put (b2n u.err) 12 1 + put u.sqhead.toNat 16 16
      + put u.cqtail.toNat 32 16 + put (b2n u.phase) 48 1
  else 0

/-- SIU registers (R377). -/
def siuReg (u : Siu) (i : Nat) : Nat :=
  if i < 4 then nth 0 u.cfg i
  else if i = 4 then put u.kept 0 48
  else if i = 5 then put u.badcrc 0 16 + put u.frames 16 16 + put u.csum 32 16 + put u.long 48 16
  else if i = 6 then put u.rposW 0 64
  else if i = 7 then put u.nexti 0 27
  else if i = 8 then put u.foff 0 64
  else if i = 9 then put u.skip 0 32
  else 0

/-- The context window and the Filling Table window (R354). -/
def ctxWindow (s : State) (p i : Nat) : Nat :=
  let c := 512 * (s.part p).ctxpage.toNat + i / 4
  if c < ccount s p then leNat (((ctxBytes (s.ctxRec (cbase s p + c))).drop (8 * (i % 4))).take 8) else 0
def ftWindow (s : State) (p i : Nat) : Nat :=
  let d := 1024 * (s.part p).ftpage.toNat + i / 16
  if d < fcount s p then leNat (((descBytes s (fbase s p + d)).drop (8 * (i % 16))).take 8) else 0

/-- A register of p's window. -/
def partRegRead (s : State) (p off : Nat) : Nat :=
  if off < 0x40 then partHead s p (off / 8)
  else if inRange 0x2000 0x27FF off then qcfgReg (s.queue p ((off - 0x2000) / 32)) (off % 32 / 8)
  else if inRange 0x3000 0x304F off then siuReg (s.siu p) ((off - 0x3000) / 8)
  else if inRange 0x4000 0x7FFF off then ctxWindow s p ((off - 0x4000) / 8)
  else if inRange 0x20000 0x3FFFF off then ftWindow s p ((off - 0x20000) / 8)
  else 0

/-- The partition and the offset in its window that an offset of the control window names (R12). -/
def windowOf (off : Nat) : Option (Nat × Nat) :=
  if inRange 0x100000 0x8FFFFF off then some ((off - 0x100000) / 0x40000, (off - 0x100000) % 0x40000) else none

/-- A read of the control window (R12, R351, R393). Before Ready only HST_LINK and CFG_BOOT read other than 0. -/
def winRead (s : State) (off : Nat) : Nat :=
  if off % 8 ≠ 0 then 0
  else if !s.tc.ready && !(off == 0 || inRange 0x100 0x117 off) then 0
  else match windowOf off with
    | some (p, o) => partRegRead s p o
    | none => match devTable.find? (fun e => decide (e.1 ≤ off) && decide (off < e.1 + 8 * e.2.1)) with
      | some e => e.2.2 s ((off - e.1) / 8)
      | none => 0

/-! Writes. -/

/-- SQS and CQS (R355). -/
def sizeClamp (v : Nat) : Nat := clampNat 1 16 v

/-- A write of HST_QCFGq_j (R355). -/
def qcfgWrite (p q j v : Nat) (s : State) : State :=
  let u := s.queue p q
  if j = 0 then if u.en then s else s.modQueue p q (fun u => { u with sqbase := BitVec.ofNat 64 (v / 4096 * 4096) })
  else if j = 1 then if u.en then s else s.modQueue p q (fun u => { u with cqbase := BitVec.ofNat 64 (v / 4096 * 4096) })
  else if j = 2 then
    let size (x : Nat) (s : State) : State := clampIf (sizeClamp x != x) p 0xA s
    let s := if u.en then s else
      (size (fld v 5 5) (size (fld v 0 5) s)).modQueue p q (fun u => { u with sqs := sizeClamp (fld v 0 5), cqs := sizeClamp (fld v 5 5) })
    let s := s.modQueue p q (fun u => { u with ien := bit v 11 })
    if bit v 10 && !u.en then queueEnable p q s else if !bit v 10 && u.en then queueDisable p q s else s
  else s

/-- A write of CKP_CFG_p_j (R466). -/
def ckpWrite (p j v : Nat) (s : State) : State :=
  let keep := [fld v 0 51, v / 4096 * 4096, fld v 0 26, v].getD j 0
  if 4 ≤ j then s
  else clampIf (j == 2 && keep == 0) p 0xC (s.modCkp p (fun k => { k with cfg := k.cfg.set j (BitVec.ofNat 64 keep) }))

/-- A write of CKP_FLEET (R465): the clamp of a 0 is counted in a partition that the spec does not name, a free one. -/
def fleetWrite (v : Nat) (s : State) : State :=
  let s := s.setFleet (BitVec.ofNat 32 v)
  if fld v 0 32 = 0 then let f := fresh s; clamp (f.1 % 32) 0xC f.2 else s

/-- Writing 1s to PWR_MOD.CAUSE (R480): CAUSE0 and CAUSE6 stay. -/
def causeClear (mask : BitVec 7) (s : State) : State :=
  s.modMdl (fun m => { m with cause := m.cause &&& ~~~(mask &&& 0b0111110#7) })

/-- A write of p's window. -/
def partRegWrite (p off v : Nat) (s : State) : State :=
  if off = 0x10 then (if bit v 36 then s.modPart p (fun q => { q with clampCount := 0, clampSrc := 0 }) else s)
  else if off = 0x18 then wakeWrite p v s
  else if off = 0x28 then s.modPart p (fun q => { q with ftpage := BitVec.ofNat 4 v })
  else if off = 0x30 then s.modPart p (fun q => { q with ctxpage := BitVec.ofNat 7 v })
  else if inRange 0x1000 0x11FF off then bell p false (BitVec.ofNat 6 ((off - 0x1000) / 8)) (BitVec.ofNat 16 v) s
  else if inRange 0x1200 0x13FF off then bell p true (BitVec.ofNat 6 ((off - 0x1200) / 8)) (BitVec.ofNat 16 v) s
  else if inRange 0x2000 0x27FF off then qcfgWrite p ((off - 0x2000) / 32) (off % 32 / 8) v s
  else if inRange 0x3000 0x301F off then s.modSiu p (fun u => { u with cfg := u.cfg.set ((off - 0x3000) / 8) (fld v 0 34) })
  else s

/-- A write of the control window takes effect (R351, R393); it is a wake event (R415). -/
def regStore (off v : Nat) (s : State) : State :=
  if !s.tc.ready ∨ off % 8 ≠ 0 then s
  else
    let s := wakeUp s
    match windowOf off with
    | some (p, o) => partRegWrite p o v s
    | none =>
      if off = 0x10810 then s.setEvPage (BitVec.ofNat 4 v)
      else if off = 0x10900 then fleetWrite v s
      else if off = 0x10B00 then causeClear (BitVec.ofNat 7 (fld v 24 7)) s
      else if inRange 0x12000 0x127FF off then ckpWrite ((off - 0x12000) / 64) (off % 64 / 8) v s
      else s

/-- Does the host reach the control window (R345, R425). -/
def hostReaches (s : State) : Bool := hostUp s && !s.host.l1

/-- WWR (R351): any length but 8 is ignored. The credit it came with goes back once it has been consumed (R348, R349). -/
def wwr (off : Nat) (data : List Byte) (s : State) : State :=
  if hostReaches s then emit (.crd 1 0) (if data.length = 8 then regStore off (leNat data) s else s) else s

/-- WRD (R351): WRSP needs no credit (R349); the credit of the WRD goes back. -/
def wrd (off len : Nat) (tag : BitVec 10) (s : State) : State :=
  if !hostReaches s then s
  else emit (.crd 0 1) (emit (.wrsp tag (BitVec.ofNat 64 (if len = 8 then winRead s off else 0))) (wakeUp s))

/-! Answers to reads. -/

/-- What a read was for goes on with its bytes; `bad` bytes after them could not be read (R350). -/
def readAnswer (r : Req) (tag : Nat) (bs : List Byte) (bad : Nat) (s : State) : State :=
  let failed := decide (0 < bad)
  match r with
  | .entry p q ep _ => if failed then entryLost p q tag ep s else entryCome p q tag bs s
  | .run p b => runBytes p b (padTo (bs.length + bad) bs) failed s
  | .input p q => if failed then stepPoison p q s else stepBytesCome p q bs s
  | .move p => moveBytes p bs bad s
  | .stage i => stageBytes i bs bad s
  | .feed p => feedBytes p bs failed s
  | .crust v => crustBytes v bs failed s
  | .trailer p => ckTrailerRead p (!failed) s
  | .restore p => restoreBytes p bs failed s
  | .gone => s

/-- An MRD is over: its tag is free for the oldest read that waits. -/
def mrdDone (tag : Nat) (m : Mrd) (s : State) : State :=
  let bs := (m.got.drop m.skip).take m.want
  readAnswer m.req tag bs (m.want - bs.length) (nextRead (s.modHost (fun h => { h with mrds := mset none h.mrds tag none })))

/-- MCPL (R348): data arrive in address order. -/
def mcpl (tag : Nat) (data : List Byte) (s : State) : State :=
  match mget none s.host.mrds tag with
  | none => s
  | some m =>
    if !hostUp s then s
    else
      let m := { m with got := m.got ++ data.take (m.len - m.got.length) }
      if m.got.length = m.len then mrdDone tag m s else s.modHost (fun h => { h with mrds := mset none h.mrds tag (some m) })

/-- MERR (R350). -/
def merr (tag : Nat) (s : State) : State :=
  match mget none s.host.mrds tag with
  | none => s
  | some m => if hostUp s then mrdDone tag m s else s

/-- Take a unit of data for the first storage read that waits for it; the answer is that read, when it is complete. -/
def srdTake (q stream unit : Nat) (data : List Byte) : List Srd → List Srd × Option Srd
  | [] => ([], none)
  | r :: l =>
    if r.port = q ∧ r.stream = stream ∧ r.unit = unit then
      let r := { r with unit := unit + 1, count := r.count - 1, got := r.got ++ data }
      if r.count = 0 then (l, some r) else (r :: l, none)
    else let x := srdTake q stream unit data l; (r :: x.1, x.2)

/-- SRSP (R311, R446): the acknowledgement of a durable write, or a unit of data. -/
def srsp (q : Nat) (f : Frame) (s : State) : State :=
  let r := rxAccept q tSrsp f s
  if !r.2 then afterAck r.1
  else
    let s := afterAck (creditFrame q f r.1)
    if f.nflit = 0 then
      (if ckTgt s = 1 ∧ q = ckPort s ∧ f.tag.toNat = ckStream s then ckAck (f.offset.toNat / 2 ^ 27) s else s)
    else
      let x := srdTake q f.tag.toNat f.offset.toNat f.payload s.pcl.srds
      let s := s.modPcl (fun y => { y with srds := x.1 })
      match x.2 with
      | some d => readAnswer d.req 0 (d.got.drop d.skip) 0 s
      | none => s

/-! The link's state (R345, R346, R349). -/

/-- CRD (R349): what the host has consumed, the adapter has acknowledged. -/
def crd (posted nonposted : Nat) (s : State) : State :=
  if !hostUp s then s
  else drainHeld (s.modHost (fun h => { h with
    posted := h.posted + posted, nonposted := h.nonposted + nonposted, unacked := h.unacked.drop posted }))

/-- The link goes down (R345): its transactions wait. -/
def linkDown (s : State) : State := s.modHost (fun h => { h with mods := 0, posted := 0, nonposted := 0 })

/-- UCIE_MODULE_FAIL (R345). -/
def moduleFail (m : BitVec 2) (s : State) : State :=
  let mods := s.host.mods &&& ~~~(BitVec.ofNat 4 (2 ^ m.toNat))
  if mods = 0 then linkDown s else s.modHost (fun h => { h with mods := mods })

/-- Insert by number. -/
def byNo (e : Nat × Mrd) : List (Nat × Mrd) → List (Nat × Mrd)
  | [] => [e]
  | x :: l => if e.2.no ≤ x.2.no then e :: x :: l else x :: byNo e l

/-- The MRDs that had been sent and not answered in full, in their original order, for the bytes still missing (R346 step 2). -/
def reissued (h : HostLink) : List Out :=
  let waits (t : Nat) : Bool := h.held.any (fun o => match o with | .mrd u _ _ => u == t | _ => false)
  let l := (h.mrds.filterMap (fun e => e.2.map (fun m => (e.1, m)))).filter (fun e => !waits e.1)
  (l.foldr byNo []).map (fun e => .mrd e.1 (e.2.addr + e.2.got.length) (e.2.len - e.2.got.length))

/-- The link comes up again (R346, R393): credits are exchanged; which posted transactions the adapter had not acknowledged is
free, the latest of those sent. -/
def linkUp (mods : BitVec 4) (posted nonposted : Nat) (s : State) : State :=
  if !s.host.siteOn ∨ !s.tc.phase8 ∨ mods = 0 then s
  else if hostUp s then s.modHost (fun h => { h with mods := mods })
  else
    let a := fresh s
    let b := fresh a.2
    let c := fresh b.2
    let s := emit (.crd (BitVec.ofNat 16 (64 + a.1 % 65472)) (BitVec.ofNat 16 (64 + b.1 % 65472))) c.2
    let lost := s.host.unacked.drop (s.host.unacked.length - c.1 % (s.host.unacked.length + 1))
    drainHeld (s.modHost (fun h => { h with
      mods := mods, l1 := false, posted := posted, nonposted := nonposted, unacked := [], held := lost ++ reissued h ++ h.held }))

/-- READ_REG (R398): the MP answers it alone; a count outside 1–512 is REFUSED. -/
def readRegs (counter : DWord) (off count : Nat) (s : State) : State :=
  if !mgmtRuns s then s
  else if count = 0 ∨ 512 < count then respond 0x0001 mRefused counter [] false s
  else respond 0x0001 mOk counter ((upTo count).flatMap (fun i => leBytes 8 (winRead s (off + 8 * i)))) false s

def execWwr (off : DWord) (data : List Byte) (s : State) : Res := .next (wwr off.toNat data s)
def execWrd (off : DWord) (len : BitVec 13) (tag : BitVec 10) (s : State) : Res := .next (wrd off.toNat len.toNat tag s)
def execMcpl (tag : BitVec 10) (data : List Byte) (s : State) : Res := .next (mcpl tag.toNat data s)
def execMerr (tag : BitVec 10) (s : State) : Res := .next (merr tag.toNat s)
def execCrd (posted nonposted : Half) (s : State) : Res := .next (crd posted.toNat nonposted.toNat s)
def execRegisterWrite (off : BitVec 24) (value : DWord) (s : State) : Res := .next (regStore off.toNat value.toNat s)
def execHostLinkDown (s : State) : Res := .next (linkDown s)
def execHostLinkUp (mods : BitVec 4) (posted nonposted : Half) (s : State) : Res :=
  .next (linkUp mods posted.toNat nonposted.toNat s)
def execUcieModuleFail (m : BitVec 2) (s : State) : Res := .next (moduleFail m s)
def execPwrModCauseClear (mask : BitVec 7) (s : State) : Res := .next (causeClear mask s)
def execReadReg (counter : DWord) (off : BitVec 24) (count : Half) (s : State) : Res := .next (readRegs counter off.toNat count.toNat s)
/-- The device writes a unit to a storage endpoint (R311). -/
def execSwr (q : PortId) (stream : Half) (unit : Word) (data : List Byte) (s : State) : Res :=
  .next (if isStorage s q.toNat then storageWrite q.toNat stream.toNat unit.toNat (padTo 1024 data) s else s)
/-- The device asks a storage endpoint for units (R311); nothing of the device waits for these. -/
def execSrd (q : PortId) (stream : Half) (unit : Word) (count : DWord) (s : State) : Res :=
  .next (if isStorage s q.toNat then storageRead .gone q.toNat stream.toNat unit.toNat count.toNat 0 s else s)
def execSrsp (q : PortId) (f : Frame) (s : State) : Res := .next (srsp q.toNat f s)

end Sys2Proof.Machine
end

