-- ==== Sys2Proof/Machine/Twin.lean ====
section
/-!
DEFINITION. The twin (R453–R462): roles and pairing, the records of TP, mirroring as the standby applies it, resynchronisation,
failover, detachment; and a module reset (R389, R473), which ends a detachment.
-/

namespace Sys2Proof.Machine

/-- TWROLE of the running section (R387). -/
def twRole (s : State) : Nat := cfgNum s 0x340 1

/-- Does the module run the twin protocol (R453). -/
def twinRuns (s : State) : Bool := twRole s != 0 && s.tc.ready

/-- A twin event (R435); kinds 1 to 4 are counted (R467). -/
def twinEvent (kind : Nat) (s : State) : State :=
  let up (k n : Nat) : Nat := if kind = k then Nat.min 0xFFFF (n + 1) else n
  report 0 7 0x60 0xFF kind (s.modTwin (fun t => { t with
    failovers := up 1 t.failovers, resyncs := up 2 t.resyncs, refused := up 3 t.refused, stales := up 4 t.stales }))

/-- Everything a module reset leaves of the state (R389, R473): fuses, flash and counters, the repair record, what stands on
pins, the AON counter, the waiting commands, what has left the module. The module then waits for MRST_N_RELEASE. -/
def moduleReset (s : State) : State :=
  { State.reset with
    pending := s.pending, freeCtr := s.freeCtr, aon := s.aon, repairs := s.repairs, out := s.out
    hbm := { State.reset.hbm with nextKey := s.hbm.nextKey }
    tc := { tc0 with
      ophash := s.tc.ophash, oprevoke := s.tc.oprevoke, keyrevoke := s.tc.keyrevoke, fwfloor := s.tc.fwfloor
      cfgfloor := s.tc.cfgfloor, serial := s.tc.serial, cmdctr := s.tc.cmdctr, boots := s.tc.boots, ctrSeq := s.tc.ctrSeq
      roothash := s.tc.roothash, unique := s.tc.unique, flash := s.tc.flash }
    twin := { twin0 with sense := s.twin.sense, released := s.twin.released }
    mdl := { module0 with men := s.mdl.men, pgood := s.mdl.pgood, overv := s.mdl.overv } }

/-! Records that leave. -/

/-- The SHA-384 that ATTACH carries (R455). -/
def attachDigest (s : State) : List Byte :=
  padTo 48 (Config.sha384 ((s.tc.cfg.drop 0x140).take 0x40 ++ (s.tc.cfg.drop 0x400).take 0x1C00))

/-- ATTACH (R455). -/
def attachBytes (s : State) : List Byte :=
  attachDigest s ++ [s.twin.role.setWidth 8, 0, 0, 0] ++ leBytes 4 (crustDig s 0).toNat ++ leBytes 4 (crustDig s 1).toNat

def sendAttach (s : State) : State :=
  if twinRuns s && portUp s 6 then sendTwin 2 0 0 0 (attachBytes s) (s.modTwin (fun t => { t with tpFail := false })) else s

/-- HEARTBEAT (R455, R456). -/
def heartbeatSend (s : State) : State :=
  if twinRuns s && portUp s 6 then
    sendTwin 1 0 0 0 ([s.twin.role.setWidth 8, if s.twin.sync then 1 else 0, 0, 0] ++ leBytes 8 s.twin.beats ++ leBytes 8 s.twin.applied)
      (s.modTwin (fun t => { t with beats := t.beats + 1 }))
  else s

/-- The image lines of a descriptor as they stand: for one that is being staged, those that have arrived. A poisoned line is
consumed by the mirror (R254). -/
def resyncImage (p i : Nat) (s : State) : State :=
  let d := s.desc i
  let n := match s.stage i with | some j => if d.state = 1 then j.img.length / 64 else d.wlen | none => d.wlen
  let r := partReadN 1 p d.wloc n s
  if r.2.2 then partFault p 7 0x30 7 r.1 else mirrorImage p i 0 r.2.1 r.1

/-- Everything of a mirrored partition is sent (R462). -/
def resyncPart (p : Nat) (s : State) : State :=
  if !mirrors s p then s else
  let s := forEach ((s.fills.descs.filter (fun e => e.2.state != 0 && inRangeOf s p e.1)).map (·.1)) (fun i s =>
    resyncImage p i (modDesc i (fun d => d) s)) s
  let s := forEach ((s.fills.ctxs.filter (fun e => e.2.active && decide (cbase s p ≤ e.1) && decide (e.1 < cbase s p + ccount s p))).map (·.1))
    (fun c s => modCtxRec p (c - cbase s p) (fun r => r) s) s
  let c := (s.part p).ctxF
  if c.loaded then mirrorProgram p c.idx (c.hdr ++ (upTo (c.hi - c.lo)).flatMap (fun k => bundleBytes s p (c.lo + k))) s else s

/-- The ACTIVE module resynchronises its twin (R462): SYNCDONE is still to be sent. -/
def resyncBegin (s : State) : State :=
  let s := s.modTwin (fun t => { t with role := 1, paired := true, sync := false, stale := 0, resync := true, tpFail := false })
  forEach (upTo 32) resyncPart s

/-- VC 1 of TP has drained: nothing waits and everything has been acknowledged. -/
def mirrorDrained (s : State) : Bool := ((s.port 6).vc 1).queue == [] && ((s.port 6).vc 1).sent == []

/-- Mirrors marked stale (R330) are sent again once TP carries records (log entry 115). -/
def staleSettle (s : State) : State :=
  if s.twin.stale != 0 && s.twin.paired && s.twin.role == 1 && portUp s 6 && mirrorDrained s then
    let ps := (upTo 32).filter (fun p => s.twin.stale.getLsbD p)
    forEach ps resyncPart (s.modTwin (fun t => { t with stale := 0 }))
  else s

/-- SYNCDONE follows the records of a resynchronisation (R456, R462). -/
def syncSettle (s : State) : State :=
  if s.twin.resync && s.twin.paired && s.twin.role == 1 && portUp s 6 && mirrorDrained s then
    twinEvent 2 (sendTwin 5 0 0 0 [] (s.modTwin (fun t => { t with resync := false, sync := true })))
  else s

/-- Are steps delivered and not completed. -/
def stepsOpen (s : State) : Bool := s.parts.any (fun q => q.dlv.any (fun e => e.2.isSome))

/-- A detachment goes on (R461): once no step is open and VC 1 has drained, HANDOVER, the response and the reset follow. -/
def detachSettle (s : State) : State :=
  match s.twin.detach with
  | none => s
  | some (c, _) => if stepsOpen s || !mirrorDrained s then s else moduleReset (respond 0x0142 mOk c [] true (sendTwin 3 0 0 0 [] s))

/-- What follows when TP has carried something. -/
def twinSettle (s : State) : State := detachSettle (syncSettle (staleSettle s))

/-! Pairing and roles. -/

def unpair (s : State) : State := s.modTwin (fun t => { t with paired := false, sync := false, resync := false })

/-- The module serves alone. -/
def serveAlone (s : State) : State := unpair (s.modTwin (fun t => { t with role := 1, tpFail := false }))

/-- Two modules settle together (R454): TWROLE 1 before 2, then the lower PCL_ID. No record carries the peer's TWROLE; a peer
that is HELD has 2, that of another is a free value. -/
def winsTie (peerRole : Nat) (peer : Nat) (s : State) : Bool × State :=
  let x := if peerRole = 3 then (2, s) else let r := fresh s; (1 + r.1 % 2, r.2)
  (if twRole s = x.1 then decide (s.pcl.id.toNat < peer) else decide (twRole s = 1), x.2)

/-- ATTACH arrives (R454, R456, R462). -/
def attachRx (f : Frame) (s : State) : State :=
  let peerRole := (nth 0 f.payload 48).toNat % 4
  if f.payload.take 48 ≠ attachDigest s then (if s.twin.role = 2 then s else unpair s)
  else
    let s := s.modTwin (fun t => { t with
      peerDig := (BitVec.ofNat 32 (leNat ((f.payload.drop 52).take 4)), BitVec.ofNat 32 (leNat ((f.payload.drop 56).take 4))) })
    let standby (s : State) : State := s.modTwin (fun t => { t with role := 2, paired := true, sync := false })
    if s.twin.role = 1 then (if peerRole = 1 then twinEvent 5 (unpair s) else resyncBegin s)
    else if peerRole = 1 then standby s
    else if s.twin.role = 2 then s
    else
      let r := winsTie peerRole f.src.toNat s
      if r.1 then resyncBegin r.2 else standby r.2

/-- 1.0 s after Ready (R454): a module that no ATTACH has settled. -/
def attachWait (s : State) : State :=
  if !twinRuns s || s.twin.role != 0 || decide (s.aon.toNat < s.twin.readyAt + 32000000) then s
  else if twRole s = 1 then serveAlone s
  else if s.twin.sense then twinEvent 7 (s.modTwin (fun t => { t with role := 3 }))
  else twinEvent 6 (serveAlone s)

/-- A HELD module whose input has been released for 10 ms (R454). -/
def heldTimeout (s : State) : State :=
  match s.twin.released with
  | some t => if s.twin.role = 3 ∧ t + 320000 ≤ s.aon.toNat then twinEvent 6 (serveAlone s) else s
  | none => s

/-! Failover (R460). -/

/-- INFLIGHT is cleared in the contexts of a partition. -/
def clearInflight (p : Nat) (s : State) : State :=
  forEach ((s.fills.ctxs.map (·.1)).filter (fun c => decide (cbase s p ≤ c) && decide (c < cbase s p + ccount s p)))
    (fun c s => s.modFills (fun x => { x with ctxs := mmod ctxRec0 x.ctxs c (fun r => { r with inflight := false }) })) s

/-- The mirrored program of context F starts at IDX. -/
def startMirrored (p : Nat) (s : State) : State :=
  let (idx, img) := mget (0, []) s.twin.progs p
  if img.length < 256 ∨ (s.part p).live = false ∨ (s.part p).ctxF.loaded then s
  else
    let n := hdrNbund img
    let bundles := padTo (128 * n) (img.drop 256)
    let s := writeShape p (hdrShape img) (jobsStart p (writeBundles p idx bundles s))
    startF p { ctx0 with
      loaded := true, pc := idx, lo := idx, hi := idx + n, idx := idx, hdr := img.take 256
      digest := padTo 48 (Config.sha384 bundles) } s

/-- Notifications of kind 0x3 and 0x4 for a partition; the index of the event's entry is a free value. -/
def failoverNotify (p : Nat) (s : State) : State :=
  let q := s.part p
  let x := fresh (notify 3 p (q.pstate.toNat + 2 ^ 32 * q.gen.toNat) s)
  notify 4 p (put x.1 0 11 + put 0x60 16 16 + put q.gen.toNat 32 16) x.2

/-- FAIL, HANDOVER, or the loss of the peer (R459, R460). -/
def peerGone (s : State) : State :=
  if s.twin.role = 1 then unpair s
  else if s.twin.role ≠ 2 then s
  else
    let ps := (upTo 32).filter (mirroredNow s)
    let s :=
      if s.twin.sync then
        twinEvent 1 (serveAlone (forEach ps (fun p s => startMirrored p (clearInflight p s)) s))
      else
        twinEvent 3 (serveAlone (forEach (upTo 32) clearInflight s))
    forEach ps failoverNotify s

/-- 10 ms without a VC 0 frame (R459). -/
def heartbeatLoss (s : State) : State :=
  if !twinRuns s || !s.twin.paired || decide (s.aon.toNat < s.twin.lastRx + 320000) then s
  else if !s.twin.sense then peerGone s
  else if s.twin.tpFail then s
  else twinEvent 4 (s.modTwin (fun t => { t with tpFail := true, sync := false, resync := false, paired := t.role == 2 }))

/-! Records that arrive. -/

/-- A VC 0 frame has passed its check (R459). When TP had failed it has returned, and ATTACH goes out (R462). -/
def twinHeard (s : State) : State :=
  let s := s.modTwin (fun t => { t with lastRx := s.aon.toNat })
  if s.twin.tpFail then sendAttach s else s

/-- A TWIN frame arrives (R282, R455); all but HEARTBEAT are wake events (R415). -/
def rxTwin (kind : Nat) (f : Frame) (act : State → State) (s : State) : State :=
  let r := rxAccept 6 tTwin f s
  let s := r.1
  let s :=
    if !r.2 then s
    else
      let s := creditFrame 6 f s
      if !twinRuns s || f.tag.toNat % 256 != kind then s
      else
        let s := if f.vc = 0 then twinHeard s else s
        act (if kind = 1 then s else wakeUp s)
  twinSettle (afterAck s)

/-- A mirror record is applied by a STANDBY module (R457); records are counted for the heartbeat. -/
def applied (f : Frame) (act : Nat → State → State) (s : State) : State :=
  if s.twin.role ≠ 2 then s
  else act (f.step.toNat % 32) (s.modTwin (fun t => { t with applied := t.applied + 1 }))

/-- A descriptor from its 128 bytes (R182). -/
def descOf (b : List Byte) : Desc :=
  let n (off lo w : Nat) := fld (leNat ((b.drop off).take 8)) lo w
  { state := BitVec.ofNat 3 (n 0 0 3), cv := bit (n 0 0 8) 3, evreq := bit (n 0 0 16) 9, gen := BitVec.ofNat 16 (n 0 16 16)
    pins := n 0 32 32, wloc := n 8 0 64, wlen := n 16 0 64, oloc := n 24 0 64, olen := n 32 0 64, layers := n 40 0 8
    experts := n 40 8 8, dmodel := n 40 16 12, dff := n 40 28 12, mats := n 40 40 2, wfmt := n 40 42 4, pltiles := n 48 0 8
    slice := n 48 8 16, magic := BitVec.ofNat 32 (n 56 0 32), version := BitVec.ofNat 32 (n 56 32 32)
    digest := (b.drop 64).take 48 }

/-- A context record from its 32 bytes (R190, R367). -/
def ctxOf (b : List Byte) : CtxRec :=
  let n (lo w : Nat) := fld (leNat (b.take 16)) lo w
  { fidx := BitVec.ofNat 14 (n 0 14), none_ := n 14 1 == 1, pinned := n 15 1 == 1, pgen := BitVec.ofNat 16 (n 16 16)
    stale := n 32 1 == 1, cv := n 33 1 == 1, active := n 64 1 == 1, inflight := n 65 1 == 1, tokens := BitVec.ofNat 32 (n 96 32) }

/-- FDESC: the standby takes the descriptor as it is, in the range of the record's partition. -/
def fdescRx (b : List Byte) (p : Nat) (s : State) : State :=
  let i := leNat (b.take 8)
  if inRangeOf s p i then s.modFills (fun x => { x with descs := mset desc0 x.descs i (descOf (b.drop 8)) }) else s

/-- FIMG: image lines are written at WLOC in the partition's own memory. -/
def fimgRx (b : List Byte) (p : Nat) (s : State) : State :=
  let i := leNat (b.take 2)
  let line := leNat ((b.drop 2).take 6)
  let d := s.desc i
  let n := Nat.min ((b.length - 8) / 64) (d.wlen - line)
  if inRangeOf s p i then partWriteN p (d.wloc + line) ((b.drop 8).take (64 * n)) s else s

/-- CTX: context records, each behind its 8-byte index. -/
def ctxRx (b : List Byte) (p : Nat) (s : State) : State :=
  forEach (upTo (b.length / 40)) (fun k s =>
    let g := b.drop (40 * k)
    let c := leNat (g.take 8)
    if c < ccount s p then
      s.modFills (fun x => { x with ctxs := mset ctxRec0 x.ctxs (cbase s p + c) (ctxOf ((g.drop 8).take 32)) })
    else s) s

/-- PROG: bytes of a context F program image; OFFSET 0 begins a new one. -/
def progRx (part : Nat) (b : List Byte) (p : Nat) (s : State) : State :=
  let idx := leNat (b.take 8)
  let had := mget (0, []) s.twin.progs p
  let img := if part = 0 then [] else had.2.take (960 * part)
  s.modTwin (fun t => { t with progs := mset (0, []) t.progs p (idx, img ++ (b.drop 8).take 960) })

/-- PRESET: the mirrored state of the partition is reset (R209, R369). -/
def presetRx (p : Nat) (s : State) : State :=
  let s := fillReset p s
  (s.modFills (fun x => { x with
    ctxs := mfilter (fun c => !(decide (cbase s p ≤ c) && decide (c < cbase s p + ccount s p))) x.ctxs })).modTwin
    (fun t => { t with progs := mset (0, []) t.progs p (0, []) })

/-- CKPT: a unit is written to this module's own target (R446, R448). -/
def ckptRx (f : Frame) (s : State) : State :=
  let p := f.step.toNat % 32
  let slot := f.offset.toNat / 2 ^ 26 % 2
  let u := f.offset.toNat % 2 ^ 26
  let q := s.part p
  if !s.twin.paired then s
  else if ckTgt s = 1 then storageWrite (ckPort s) (ckStream s) (ckStoreUnit p slot u) (f.payload.take 1024) s
  else if ckTgt s = 2 then hostStore p q.gen (q.ckp.hbase + slot * q.ckp.hslot * 1024 + 1024 * u) (f.payload.take 1024) s
  else s

/-- SYNCDONE on the standby (R456, R462). -/
def syncdoneRx (s : State) : State :=
  if s.twin.role = 2 ∧ s.twin.paired then twinEvent 2 (s.modTwin (fun t => { t with sync := true })) else s

/-- The mirror's drain of p's reset ends at its bound (R330). -/
def mirrorDrainEnds (p : Nat) (s : State) : State :=
  match (s.part p).reset with
  | some r =>
    if r.mirror then s
    else (s.modPart p (fun q => { q with reset := some { r with mirror := true } })).modTwin (fun t => { t with
      stale := t.stale ||| BitVec.ofNat 32 (2 ^ p) })
  | none => s

/-- 20 ms after a detachment began (R461), the steps still open complete FAULT. -/
def detachTimeout (s : State) : State :=
  match s.twin.detach with
  | some (_, t) => if t + 640000 ≤ s.aon.toNat then twinSettle (forEach (upTo 32) faultSteps s) else s
  | none => s

/-- The twin-sense input changes (R479). -/
def senseChange (asserted : Bool) (s : State) : State :=
  s.modTwin (fun t => { t with
    sense := asserted
    released := if asserted then none else if t.sense || t.released.isNone then some s.aon.toNat else t.released })

def execHeartbeatSend (s : State) : Res := .next (heartbeatSend s)
def execHeartbeat (f : Frame) (s : State) : Res := .next (rxTwin 1 f (fun s => s) s)
def execHeartbeatLoss (s : State) : Res := .next (twinSettle (afterAck (heartbeatLoss s)))
def execAttach (f : Frame) (s : State) : Res := .next (rxTwin 2 f (attachRx f) s)
def execAttachWaitExpiry (s : State) : Res := .next (attachWait s)
def execHeldSenseTimeout (s : State) : Res := .next (heldTimeout s)
def execHandover (f : Frame) (s : State) : Res :=
  .next (rxTwin 3 f (fun s => if s.twin.role = 2 then peerGone s else s) s)
def execFail (f : Frame) (s : State) : Res :=
  .next (rxTwin 4 f (fun s => if s.twin.role = 2 then peerGone s else s) s)
def execSyncdone (f : Frame) (s : State) : Res := .next (rxTwin 5 f syncdoneRx s)
def execFdesc (f : Frame) (s : State) : Res := .next (rxTwin 0x10 f (applied f (fdescRx f.payload)) s)
def execFimg (f : Frame) (s : State) : Res := .next (rxTwin 0x11 f (applied f (fimgRx f.payload)) s)
def execTwinCtx (f : Frame) (s : State) : Res := .next (rxTwin 0x12 f (applied f (ctxRx f.payload)) s)
def execProg (f : Frame) (s : State) : Res := .next (rxTwin 0x13 f (applied f (progRx f.offset.toNat f.payload)) s)
def execPreset (f : Frame) (s : State) : Res := .next (rxTwin 0x14 f (applied f presetRx) s)
def execCkpt (f : Frame) (s : State) : Res := .next (rxTwin 0x20 f (ckptRx f) s)
def execMirrorDrainTimeout (p : PartId) (s : State) : Res := .next (mirrorDrainEnds p.toNat s)
def execDetachDrainTimeout (s : State) : Res := .next (detachTimeout s)
def execTwsInChange (asserted : Bool) (s : State) : Res := .next (senseChange asserted s)

/-- CREDIT (R279–R282). -/
def execCredit (q : PortId) (w : Flit) (s : State) : Res :=
  .next (rxFlit q.toNat tCredit 0 w (fun x s =>
    if portUp s q.toNat then
      twinSettle (afterAck (creditTake q.toNat (fld x 4 3) (fld x 8 12) (BitVec.ofNat 16 (fld x 20 16)) (bit x 7) (rxWake q.toNat s)))
    else s) s)
/-- ECHO-REPLY brings the port UP (R284); on TP, ATTACH is exchanged (R454, R462). -/
def execEchoReply (q : PortId) (w : Flit) (s : State) : Res :=
  let s' := rxFlit q.toNat tLink 2 w (fun x s => echoReply q.toNat (fld x 128 32) s) s
  .next (if q.toNat = 6 ∧ portUp s 6 = false ∧ portUp s' 6 then sendAttach s' else s')
/-- PORT_DOWN (R285). -/
def execPortDown (q : PortId) (s : State) : Res := .next (twinSettle (loseP q.toNat s))

end Sys2Proof.Machine
end

