-- ==== Sys2Proof/Machine/Module.lean ====
section
/-!
DEFINITION. The module's pins and power (R468–R474), start-up to Ready (R384–R393), MODULE_RESET (R398, R461), the I3C
sideband and recovery (R481–R484).
-/

namespace Sys2Proof.Machine

/-! Power. -/

/-- The module without power, or with its supplies stopped (R474). -/
def powerOff (s : State) : State :=
  (moduleReset s).modMdl (fun m => { m with pgood := false })

/-- MEN goes high (R472): the rails come up and PGOOD follows; PWR_AON counts from here (R412). After an overvoltage MEN must
first have been low (R470). -/
def menAssert (s : State) : State :=
  let s := s.modMdl (fun m => { m with men := true })
  if s.mdl.pgood || s.mdl.overv then s
  else (s.modMdl (fun m => { m with pgood := true })).setAon 0

/-- MEN goes low (R474). -/
def menDeassert (s : State) : State := (powerOff s).modMdl (fun m => { m with men := false, overv := false })

/-- VIN above 62.0 V for 1.0 µs (R470). -/
def overvoltage (s : State) : State := (powerOff s).modMdl (fun m => { m with overv := true })

/-! Start-up (R392). -/

/-- FWSVN of a copy's header, CFGSEQ of a section. -/
def fwSvn (s : State) (b : Bool) : Nat := leNat (((fwHeader s b).drop 8).take 1)
def cfgSeq (c : List Byte) : Nat := secNum c 8 8

/-- The better of two copies by a number, copy A on a tie (R389); a copy that is not usable does not count. -/
def chooseCopy (okA okB : Bool) (a b : Nat) : Option Bool :=
  if okA && (!okB || decide (b ≤ a)) then some false else if okB then some true else none

/-- The firmware that runs, and whether a copy was abandoned (R389): one retry with the other copy alone. -/
def chooseFw (s : State) (v : BootVerdict) : Option Bool × Bool :=
  let ok (b : Bool) : Bool := fwValid s b (if b then v.fwSigB else v.fwSigA)
  let dig (b : Bool) : Bool := if b then v.fwDigB else v.fwDigA
  match chooseCopy (ok false) (ok true) (fwSvn s false) (fwSvn s true) with
  | none => (none, false)
  | some b => if dig b then (some b, false) else if ok (!b) && dig (!b) then (some (!b), true) else (none, true)

/-- The section that is accepted (R389). -/
def chooseCfg (s : State) (v : BootVerdict) : Option Bool :=
  let a := sectionOf s false
  let b := sectionOf s true
  chooseCopy (cfgAccepted s a v.cfgSigA) (cfgAccepted s b v.cfgSigB) (cfgSeq a) (cfgSeq b)

/-- Channels the repair record lists as lost. -/
def recordedLost (s : State) : List Nat :=
  (s.repairs.filterMap (fun r => match r with | .lost c => some c | _ => none)).eraseDups

/-- A recorded row is redirected to a fresh entry of its store (R259); with the store full it stays in use. -/
def redirectRow (row : Nat) (s : State) : State :=
  let k := stackOf (rowChan row)
  let r := s.rowRep k
  if r.rows.contains row then s
  else if 512 ≤ r.used then s.modRowRep k (fun x => if x.full.contains row then x else { x with full := x.full ++ [row] })
  else s.modRowRep k (fun x => { x with used := x.used + 1, start := x.start + 1, rows := x.rows ++ [row] })

/-- An entry of the repair record is reapplied (R259): a lane repair steers its spare, a row that was repaired, or marked after the
store filled, takes a fresh entry. -/
def reapply (r : RepairEnt) (s : State) : State :=
  match r with
  | .lane c pc spare pin => s.modChan c (fun x => { x with spares := x.spares.set (2 * pc + spare) pin })
  | .row row => redirectRow row s
  | .lost c => s.modChan c (fun x => { x with lost := true })
  | .overRow row => redirectRow row s

/-- Phase 8 (R238, R259, R390, R392): HBM is trained, what the record lists is reapplied, one lost channel is mapped out;
more than one leave the device in Halted mode. -/
def phase8 (trainFail : List ChanId) (s : State) : State :=
  let failed := ((trainFail.map (·.toNat)).eraseDups).filter (fun c => !(recordedLost s).contains c)
  let s := forEach failed (fun c s => recordRepair (.lost c) s) s
  let s := forEach s.repairs reapply s
  let s := forEach failed (fun c s => s.modChan c (fun x => { x with lost := true })) s
  let lost := (recordedLost s ++ failed).eraseDups
  match lost with
  | [] => s
  | [c] =>
    forEach [765, 766, 767] (fun n s => s.modSlab n (fun e => { e with avail := false }))
      (s.modHbm (fun h => { h with mapout := some (BitVec.ofNat 8 c) }))
  | _ => forEach lost (fun c s => deviceFault 4 0x41 c s) (s.modTc (fun t => { t with mode := 3 }))

/-- MRST_N_RELEASE (R389–R392, R472 step 7, R479): start-up runs as far as phase 8. -/
def startUp (slot : BitVec 3) (v : BootVerdict) (s : State) : State :=
  if !s.mdl.pgood || s.mdl.mrstN then s
  else
    let s := s.modMdl (fun m => { m with mrstN := true, slotId := slot, twsOut := true })
    let fw := chooseFw s v
    let s := s.modTc (fun t => { t with fallback := !v.sfdp8D, altfail := fw.2 })
    let s := if fw.2 then report 0 0 0x0003 0xFF 0 s else s
    match fw.1 with
    | none => s.modTc (fun t => { t with mode := 2 })
    | some copy =>
      let s := s.modTc deriveKeys
      let s := writeCounters (s.modTc (fun t => { t with
        fwCopy := copy, fwHdr := fwHeader s copy, boots := t.boots + 1, mgmtCert := some (issueCert t)
        certOk := Config.certKey (identityCert s) == identityPub t }))
      let s := if s.tc.certOk then s else report 0 0 0x0003 0xFF 1 s
      let s := match chooseCfg s v with
        | none => s.modTc (fun t => { t with mode := 1 })
        | some b => s.modTc (fun t => { t with hasCfg := true, cfgCopy := b, cfg := sectionOf s b })
      let s := s.modPwr (fun w => { w with
        aclk := if s.tc.hasCfg then aclkMax s else 1000, target := if s.tc.hasCfg then pkgLim s else 0 })
      phase8 v.trainFail (s.modTc (fun t => { t with phase8 := true }))

/-- A slab table entry from its word (R239); AVAIL is the device's own. -/
def slabOfWord (w : Nat) (avail : Bool) : Slab :=
  { valid := bit w 0, shared := bit w 1, cv := bit w 2, avail := avail, owner := BitVec.ofNat 5 (fld w 4 5)
    pslot := BitVec.ofNat 11 (fld w 9 11), kslot := BitVec.ofNat 3 (fld w 20 3), grant := BitVec.ofNat 32 (fld w 32 32) }

/-- A partition as the section defines it (R393): its key is generated and epoch 0 is loaded. -/
def definePart (p : Nat) (s : State) : State :=
  let mask := secPart s.tc.cfg p 0 4
  let s := s.modHbm (fun h => { h with
    weights := mset 0 h.weights p (BitVec.ofNat 8 (secPart s.tc.cfg p 14 1))
    ways := mset 0 h.ways p (BitVec.ofNat 16 (secPart s.tc.cfg p 18 2)) })
  let s := s.modPcl (fun x => { x with
    slots := mset 0 x.slots p (BitVec.ofNat 64 (secPart s.tc.cfg p 15 1 + put (secPart s.tc.cfg p 16 2) 8 9)) })
  if mask = 0 then s
  else
    let r := newKey s
    (r.2.modKey p (fun _ => { keyReg0 with k0 := some r.1 })).modPart p (fun q => { q with
      granules := BitVec.ofNat 32 mask, pstate := 1, ckp := { q.ckp with tau := tauOf s [] } })

/-- The assigned bits of PCL_TOPOk_j; its other bits read 0 (R11, R315). -/
def topoMask (j : Nat) : DWord := if j = 0 then 0x3FFFFFFFFFFFFFF else if j = 1 then 0x3FFFF else 0xFFFFFFFFFFFFFFFF

/-- Phase 9 (R392): the slab table, keys, partitions, port roles and topologies, with the assigned bits of their registers. -/
def phase9 (s : State) : State :=
  let c := s.tc.cfg
  let per := secNum c 0x141 1
  let s := s.modHbm (fun h => { h with
    slabs := (upTo 768).foldl (fun m n => mset slab0 m n (slabOfWord (secSlab c n) (mget slab0 h.slabs n).avail)) h.slabs
    refAll := secNum c 0x140 1 == 1
    scrubPeriod := BitVec.ofNat 8 (if per = 0 then 24 else Nat.min 168 per) })
  let s := forEach (upTo 32) definePart s
  let s := s.modPcl (fun x => { x with
    id := BitVec.ofNat 24 (secNum c 0x180 8)
    roles := (upTo 7).foldl (fun m q => mset 0 m q (BitVec.ofNat 3 (secRole c q))) x.roles
    vcImg := (upTo 12).foldl (fun m i => mset 0 m i (BitVec.ofNat 64 (secNum c (0x190 + 8 * i) 8) &&& 0xFF3FFF3FFF3FFF3F)) x.vcImg
    topo := (upTo 64).foldl (fun m i => if i % 8 < 5 then mset 0 m i (BitVec.ofNat 64 (secTopo c (i / 8) (i % 8)) &&& topoMask (i % 8)) else m) x.topo })
  let s := forEach (upTo 7) (fun q s => if roleOf s q = 0 then s else s.modPort q (fun x => { x with state := 1 })) s
  s.setFleet (BitVec.ofNat 32 (secNum c 0x354 4))

/-- READY (R392, R393): after phase 8, in Normal mode and in Provision mode. -/
def ready (s : State) : State :=
  if !s.tc.phase8 || s.tc.ready || 2 ≤ s.tc.mode.toNat then s
  else
    let s := if s.tc.mode = 0 then phase9 s else s
    (s.modTc (fun t => { t with ready := true })).modTwin (fun t => { t with readyAt := s.aon.toNat, lastRx := s.aon.toNat })

/-- MODULE_RESET (R398, R461): a SYNCED ACTIVE module is detached first. -/
def moduleResetCmd (counter : DWord) (s : State) : State :=
  if s.twin.detach.isSome then respond 0x0142 mRefused counter [] true s
  else if s.twin.role = 1 ∧ s.twin.sync then
    twinSettle (s.modTwin (fun t => { t with detach := some (counter, s.aon.toNat) }))
  else moduleReset (respond 0x0142 mOk counter [] true s)

/-! I3C (R481, R482). -/

/-- Does the module answer on I3C: from step 7 of R472 on. -/
def i3cOn (s : State) : Bool := s.mdl.pgood && s.mdl.mrstN

/-- It answers a transfer to its dynamic address. -/
def i3cAnswer (bs : State → List Byte) (s : State) : State := if i3cOn s && s.mdl.daddr.isSome then emit (.i3c (bs s)) s else s

/-- SETDASA and ENTDAA give the dynamic address to a module that has none. -/
def i3cAssign (a : BitVec 7) (s : State) : State :=
  if i3cOn s && s.mdl.daddr.isNone then s.modMdl (fun m => { m with daddr := some a }) else s

/-- Big-endian bytes. -/
def beBytes (n v : Nat) : List Byte := (leBytes n v).reverse

/-- The 16 bytes of STATUS (R482). -/
def statusBytes (s : State) : List Byte :=
  let hot := maxL ((upTo 8).map (fun k => (s.therm k).temp.toNat))
  [s.tc.mode.setWidth 8, s.pwr.state.setWidth 8, s.mdl.cause.setWidth 8, BitVec.ofNat 8 s.mdl.recState]
    ++ leBytes 2 s.pwr.pin.toNat ++ leBytes 2 s.pwr.pkg.toNat
    ++ [s.pwr.hotspot, BitVec.ofNat 8 hot, s.mdl.lidt, s.twin.role.setWidth 8] ++ leBytes 2 s.log.seq.toNat ++ [0, 0]

/-- STATUS: what is reported is cleared (R480). -/
def i3cStatus (s : State) : State :=
  if i3cOn s && s.mdl.daddr.isSome then causeClear s.mdl.cause (emit (.i3c (statusBytes s)) s) else s

/-- GETSTATUS: two bytes whose contents the spec leaves to the bus standard. -/
def i3cGetStatus (s : State) : State :=
  if i3cOn s && s.mdl.daddr.isSome then let r := fresh s; emit (.i3c (leBytes 2 r.1)) r.2 else s

/-! Recovery (R483, R484). -/

/-- Does the TC accept a recovery session. -/
def recovers (s : State) : Bool := i3cOn s && s.tc.mode == 2

/-- A REC_ command: outside Recovery mode the state is 7 and nothing changes. -/
def recCommand (f : State → State) (s : State) : State :=
  if !(i3cOn s && s.mdl.daddr.isSome) then s
  else if recovers s then f s
  else s.modMdl (fun m => { m with recState := 7 })

/-- REC_BEGIN: a length outside 1–67,108,864 is refused. -/
def recBegin (len : Nat) (s : State) : State :=
  if len = 0 ∨ copySize < len then s.modMdl (fun m => { m with recState := 7 })
  else s.modMdl (fun m => { m with recState := 1, recLen := len, recGot := 0, recHdr := [] })

/-- Bytes of copy B from an offset: each 64 KiB block is erased ahead of the first data that reach it. -/
def recWrite (off : Nat) (bs : List Byte) (s : State) : State :=
  let bs := bs.take (copySize - off)
  if bs = [] then s
  else
    let blocks := (upTo 1024).filter (fun k =>
      (decide (off ≤ 65536 * k) || (k == 0 && off == 640)) && decide (65536 * k < off + bs.length))
    flashStore (copyBase true + off) bs (forEach blocks (fun k s => flashErase (copyBase true + 65536 * k) 65536 s) s)

/-- REC_DATA: bytes in order; the first 640 are held and checked as a header. -/
def recData (off : Nat) (data : List Byte) (hdrOk : Bool) (s : State) : State :=
  if s.mdl.recState ≠ 1 ∨ data = [] ∨ 256 < data.length then s
  else if off ≠ s.mdl.recGot then s.modMdl (fun m => { m with recState := 4 })
  else
    let hdr := (s.mdl.recHdr ++ data).take 640
    let rest := data.drop (640 - s.mdl.recHdr.length)
    let whole := decide (s.mdl.recHdr.length < 640) && hdr.length == 640
    let s := s.modMdl (fun m => { m with recGot := off + data.length, recHdr := hdr })
    if whole && !hdrValid s hdr hdrOk then s.modMdl (fun m => { m with recState := 3 })
    else recWrite (Nat.max 640 off) rest s

/-- REC_END: exactly the length must have arrived; the header is written last. -/
def recEnd (s : State) : State :=
  if s.mdl.recState ≠ 1 then s
  else if s.mdl.recGot ≠ s.mdl.recLen then s.modMdl (fun m => { m with recState := 6 })
  else if s.mdl.recHdr.length < 640 then s.modMdl (fun m => { m with recState := 3 })
  else (flashStore (copyBase true) s.mdl.recHdr s).modMdl (fun m => { m with recState := 2 })

def execMenAssert (s : State) : Res := .next (menAssert s)
def execMenDeassert (s : State) : Res := .next (menDeassert s)
/-- VIN below 38.0 V for more than 100 µs acts as MEN low (R470). -/
def execVinUndervoltage (s : State) : Res := .next (powerOff s)
def execVinOvervoltage (s : State) : Res := .next (overvoltage s)
/-- MRST_N low for 1.0 µs (R473). -/
def execMrstNAssert (s : State) : Res := .next (if s.mdl.pgood then moduleReset s else s)
def execMrstNRelease (slot : BitVec 3) (v : BootVerdict) (s : State) : Res := .next (startUp slot v s)
def execReady (s : State) : Res := .next (ready s)
def execModuleReset (env : Env) (s : State) : Res := .next (mgmtCommand 0x0142 3 env (moduleResetCmd env.counter) s)
def execStatus (s : State) : Res := .next (i3cStatus s)
def execRecBegin (len : Word) (s : State) : Res := .next (recCommand (recBegin len.toNat) s)
def execRecData (off : Word) (data : List Byte) (hdrOk : Bool) (s : State) : Res :=
  .next (recCommand (recData off.toNat data hdrOk) s)
def execRecEnd (s : State) : Res := .next (recCommand recEnd s)
def execSetdasa (a : BitVec 7) (s : State) : Res := .next (i3cAssign a s)
def execEntdaa (a : BitVec 7) (s : State) : Res := .next (i3cAssign a s)
def execRstdaa (s : State) : Res := .next (if i3cOn s then s.modMdl (fun m => { m with daddr := none }) else s)
def execGetpid (s : State) : Res := .next (i3cAnswer (fun _ => beBytes 6 Config.i3cPid.toNat) s)
def execGetbcr (s : State) : Res := .next (i3cAnswer (fun _ => [Config.i3cBcr]) s)
def execGetdcr (s : State) : Res := .next (i3cAnswer (fun _ => [Config.i3cDcr]) s)
def execGetstatus (s : State) : Res := .next (i3cGetStatus s)
def execEnec (s : State) : Res := .next (if i3cOn s then s.modMdl (fun m => { m with ibi := true }) else s)
def execDisec (s : State) : Res := .next (if i3cOn s then s.modMdl (fun m => { m with ibi := false }) else s)

end Sys2Proof.Machine
end

