-- ==== Sys2Proof/Machine/Slots.lean ====
section
/-!
DEFINITION. The slots of a bundle issued alone (R47–R52, R66, R104, R107, R113, R118, R147): each is the bundle that carries it and
nothing else, run through its hold in the context that issues. Also the events of a slot's operation that come later.
-/

namespace Sys2Proof.Machine

/-- The cycle from which every LOAD of a bundle finds a place in its loader (R36). -/
def loadFrom (q : Seq) (b : Bundle) : Nat :=
  maxL ((arrsOf b).map (fun (e : Nat × ArrSlot) =>
    if (e.2.op == 2 || e.2.op == 3) && decide (e.2.fmt.toNat < 13) then
      (match (mget loader0 q.loaders e.1).waiting with | some w => w.start | none => 0)
    else 0))

/-- May a bundle that a command names issue now, as BUNDLE_ISSUE would issue it (R98, R103, R129): the partition issues, is not
stalled at a gate or held, and, running ahead, neither stops before the bundle nor exceeds a limit with it. -/
def mayAlone (s : State) (p : Nat) (b : Bundle) : Bool :=
  let q := s.part p
  maySequence s p && q.ctx.loaded && q.seq.stall.isNone && q.seq.heldFlip.isNone && q.seq.heldLoad.isNone && q.ctx.again.isNone &&
    (q.seq.gates == [] || !(stopsAhead q.ctx b || limitsAhead s p b || actPending s p))

/-- Run a bundle's slots alone, between two bundles of the program, at whose place the program counter stays. A FLIP waits for
its plane, with a clamp for each that is late (R40), a LOAD for a place in its loader (R36); the unresolved gates are charged
(R128). -/
def slotAlone (p : Nat) (b : Bundle) (s : State) : State :=
  if !(mayAlone s p b) then s
  else
    let s := evenCycle p s
    let q := s.part p
    match flipFrom q (flipsOf (arrsOf b)) with
    | none => s
    | some c =>
      let s := advance p c (forEach (lateFlips q b) (fun _ s => clamp p 1 s) s)
      let s := advance p (loadFrom (s.seq p) b) s
      runSlots p b none (clampCycle p true ((chargeAhead p b s).modSeq p (fun x => { x with quietAt := x.cyc + 16 })))

/-- A bundle that holds for `hold` cycles and carries nothing yet. -/
def holding (hold : BitVec 9) : Bundle := { nopBundle with ctl := { nopBundle.ctl with hold := hold } }

/-! The CTL slot (R100–R102). -/

/-- A CTL slot alone: the bundle that carries it and nothing else, at the context's program counter. -/
def ctlAlone (p : Nat) (cop : BitVec 4) (hold : BitVec 9) (creg : SReg) (target : BitVec 19) (s : State) : State :=
  let b := { nopBundle with ctl := ⟨cop, hold, 0, 0, false, 0, 0, creg, target⟩ }
  if mayAlone s p b then runBundle p b (chargeAhead p b (evenCycle p s)) else s

def execCtlNext (p : PartId) (hold : BitVec 9) (s : State) : Res := .next (ctlAlone p.toNat 0 hold 0 0 s)
def execCtlJmp (p : PartId) (hold : BitVec 9) (target : BitVec 19) (s : State) : Res := .next (ctlAlone p.toNat 1 hold 0 target s)
def execCtlBnz (p : PartId) (hold : BitVec 9) (creg : SReg) (target : BitVec 19) (s : State) : Res :=
  .next (ctlAlone p.toNat 2 hold creg target s)
def execCtlBz (p : PartId) (hold : BitVec 9) (creg : SReg) (target : BitVec 19) (s : State) : Res :=
  .next (ctlAlone p.toNat 3 hold creg target s)
def execCtlLoop (p : PartId) (hold : BitVec 9) (creg : SReg) (target : BitVec 19) (s : State) : Res :=
  .next (ctlAlone p.toNat 4 hold creg target s)
def execCtlCall (p : PartId) (hold : BitVec 9) (target : BitVec 19) (s : State) : Res := .next (ctlAlone p.toNat 5 hold 0 target s)
def execCtlRet (p : PartId) (hold : BitVec 9) (s : State) : Res := .next (ctlAlone p.toNat 6 hold 0 0 s)
def execCtlEnd (p : PartId) (hold : BitVec 9) (s : State) : Res := .next (ctlAlone p.toNat 7 hold 0 0 s)


/-! The SCL slot (R104). -/

def sclAlone (p : Nat) (op : BitVec 6) (d a b : SReg) (imm : BitVec 40) (s : State) : State :=
  slotAlone p { nopBundle with scl := ⟨op, d, a, b, imm⟩ } s

/-- IMM of SLD and SST: line, tile, word (R104). -/
def sldImm (t : TileId) (line : BitVec 17) (word : BitVec 3) : BitVec 40 :=
  BitVec.ofNat 40 (line.toNat + put t.toNat 17 7 + put word.toNat 24 3)

def execSclMovi (p : PartId) (d : SReg) (imm : BitVec 40) (s : State) : Res := .next (sclAlone p.toNat 0x01 d 0 0 imm s)
def execSclAdd (p : PartId) (d a b : SReg) (s : State) : Res := .next (sclAlone p.toNat 0x02 d a b 0 s)
def execSclSub (p : PartId) (d a b : SReg) (s : State) : Res := .next (sclAlone p.toNat 0x03 d a b 0 s)
def execSclAddi (p : PartId) (d a : SReg) (imm : BitVec 40) (s : State) : Res := .next (sclAlone p.toNat 0x04 d a 0 imm s)
def execSclMul (p : PartId) (d a b : SReg) (s : State) : Res := .next (sclAlone p.toNat 0x05 d a b 0 s)
def execSclAnd (p : PartId) (d a b : SReg) (s : State) : Res := .next (sclAlone p.toNat 0x06 d a b 0 s)
def execSclOr (p : PartId) (d a b : SReg) (s : State) : Res := .next (sclAlone p.toNat 0x07 d a b 0 s)
def execSclXor (p : PartId) (d a b : SReg) (s : State) : Res := .next (sclAlone p.toNat 0x08 d a b 0 s)
def execSclShl (p : PartId) (d a b : SReg) (s : State) : Res := .next (sclAlone p.toNat 0x09 d a b 0 s)
def execSclShr (p : PartId) (d a b : SReg) (s : State) : Res := .next (sclAlone p.toNat 0x0A d a b 0 s)
def execSclSra (p : PartId) (d a b : SReg) (s : State) : Res := .next (sclAlone p.toNat 0x0B d a b 0 s)
def execSclCmplt (p : PartId) (d a b : SReg) (s : State) : Res := .next (sclAlone p.toNat 0x0C d a b 0 s)
def execSclCmpltu (p : PartId) (d a b : SReg) (s : State) : Res := .next (sclAlone p.toNat 0x0D d a b 0 s)
def execSclCmpeq (p : PartId) (d a b : SReg) (s : State) : Res := .next (sclAlone p.toNat 0x0E d a b 0 s)
def execSclMin (p : PartId) (d a b : SReg) (s : State) : Res := .next (sclAlone p.toNat 0x0F d a b 0 s)
def execSclMax (p : PartId) (d a b : SReg) (s : State) : Res := .next (sclAlone p.toNat 0x10 d a b 0 s)
def execSclFadd (p : PartId) (d a b : SReg) (s : State) : Res := .next (sclAlone p.toNat 0x11 d a b 0 s)
def execSclFmul (p : PartId) (d a b : SReg) (s : State) : Res := .next (sclAlone p.toNat 0x12 d a b 0 s)
def execSclFfma (p : PartId) (d a b : SReg) (s : State) : Res := .next (sclAlone p.toNat 0x13 d a b 0 s)
def execSclRrd (p : PartId) (d : SReg) (addr : Half) (s : State) : Res :=
  .next (sclAlone p.toNat 0x18 d 0 0 (addr.setWidth 40) s)
def execSclRwr (p : PartId) (a : SReg) (addr : Half) (s : State) : Res :=
  .next (sclAlone p.toNat 0x19 0 a 0 (addr.setWidth 40) s)
def execSclSld (p : PartId) (d : SReg) (t : TileId) (line : BitVec 17) (word : BitVec 3) (s : State) : Res :=
  .next (sclAlone p.toNat 0x1A d 0 0 (sldImm t line word) s)
def execSclSld8 (p : PartId) (d : SReg) (t : TileId) (line : BitVec 17) (s : State) : Res :=
  .next (sclAlone p.toNat 0x1B d 0 0 (sldImm t line 0) s)
def execSclSst (p : PartId) (a : SReg) (t : TileId) (line : BitVec 17) (word : BitVec 3) (s : State) : Res :=
  .next (sclAlone p.toNat 0x1C 0 a 0 (sldImm t line word) s)
def execSclCvuf (p : PartId) (a : SReg) (size : BitVec 2) (s : State) : Res :=
  .next (sclAlone p.toNat 0x1D 0 a 0 (size.setWidth 40) s)

/-! The Check-Value Unit (R407–R410). -/

/-- An RWR of CVU_CTL with INIT or CHECK, which takes its bundle's cycle. -/
def cvuAlone (p : Nat) (alg : Nat) (init check halt : Bool) (s : State) : State :=
  if mayAlone s p { nopBundle with scl := ⟨0x19, 0, 0, 0, 0⟩ } then
    let s := evenCycle p s
    let s := cvuCtl p alg init check halt (s.modSeq p (fun x => { x with quietAt := x.cyc + 16 }))
    advance p (now s p + 1) s
  else s

/-- The oldest queued feed enters the running value (R408). -/
def execCvuFeedProcess (p : PartId) (s : State) : Res := .next (s.modPart p.toNat (fun q => { q with cvu := q.cvu.step }))
def execCvuInit (p : PartId) (alg : BitVec 2) (halt : Bool) (s : State) : Res :=
  .next (cvuAlone p.toNat alg.toNat true false halt s)
def execCvuCheck (p : PartId) (alg : BitVec 2) (halt init : Bool) (s : State) : Res :=
  .next (cvuAlone p.toNat alg.toNat init true halt s)

/-! The ARR slots (R47–R52). -/

/-- A bundle whose one ARR slot is that of array a. -/
def arrAlone (p a : Nat) (sl : ArrSlot) (hold : BitVec 9) (s : State) : State :=
  slotAlone p { holding hold with arr := nopBundle.arr.set a sl } s

def execArrMac (p : PartId) (a : ArrId) (sl : ArrSlot) (hold : BitVec 9) (s : State) : Res :=
  .next (arrAlone p.toNat a.toNat { sl with op := 1 } hold s)
def execArrLoad (p : PartId) (a : ArrId) (sl : ArrSlot) (s : State) : Res :=
  .next (arrAlone p.toNat a.toNat { sl with op := 2 } 1 s)
def execArrMacload (p : PartId) (a : ArrId) (sl : ArrSlot) (hold : BitVec 9) (s : State) : Res :=
  .next (arrAlone p.toNat a.toNat { sl with op := 3 } hold s)
def execArrAclr (p : PartId) (a : ArrId) (sl : ArrSlot) (hold : BitVec 9) (s : State) : Res :=
  .next (arrAlone p.toNat a.toNat { sl with op := 4 } hold s)
def execArrAccStore (p : PartId) (a : ArrId) (sl : ArrSlot) (hold : BitVec 9) (s : State) : Res :=
  .next (arrAlone p.toNat a.toNat { sl with op := 5 } hold s)
def execArrAccLoad (p : PartId) (a : ArrId) (sl : ArrSlot) (hold : BitVec 9) (s : State) : Res :=
  .next (arrAlone p.toNat a.toNat { sl with op := 6 } hold s)
def execArrFclr (p : PartId) (a : ArrId) (s : State) : Res :=
  .next (arrAlone p.toNat a.toNat { nth (decodeArr 0) nopBundle.arr 0 with op := 7 } 1 s)
/-- FLIP of the arrays of a mask, in one bundle (R38). -/
def execArrFlip (p : PartId) (mask : BitVec 4) (s : State) : Res :=
  .next (slotAlone p.toNat { holding 1 with arr := nopBundle.arr.zipIdx.map (fun e => { e.1 with flip := mask.getLsbD e.2 }) } s)

/-- The stream's clock reaches a cycle that something is waited for, and a held bundle issues if it can. -/
def reachCycle (p c : Nat) (s : State) : State := releaseHeld p (advance p c s)

/-- ARR_LOAD_DEFERRED_START (R36): the waiting LOAD starts. -/
def execArrLoadDeferredStart (p : PartId) (a : ArrId) (s : State) : Res :=
  .next (match (mget loader0 (s.seq p.toNat).loaders a.toNat).waiting with
    | some w => reachCycle p.toNat w.start s
    | none => s)
/-- SHADOW_PLANE_READY (R39, R40): the ready cycle of the LOAD that runs or waits. -/
def execShadowPlaneReady (p : PartId) (a : ArrId) (s : State) : Res :=
  .next (if planeReady (s.seq p.toNat) a.toNat = 0 then s else reachCycle p.toNat (planeReady (s.seq p.toNat) a.toNat) s)
/-- FLIP_HELD_RELEASE (R40, R204). -/
def execFlipHeldRelease (p : PartId) (s : State) : Res :=
  .next (match (s.seq p.toNat).heldFlip, flipFrom (s.part p.toNat) (flipsOf (arrsOf (bundleAt s p.toNat))) with
    | some _, some c => reachCycle p.toNat c s
    | _, _ => s)

/-! The VEC slot (R66). -/

def vecAlone (p : Nat) (sl : VecSlot) (hold : BitVec 9) (s : State) : State := slotAlone p { holding hold with vec := sl } s

def execVecRun (p : PartId) (sl : VecSlot) (hold : BitVec 9) (s : State) : Res :=
  .next (vecAlone p.toNat { sl with op := 1 } hold s)
def execVecTclr (p : PartId) (tsl : BitVec 3) (s : State) : Res :=
  .next (vecAlone p.toNat { nopBundle.vec with op := 2, tsl := tsl } 1 s)
def execVecTdrain (p : PartId) (sl : VecSlot) (s : State) : Res := .next (vecAlone p.toNat { sl with op := 3 } 1 s)
def execVecVload (p : PartId) (sl : VecSlot) (hold : BitVec 9) (s : State) : Res :=
  .next (vecAlone p.toNat { sl with op := 4 } hold s)
def execVecMload (p : PartId) (sl : VecSlot) (s : State) : Res := .next (vecAlone p.toNat { sl with op := 5 } 1 s)

/-! The UPD slot (R147). -/

def updAlone (p : Nat) (sl : UpdSlot) (hold : BitVec 9) (s : State) : State := slotAlone p { holding hold with upd := sl } s

/-- A SWAP and the step boundary at the end of its bundle (R161, R441). -/
def swapAlone (p : Nat) (k : BitVec 3) (stepEnd : Bool) (s : State) : State :=
  let held := (s.seq p).gates ≠ []
  let sl : UpdSlot := { nopBundle.upd with op := 3, gd := k.setWidth 4 ||| (if stepEnd then 8 else 0) }
  if mayAlone s p { holding 1 with upd := sl } then swapEnd p k stepEnd held (updAlone p sl 1 s) else s

def execUpdStep (p : PartId) (sl : UpdSlot) (hold : BitVec 9) (s : State) : Res :=
  .next (updAlone p.toNat { sl with op := 1 } hold s)
def execUpdCopy (p : PartId) (sl : UpdSlot) (hold : BitVec 9) (s : State) : Res :=
  .next (updAlone p.toNat { sl with op := 2 } hold s)
def execUpdSwap (p : PartId) (k : BitVec 3) (stepEnd : Bool) (s : State) : Res := .next (swapAlone p.toNat k stepEnd s)
def execUpdFclr (p : PartId) (s : State) : Res := .next (updAlone p.toNat { nopBundle.upd with op := 4 } 1 s)

/-! The MOV slots and the MEM slot (R107–R117). -/

def execMovRun (p : PartId) (m : BitVec 1) (sl : MovSlot) (hold : BitVec 9) (s : State) : Res :=
  .next (slotAlone p.toNat { holding hold with mov := nopBundle.mov.set m.toNat { sl with op := 1 } } s)
def execMoverLineArrival (p : PartId) (n : Nat) (s : State) : Res := .next (moverArrive p.toNat n s)

def memAlone (p : Nat) (sl : MemSlot) (s : State) : State := slotAlone p { nopBundle with mem := sl } s

def execMemRead (p : PartId) (sl : MemSlot) (s : State) : Res := .next (memAlone p.toNat { sl with op := 1 } s)
def execMemWrite (p : PartId) (sl : MemSlot) (s : State) : Res := .next (memAlone p.toNat { sl with op := 2 } s)
def execMemCrumb (p : PartId) (sl : MemSlot) (s : State) : Res := .next (memAlone p.toNat { sl with op := 3 } s)
def execMemReadx (p : PartId) (sl : MemSlot) (s : State) : Res := .next (memAlone p.toNat { sl with op := 4 } s)

/-! The XCH slot (R118, R291). -/

def xchAlone (p : Nat) (sl : XchSlot) (s : State) : State := slotAlone p { nopBundle with xch := sl } s

def execXchSend (p : PartId) (sl : XchSlot) (s : State) : Res := .next (xchAlone p.toNat { sl with op := 1 } s)
def execXchOpen (p : PartId) (sl : XchSlot) (s : State) : Res := .next (xchAlone p.toNat { sl with op := 2 } s)
def execXchContrib (p : PartId) (sl : XchSlot) (s : State) : Res := .next (xchAlone p.toNat { sl with op := 3 } s)

/-! What comes later of MEM operations. -/

def execCrumbIndexIssue (p : PartId) (t : TileId) (s : State) : Res := .next (crumbIssue p.toNat t.toNat s)

/-- May a line land: lines of a Crumb request land in each tile in index order (R116). -/
def mayLand (q : Seq) (l : LineReq) : Bool :=
  l.arrived.isSome && l.write.isNone &&
    (!l.crumb || (q.lines.find? (fun x => x.crumb && x.req == l.req && x.dests.map (·.1) == l.dests.map (·.1))) == some l)

/-- The n-th line that has been read, or that a hole delivers, and that may land reaches its tiles. -/
def memLineArrive (p n : Nat) (s : State) : State :=
  match nthLine (s.seq p) (mayLand (s.seq p)) n with
  | some l => match l.arrived with
    | some r => lineArrive p l r.1 r.2 s
    | none => s
  | none => s

def execMemLineArrival (p : PartId) (n : Nat) (s : State) : Res := .next (memLineArrive p.toNat n s)
def execMemWriteAccept (p : PartId) (n : Nat) (s : State) : Res := .next (writeAccept p.toNat n s)

end Sys2Proof.Machine
end

