-- ==== Sys2Proof/Machine/Dispatch.lean ====
section
/-!
DEFINITION. One arm for each command: the meaning it has, by its full name.
-/

namespace Sys2Proof.Machine

def exec (i : Instr) (s : State) : Host.Outcome State Fault Refusal :=
  match i with
  | .bundleIssue p => Sys2Proof.Machine.execBundleIssue p s
  | .gateEventArrival p => Sys2Proof.Machine.execGateEventArrival p s
  | .undoComplete p => Sys2Proof.Machine.execUndoComplete p s
  | .commitQueueRelease p => Sys2Proof.Machine.execCommitQueueRelease p s
  | .ctlNext p hold => Sys2Proof.Machine.execCtlNext p hold s
  | .ctlJmp p hold target => Sys2Proof.Machine.execCtlJmp p hold target s
  | .ctlBnz p hold creg target => Sys2Proof.Machine.execCtlBnz p hold creg target s
  | .ctlBz p hold creg target => Sys2Proof.Machine.execCtlBz p hold creg target s
  | .ctlLoop p hold creg target => Sys2Proof.Machine.execCtlLoop p hold creg target s
  | .ctlCall p hold target => Sys2Proof.Machine.execCtlCall p hold target s
  | .ctlRet p hold => Sys2Proof.Machine.execCtlRet p hold s
  | .ctlEnd p hold => Sys2Proof.Machine.execCtlEnd p hold s
  | .sclMovi p d imm => Sys2Proof.Machine.execSclMovi p d imm s
  | .sclAdd p d a b => Sys2Proof.Machine.execSclAdd p d a b s
  | .sclSub p d a b => Sys2Proof.Machine.execSclSub p d a b s
  | .sclAddi p d a imm => Sys2Proof.Machine.execSclAddi p d a imm s
  | .sclMul p d a b => Sys2Proof.Machine.execSclMul p d a b s
  | .sclAnd p d a b => Sys2Proof.Machine.execSclAnd p d a b s
  | .sclOr p d a b => Sys2Proof.Machine.execSclOr p d a b s
  | .sclXor p d a b => Sys2Proof.Machine.execSclXor p d a b s
  | .sclShl p d a b => Sys2Proof.Machine.execSclShl p d a b s
  | .sclShr p d a b => Sys2Proof.Machine.execSclShr p d a b s
  | .sclSra p d a b => Sys2Proof.Machine.execSclSra p d a b s
  | .sclCmplt p d a b => Sys2Proof.Machine.execSclCmplt p d a b s
  | .sclCmpltu p d a b => Sys2Proof.Machine.execSclCmpltu p d a b s
  | .sclCmpeq p d a b => Sys2Proof.Machine.execSclCmpeq p d a b s
  | .sclMin p d a b => Sys2Proof.Machine.execSclMin p d a b s
  | .sclMax p d a b => Sys2Proof.Machine.execSclMax p d a b s
  | .sclFadd p d a b => Sys2Proof.Machine.execSclFadd p d a b s
  | .sclFmul p d a b => Sys2Proof.Machine.execSclFmul p d a b s
  | .sclFfma p d a b => Sys2Proof.Machine.execSclFfma p d a b s
  | .sclRrd p d addr => Sys2Proof.Machine.execSclRrd p d addr s
  | .sclRwr p a addr => Sys2Proof.Machine.execSclRwr p a addr s
  | .sclSld p d t line word => Sys2Proof.Machine.execSclSld p d t line word s
  | .sclSld8 p d t line => Sys2Proof.Machine.execSclSld8 p d t line s
  | .sclSst p a t line word => Sys2Proof.Machine.execSclSst p a t line word s
  | .sclCvuf p a size => Sys2Proof.Machine.execSclCvuf p a size s
  | .cvuFeedProcess p => Sys2Proof.Machine.execCvuFeedProcess p s
  | .cvuInit p alg halt => Sys2Proof.Machine.execCvuInit p alg halt s
  | .cvuCheck p alg halt init => Sys2Proof.Machine.execCvuCheck p alg halt init s
  | .contextSwitchToB p => Sys2Proof.Machine.execContextSwitchToB p s
  | .preemptionOfB p => Sys2Proof.Machine.execPreemptionOfB p s
  | .arrMac p a sl hold => Sys2Proof.Machine.execArrMac p a sl hold s
  | .arrLoad p a sl => Sys2Proof.Machine.execArrLoad p a sl s
  | .arrMacload p a sl hold => Sys2Proof.Machine.execArrMacload p a sl hold s
  | .arrAclr p a sl hold => Sys2Proof.Machine.execArrAclr p a sl hold s
  | .arrAccStore p a sl hold => Sys2Proof.Machine.execArrAccStore p a sl hold s
  | .arrAccLoad p a sl hold => Sys2Proof.Machine.execArrAccLoad p a sl hold s
  | .arrFclr p a => Sys2Proof.Machine.execArrFclr p a s
  | .arrFlip p mask => Sys2Proof.Machine.execArrFlip p mask s
  | .arrLoadDeferredStart p a => Sys2Proof.Machine.execArrLoadDeferredStart p a s
  | .shadowPlaneReady p a => Sys2Proof.Machine.execShadowPlaneReady p a s
  | .flipHeldRelease p => Sys2Proof.Machine.execFlipHeldRelease p s
  | .vecRun p sl hold => Sys2Proof.Machine.execVecRun p sl hold s
  | .vecTclr p tsl => Sys2Proof.Machine.execVecTclr p tsl s
  | .vecTdrain p sl => Sys2Proof.Machine.execVecTdrain p sl s
  | .vecVload p sl hold => Sys2Proof.Machine.execVecVload p sl hold s
  | .vecMload p sl => Sys2Proof.Machine.execVecMload p sl s
  | .updStep p sl hold => Sys2Proof.Machine.execUpdStep p sl hold s
  | .updCopy p sl hold => Sys2Proof.Machine.execUpdCopy p sl hold s
  | .updSwap p k stepEnd => Sys2Proof.Machine.execUpdSwap p k stepEnd s
  | .updFclr p => Sys2Proof.Machine.execUpdFclr p s
  | .movRun p m sl hold => Sys2Proof.Machine.execMovRun p m sl hold s
  | .moverLineArrival p n => Sys2Proof.Machine.execMoverLineArrival p n s
  | .memRead p sl => Sys2Proof.Machine.execMemRead p sl s
  | .memWrite p sl => Sys2Proof.Machine.execMemWrite p sl s
  | .memCrumb p sl => Sys2Proof.Machine.execMemCrumb p sl s
  | .memReadx p sl => Sys2Proof.Machine.execMemReadx p sl s
  | .crumbIndexIssue p t => Sys2Proof.Machine.execCrumbIndexIssue p t s
  | .memLineArrival p n => Sys2Proof.Machine.execMemLineArrival p n s
  | .memWriteAccept p n => Sys2Proof.Machine.execMemWriteAccept p n s
  | .xchSend p sl => Sys2Proof.Machine.execXchSend p sl s
  | .xchOpen p sl => Sys2Proof.Machine.execXchOpen p sl s
  | .xchContrib p sl => Sys2Proof.Machine.execXchContrib p sl s
  | .checkpointCaptureEnd p => Sys2Proof.Machine.execCheckpointCaptureEnd p s
  | .checkpointUnitDrain p => Sys2Proof.Machine.execCheckpointUnitDrain p s
  | .checkpointHeldLineRead p => Sys2Proof.Machine.execCheckpointHeldLineRead p s
  | .fillingStage p h b => Sys2Proof.Machine.execFillingStage p h b s
  | .fillingEvict p h fidx => Sys2Proof.Machine.execFillingEvict p h fidx s
  | .fillingEvictForce p h fidx => Sys2Proof.Machine.execFillingEvictForce p h fidx s
  | .stagingBegin fidx => Sys2Proof.Machine.execStagingBegin fidx s
  | .stagingPoisonLine fidx => Sys2Proof.Machine.execStagingPoisonLine fidx s
  | .stagingEnd fidx => Sys2Proof.Machine.execStagingEnd fidx s
  | .staleWalk => Sys2Proof.Machine.execStaleWalk s
  | .staleWalkEnd => Sys2Proof.Machine.execStaleWalkEnd s
  | .orderTableWritten p => Sys2Proof.Machine.execOrderTableWritten p s
  | .unitCopyStart p => Sys2Proof.Machine.execUnitCopyStart p s
  | .unitCopyEnd p => Sys2Proof.Machine.execUnitCopyEnd p s
  | .stagingBufferRelease p => Sys2Proof.Machine.execStagingBufferRelease p s
  | .crustAbsent v => Sys2Proof.Machine.execCrustAbsent v s
  | .lineSlotGrant c pc errs => Sys2Proof.Machine.execLineSlotGrant c pc errs s
  | .writeBatchForm c pc => Sys2Proof.Machine.execWriteBatchForm c pc s
  | .refresh c pc => Sys2Proof.Machine.execRefresh c pc s
  | .crumbLineAccess st errs => Sys2Proof.Machine.execCrumbLineAccess st errs s
  | .writeBack st => Sys2Proof.Machine.execWriteBack st s
  | .rowRepairCopy st => Sys2Proof.Machine.execRowRepairCopy st s
  | .rowRepairCopyEnd st => Sys2Proof.Machine.execRowRepairCopyEnd st s
  | .patrolScrubRead errs => Sys2Proof.Machine.execPatrolScrubRead errs s
  | .stackTempReadout st celsius => Sys2Proof.Machine.execStackTempReadout st celsius s
  | .thermalLevelApply st => Sys2Proof.Machine.execThermalLevelApply st s
  | .periodicRetrain c => Sys2Proof.Machine.execPeriodicRetrain c s
  | .laneRepair c pc => Sys2Proof.Machine.execLaneRepair c pc s
  | .retrainHoldEnd c ok hclk => Sys2Proof.Machine.execRetrainHoldEnd c ok hclk s
  | .keyLoadInEffect k => Sys2Proof.Machine.execKeyLoadInEffect k s
  | .epochFlip k => Sys2Proof.Machine.execEpochFlip k s
  | .sweepLine k errs => Sys2Proof.Machine.execSweepLine k errs s
  | .keyRotateDeferredStart k => Sys2Proof.Machine.execKeyRotateDeferredStart k s
  | .credit q w => Sys2Proof.Machine.execCredit q w s
  | .creditReturn q vc => Sys2Proof.Machine.execCreditReturn q vc s
  | .bready q w => Sys2Proof.Machine.execBready q w s
  | .breadyRepeat p slot => Sys2Proof.Machine.execBreadyRepeat p slot s
  | .halt q w => Sys2Proof.Machine.execHalt q w s
  | .hello q w => Sys2Proof.Machine.execHello q w s
  | .echo q w => Sys2Proof.Machine.execEcho q w s
  | .echoReply q w => Sys2Proof.Machine.execEchoReply q w s
  | .vcreset q w => Sys2Proof.Machine.execVcreset q w s
  | .waketol q w => Sys2Proof.Machine.execWaketol q w s
  | .lpi q w => Sys2Proof.Machine.execLpi q w s
  | .rxSend q f => Sys2Proof.Machine.execRxSend q f s
  | .rxOpen q f => Sys2Proof.Machine.execRxOpen q f s
  | .rxContrib q f => Sys2Proof.Machine.execRxContrib q f s
  | .rxGather q f => Sys2Proof.Machine.execRxGather q f s
  | .rxTrailer q f => Sys2Proof.Machine.execRxTrailer q f s
  | .stragglerWindowClose p slot => Sys2Proof.Machine.execStragglerWindowClose p slot s
  | .ledgerCopyDone p slot => Sys2Proof.Machine.execLedgerCopyDone p slot s
  | .swr q stream unit data => Sys2Proof.Machine.execSwr q stream unit data s
  | .srd q stream unit count => Sys2Proof.Machine.execSrd q stream unit count s
  | .srsp q f => Sys2Proof.Machine.execSrsp q f s
  | .linkBringUp q => Sys2Proof.Machine.execLinkBringUp q s
  | .portDown q => Sys2Proof.Machine.execPortDown q s
  | .grantGran env p mask slabs => Sys2Proof.Machine.execGrantGran env p mask slabs s
  | .reclaimGran env p mask slabs => Sys2Proof.Machine.execReclaimGran env p mask slabs s
  | .moveGran env p q mask slabs => Sys2Proof.Machine.execMoveGran env p q mask slabs s
  | .grantSlab env p slab pslot => Sys2Proof.Machine.execGrantSlab env p slab pslot s
  | .reclaimSlab env p slab => Sys2Proof.Machine.execReclaimSlab env p slab s
  | .moveSlab env p q slab pslot => Sys2Proof.Machine.execMoveSlab env p q slab pslot s
  | .grantShared env p v => Sys2Proof.Machine.execGrantShared env p v s
  | .revokeShared env p v => Sys2Proof.Machine.execRevokeShared env p v s
  | .setShare env p weight => Sys2Proof.Machine.execSetShare env p weight s
  | .dissolve env p => Sys2Proof.Machine.execDissolve env p s
  | .ownershipActionEffect p => Sys2Proof.Machine.execOwnershipActionEffect p s
  | .resizeQuiesceEnd p => Sys2Proof.Machine.execResizeQuiesceEnd p s
  | .resizeResume p => Sys2Proof.Machine.execResizeResume p s
  | .glazeOverwriteLine slab => Sys2Proof.Machine.execGlazeOverwriteLine slab s
  | .slabGlazeEnd slab => Sys2Proof.Machine.execSlabGlazeEnd slab s
  | .granuleClearEnd g => Sys2Proof.Machine.execGranuleClearEnd g s
  | .partReset p h => Sys2Proof.Machine.execPartReset p h s
  | .resetComplete p => Sys2Proof.Machine.execResetComplete p s
  | .evtClampClr p => Sys2Proof.Machine.execEvtClampClr p s
  | .wwr off data => Sys2Proof.Machine.execWwr off data s
  | .wrd off len tag => Sys2Proof.Machine.execWrd off len tag s
  | .mcpl tag data => Sys2Proof.Machine.execMcpl tag data s
  | .merr tag => Sys2Proof.Machine.execMerr tag s
  | .crd posted nonposted => Sys2Proof.Machine.execCrd posted nonposted s
  | .registerWrite off value => Sys2Proof.Machine.execRegisterWrite off value s
  | .hostLinkDown => Sys2Proof.Machine.execHostLinkDown s
  | .hostLinkUp mods posted nonposted => Sys2Proof.Machine.execHostLinkUp mods posted nonposted s
  | .ucieModuleFail m => Sys2Proof.Machine.execUcieModuleFail m s
  | .sqTailDoorbell p q tail => Sys2Proof.Machine.execSqTailDoorbell p q tail s
  | .cqHeadDoorbell p q head => Sys2Proof.Machine.execCqHeadDoorbell p q head s
  | .queueEnable p q => Sys2Proof.Machine.execQueueEnable p q s
  | .queueDisable p q => Sys2Proof.Machine.execQueueDisable p q s
  | .sqEntryFetch p q => Sys2Proof.Machine.execSqEntryFetch p q s
  | .programRun p h b => Sys2Proof.Machine.execProgramRun p h b s
  | .programStart p ctxB => Sys2Proof.Machine.execProgramStart p ctxB s
  | .tokenStep p h b => Sys2Proof.Machine.execTokenStep p h b s
  | .tokenStepPreparation p q => Sys2Proof.Machine.execTokenStepPreparation p q s
  | .completionStore p slot => Sys2Proof.Machine.execCompletionStore p slot s
  | .dataMove p h b => Sys2Proof.Machine.execDataMove p h b s
  | .dataMoveEnd p => Sys2Proof.Machine.execDataMoveEnd p s
  | .checkpointNow p h => Sys2Proof.Machine.execCheckpointNow p h s
  | .keyRotate p h => Sys2Proof.Machine.execKeyRotate p h s
  | .attest p h haddr maxlen nonce => Sys2Proof.Machine.execAttest p h haddr maxlen nonce s
  | .recipeWritten => Sys2Proof.Machine.execRecipeWritten s
  | .siuFeedData p h f => Sys2Proof.Machine.execSiuFeedData p h f s
  | .siuFeedEpoch p h seed k => Sys2Proof.Machine.execSiuFeedEpoch p h seed k s
  | .siuFeedDict p h f dslot dictId => Sys2Proof.Machine.execSiuFeedDict p h f dslot dictId s
  | .siuFeedEnd p h => Sys2Proof.Machine.execSiuFeedEnd p h s
  | .siuFeedResume p h f foff skip => Sys2Proof.Machine.execSiuFeedResume p h f foff skip s
  | .siuFrameDecode p => Sys2Proof.Machine.execSiuFrameDecode p s
  | .siuRecordEmit p => Sys2Proof.Machine.execSiuRecordEmit p s
  | .siuConsumerReread p => Sys2Proof.Machine.execSiuConsumerReread p s
  | .ready => Sys2Proof.Machine.execReady s
  | .tlsConnectionAccept => Sys2Proof.Machine.execTlsConnectionAccept s
  | .readReg counter off count => Sys2Proof.Machine.execReadReg counter off count s
  | .resetPart env p => Sys2Proof.Machine.execResetPart env p s
  | .crustLoad env v hostSrc port stream addr => Sys2Proof.Machine.execCrustLoad env v hostSrc port stream addr s
  | .crustLoadImageEnd v => Sys2Proof.Machine.execCrustLoadImageEnd v s
  | .crustRetire env v => Sys2Proof.Machine.execCrustRetire env v s
  | .sharedRotate env k => Sys2Proof.Machine.execSharedRotate env k s
  | .attestDev env nonce => Sys2Proof.Machine.execAttestDev env nonce s
  | .flashWrite env copyB erase off data otherSigs => Sys2Proof.Machine.execFlashWrite env copyB erase off data otherSigs s
  | .commit env => Sys2Proof.Machine.execCommit env s
  | .moduleReset env => Sys2Proof.Machine.execModuleReset env s
  | .enroll env slot revoke hash cert certSig => Sys2Proof.Machine.execEnroll env slot revoke hash cert certSig s
  | .aonTrim => Sys2Proof.Machine.execAonTrim s
  | .refclkLoss => Sys2Proof.Machine.execRefclkLoss s
  | .wakeEvent => Sys2Proof.Machine.execWakeEvent s
  | .permittedStateRecompute => Sys2Proof.Machine.execPermittedStateRecompute s
  | .powerStateEntryBegin => Sys2Proof.Machine.execPowerStateEntryBegin s
  | .powerStateEntryEnd => Sys2Proof.Machine.execPowerStateEntryEnd s
  | .powerStateExitEnd => Sys2Proof.Machine.execPowerStateExitEnd s
  | .pwrWakeWrite p value => Sys2Proof.Machine.execPwrWakeWrite p value s
  | .waketolRepeat => Sys2Proof.Machine.execWaketolRepeat s
  | .linkWake q => Sys2Proof.Machine.execLinkWake q s
  | .ucieL1ExitRequest => Sys2Proof.Machine.execUcieL1ExitRequest s
  | .limiterSample avg100us => Sys2Proof.Machine.execLimiterSample avg100us s
  | .dieTempRead temps => Sys2Proof.Machine.execDieTempRead temps s
  | .hostSiteSwitchOff => Sys2Proof.Machine.execHostSiteSwitchOff s
  | .telemetryRefresh m => Sys2Proof.Machine.execTelemetryRefresh m s
  | .lidTempRead celsius => Sys2Proof.Machine.execLidTempRead celsius s
  | .eventLogIntake => Sys2Proof.Machine.execEventLogIntake s
  | .evtRdAdvance rd => Sys2Proof.Machine.execEvtRdAdvance rd s
  | .evtCtlFrclr => Sys2Proof.Machine.execEvtCtlFrclr s
  | .heartbeatSend => Sys2Proof.Machine.execHeartbeatSend s
  | .heartbeat f => Sys2Proof.Machine.execHeartbeat f s
  | .heartbeatLoss => Sys2Proof.Machine.execHeartbeatLoss s
  | .attach f => Sys2Proof.Machine.execAttach f s
  | .attachWaitExpiry => Sys2Proof.Machine.execAttachWaitExpiry s
  | .heldSenseTimeout => Sys2Proof.Machine.execHeldSenseTimeout s
  | .handover f => Sys2Proof.Machine.execHandover f s
  | .fail f => Sys2Proof.Machine.execFail f s
  | .syncdone f => Sys2Proof.Machine.execSyncdone f s
  | .fdesc f => Sys2Proof.Machine.execFdesc f s
  | .fimg f => Sys2Proof.Machine.execFimg f s
  | .twinCtx f => Sys2Proof.Machine.execTwinCtx f s
  | .prog f => Sys2Proof.Machine.execProg f s
  | .preset f => Sys2Proof.Machine.execPreset f s
  | .ckpt f => Sys2Proof.Machine.execCkpt f s
  | .detachDrainTimeout => Sys2Proof.Machine.execDetachDrainTimeout s
  | .menAssert => Sys2Proof.Machine.execMenAssert s
  | .menDeassert => Sys2Proof.Machine.execMenDeassert s
  | .vinUndervoltage => Sys2Proof.Machine.execVinUndervoltage s
  | .vinOvervoltage => Sys2Proof.Machine.execVinOvervoltage s
  | .mrstNAssert => Sys2Proof.Machine.execMrstNAssert s
  | .mrstNRelease slotId v => Sys2Proof.Machine.execMrstNRelease slotId v s
  | .pwrModCauseClear mask => Sys2Proof.Machine.execPwrModCauseClear mask s
  | .status => Sys2Proof.Machine.execStatus s
  | .recBegin len => Sys2Proof.Machine.execRecBegin len s
  | .recData off data hdrOk => Sys2Proof.Machine.execRecData off data hdrOk s
  | .recEnd => Sys2Proof.Machine.execRecEnd s
  | .setdasa addr => Sys2Proof.Machine.execSetdasa addr s
  | .entdaa addr => Sys2Proof.Machine.execEntdaa addr s
  | .rstdaa => Sys2Proof.Machine.execRstdaa s
  | .getpid => Sys2Proof.Machine.execGetpid s
  | .getbcr => Sys2Proof.Machine.execGetbcr s
  | .getdcr => Sys2Proof.Machine.execGetdcr s
  | .getstatus => Sys2Proof.Machine.execGetstatus s
  | .enec => Sys2Proof.Machine.execEnec s
  | .disec => Sys2Proof.Machine.execDisec s
  | .checkpointIntervalExpiry p => Sys2Proof.Machine.execCheckpointIntervalExpiry p s
  | .controlStoreParityFailure unit => Sys2Proof.Machine.execControlStoreParityFailure unit s
  | .twsInChange asserted => Sys2Proof.Machine.execTwsInChange asserted s
  | .mirrorDrainTimeout p => Sys2Proof.Machine.execMirrorDrainTimeout p s
  | .contextSwitchEnd p => Sys2Proof.Machine.execContextSwitchEnd p s
  | .tcWorkComplete ok => Sys2Proof.Machine.execTcWorkComplete ok s
  | .mpRequest code addr data => Sys2Proof.Machine.execMpRequest code addr data s
  | .limiterTargetSet watts => Sys2Proof.Machine.execLimiterTargetSet watts s

end Sys2Proof.Machine
end

