-- ==== Sys2Proof/Machine/Idle.lean ====
section
/-!
DEFINITION. What happens when no command waits: one AON tick (log entry 42).
-/

namespace Sys2Proof.Machine

/-- ACLK cycles in an AON tick (R412, R414): 32 ticks a microsecond. -/
def cyclesPerTick (s : State) : Nat := s.pwr.aclk / 32

/-- One AON tick: PWR_AON counts, T_obs counts while a context B holds a program (R442), and in Run the streams' clocks go
on, with what then falls due (R98). A module without power has no tick. -/
def tick (s : State) : State :=
  if !s.mdl.pgood then s
  else
    let busy := s.parts.any (fun q => q.ctxB.loaded)
    let s := (s.setAon (s.aon + 1)).modObs (fun o => (o.1 + b2n busy, o.2))
    if inRun s then
      forEach (upTo 32) (fun p s => if (s.part p).pstate = 0 then s else advance p (now s p + cyclesPerTick s) s) s
    else s

end Sys2Proof.Machine
end

