-- ==== Sys2Proof/WellFormed.lean ====
section
/-!
DEFINITION. Which commands name something that exists. The index types of `Syntax.lean` already exclude most that does not;
what is left are ports (R13: P0–P5 and TP), slabs (R216: 768 of them) and lengths that the formats fix. A meaning is
total: on an ill-formed command it acts on nothing.
-/

namespace Sys2Proof

/-- A port: P0–P5 or TP. -/
def portOk (q : PortId) : Bool := decide (q.toNat ≤ 6)

/-- A collective or storage port: P0–P5. -/
def linkOk (q : PortId) : Bool := decide (q.toNat ≤ 5)

/-- A physical slab (R216). -/
def slabOk (n : SlabId) : Bool := decide (n.toNat < 768)

/-- The storage port of a FILLING_STAGE or feed whose source is a storage endpoint. -/
def srcOk (src : BitVec 2) (q : PortId) : Bool := src != 1 || linkOk q

/-- Symbols of a line (R248): 0–71, each named once. -/
def errsOk (es : List SymErr) : Bool := es.all (fun e => decide (e.1 < 72)) && (es.map (·.1)).eraseDups.length == es.length

/-- Is a command well formed. -/
def Instr.wf : Instr → Bool
  | .credit q _ | .creditReturn q _ | .hello q _ | .echo q _ | .echoReply q _ | .linkBringUp q | .portDown q => portOk q
  | .bready q _ | .halt q _ | .vcreset q _ | .waketol q _ | .lpi q _ | .linkWake q => linkOk q
  | .rxSend q _ | .rxOpen q _ | .rxContrib q _ | .rxGather q _ | .rxTrailer q _ | .srsp q _ => linkOk q
  | .swr q _ _ data => linkOk q && data.length == 1024
  | .srd q _ _ count => linkOk q && decide (1 ≤ count.toNat)
  | .grantSlab _ _ n _ | .reclaimSlab _ _ n | .moveSlab _ _ _ n _ | .glazeOverwriteLine n | .slabGlazeEnd n => slabOk n
  | .grantGran _ _ _ slabs | .moveGran _ _ _ _ slabs => slabs.all (fun e => slabOk e.1)
  | .reclaimGran _ _ _ names => names.all slabOk
  | .fillingStage _ _ b => srcOk b.src b.port
  | .siuFeedData _ _ f | .siuFeedDict _ _ f _ _ | .siuFeedResume _ _ f _ _ => srcOk f.src f.port
  | .crustLoad _ _ hostSrc q _ _ => hostSrc || linkOk q
  | .tokenStep _ _ b => b.param.length == 16
  | .attest _ _ _ _ nonce | .attestDev _ nonce => nonce.length == 32
  | .enroll _ _ _ hash cert _ => hash.length == 48 && cert.length == 320
  | .flashWrite _ _ _ _ data _ => decide (data.length ≤ 1048576)
  | .wwr _ data => data.length == 8
  | .mcpl _ data => decide (data.length ≤ 256) && decide (1 ≤ data.length)
  | .lineSlotGrant _ _ errs | .crumbLineAccess _ errs | .patrolScrubRead errs | .sweepLine _ errs => errsOk errs
  | .dieTempRead temps => temps.length == 32
  | .telemetryRefresh m => m.temps.length == 32
  | .recBegin _ => true
  | .recData _ data _ => decide (1 ≤ data.length) && decide (data.length ≤ 256)
  | .heartbeat f | .attach f | .handover f | .fail f | .syncdone f => f.vc == 0
  | .fdesc f | .fimg f | .twinCtx f | .prog f | .preset f => f.vc == 1
  | .ckpt f => f.vc == 2
  | _ => true

end Sys2Proof
end

