-- ==== Sys2Proof/Safety.lean ====
section
/-!
DEFINITION. What counts as a safe run, in the words the statements use: the module keeps its shape (R13), its one-time
fuses only ever change by COMMIT and ENROLL (R379, R391), its always-on clock never goes back (R412), and no command stops
the machine.
-/

namespace Sys2Proof.Machine

/-- How many partitions, tiles and granules with an instruction memory the state holds. -/
def State.lens (s : State) : Nat × Nat × Nat := (s.parts.length, s.tiles.length, s.imem.length)

/-- The module has 32 partitions, 128 tiles and 32 granules (R13). -/
def State.Shaped (s : State) : Prop := s.lens = (32, 128, 32)

/-- The one-time-programmable fields (R379): operator slots with their revoke fuses, KEYREVOKE, FWFLOOR and CFGFLOOR, which a command
can change; ROOTHASH, UNIQUE and SERIAL, which none can. -/
structure Fuses where
  roothash : List Byte
  unique : List Byte
  ophash : Map (List Byte)
  oprevoke : BitVec 4
  keyrevoke : Word
  fwfloor : Nat
  cfgfloor : Nat
  serial : BitVec 128
  deriving DecidableEq, Repr

def State.fuses (s : State) : Fuses :=
  ⟨s.tc.roothash, s.tc.unique, s.tc.ophash, s.tc.oprevoke, s.tc.keyrevoke, s.tc.fwfloor, s.tc.cfgfloor, s.tc.serial⟩

/-- The parts of the state that a command may change: one mark for each field, `fuses` for the one-time-programmable fields
apart from the rest of the Trusted Controller. No command changes the queue of waiting commands. -/
structure Foot where
  free : Bool := false
  aon : Bool := false
  parts : Bool := false
  tiles : Bool := false
  imem : Bool := false
  log : Bool := false
  hbm : Bool := false
  repairs : Bool := false
  glazeSlabs : Bool := false
  glazeGrans : Bool := false
  glazeKey : Bool := false
  acts : Bool := false
  fills : Bool := false
  host : Bool := false
  pcl : Bool := false
  tc : Bool := false
  fuses : Bool := false
  pwr : Bool := false
  twin : Bool := false
  mdl : Bool := false
  evPage : Bool := false
  fleet : Bool := false
  obs : Bool := false
  out : Bool := false
  deriving DecidableEq, Repr

/-- A value, or a blank where it may change. -/
def blankIf {α : Type} (b : Bool) (blank x : α) : α := if b then blank else x

/-- The Trusted Controller with everything blank but its fuses. -/
def Tc.onlyFuses (t : Tc) : Tc :=
  { tc0 with roothash := t.roothash, unique := t.unique, ophash := t.ophash, oprevoke := t.oprevoke, keyrevoke := t.keyrevoke
             fwfloor := t.fwfloor, cfgfloor := t.cfgfloor, serial := t.serial }

/-- A state with the parts in a footprint blanked: what is left of it does not depend on them. The numbers of partitions, of
tiles and of instruction memories stay. -/
def State.erase (φ : Foot) (s : State) : State where
  pending := s.pending
  freeCtr := blankIf φ.free 0 s.freeCtr
  aon := blankIf φ.aon 0 s.aon
  parts := blankIf φ.parts (List.replicate s.parts.length part0) s.parts
  tiles := blankIf φ.tiles (List.replicate s.tiles.length tile0) s.tiles
  imem := blankIf φ.imem (List.replicate s.imem.length []) s.imem
  log := blankIf φ.log evLog0 s.log
  hbm := blankIf φ.hbm hbm0 s.hbm
  repairs := blankIf φ.repairs [] s.repairs
  glazeSlabs := blankIf φ.glazeSlabs [] s.glazeSlabs
  glazeGrans := blankIf φ.glazeGrans [] s.glazeGrans
  glazeKey := blankIf φ.glazeKey none s.glazeKey
  acts := blankIf φ.acts [] s.acts
  fills := blankIf φ.fills fills0 s.fills
  host := blankIf φ.host hostLink0 s.host
  pcl := blankIf φ.pcl pcl0 s.pcl
  tc := blankIf φ.tc (blankIf φ.fuses tc0 s.tc.onlyFuses) s.tc
  pwr := blankIf φ.pwr pwr0 s.pwr
  twin := blankIf φ.twin twin0 s.twin
  mdl := blankIf φ.mdl module0 s.mdl
  evPage := blankIf φ.evPage 0 s.evPage
  fleet := blankIf φ.fleet 0 s.fleet
  obs := blankIf φ.obs (0, 0) s.obs
  out := blankIf φ.out [] s.out

/-- What each command may change, at the grain of the fields of the state. -/
def footOf : Instr → Foot
  | .bundleIssue .. | .gateEventArrival .. | .undoComplete .. | .commitQueueRelease .. | .ctlNext .. | .ctlJmp ..
  | .ctlBnz .. | .ctlBz .. | .ctlLoop .. | .ctlCall .. | .ctlRet .. | .ctlEnd .. | .sclMovi .. | .sclAdd .. | .sclSub ..
  | .sclAddi .. | .sclMul .. | .sclAnd .. | .sclOr .. | .sclXor .. | .sclShl .. | .sclShr .. | .sclSra .. | .sclCmplt ..
  | .sclCmpltu .. | .sclCmpeq .. | .sclMin .. | .sclMax .. | .sclFadd .. | .sclFmul .. | .sclFfma .. | .sclRrd ..
  | .sclRwr .. | .sclSld .. | .sclSld8 .. | .sclSst .. | .sclCvuf .. | .arrMac .. | .arrLoad .. | .arrMacload ..
  | .arrAclr .. | .arrAccStore .. | .arrAccLoad .. | .arrFclr .. | .arrFlip .. | .arrLoadDeferredStart ..
  | .shadowPlaneReady .. | .flipHeldRelease .. | .vecRun .. | .vecTclr .. | .vecTdrain .. | .vecVload .. | .vecMload ..
  | .updStep .. | .updCopy .. | .updSwap .. | .updFclr .. | .movRun .. | .memRead .. | .memWrite .. | .memCrumb ..
  | .memReadx .. | .xchSend .. | .xchOpen .. | .xchContrib .. | .rxOpen .. | .rxContrib .. | .rxTrailer ..
  | .stragglerWindowClose .. | .ledgerCopyDone .. =>
    { free := true, parts := true, tiles := true, log := true, hbm := true, repairs := true, fills := true, host := true,
      pcl := true, pwr := true, mdl := true, obs := true, out := true }
  | .cvuFeedProcess .. | .unitCopyStart .. | .stagingBufferRelease .. | .evtClampClr .. | .queueEnable .. | .queueDisable .. =>
    { parts := true }
  | .cvuInit .. | .cvuCheck .. | .contextSwitchToB .. | .preemptionOfB .. | .moverLineArrival .. | .programStart ..
  | .contextSwitchEnd .. =>
    { parts := true, tiles := true, log := true, fills := true, host := true, pcl := true, pwr := true, obs := true,
      out := true }
  | .crumbIndexIssue .. | .memWriteAccept .. => { parts := true, hbm := true }
  | .memLineArrival .. | .orderTableWritten .. => { parts := true, tiles := true }
  | .checkpointCaptureEnd .. => { parts := true, log := true, hbm := true, host := true, out := true }
  | .checkpointUnitDrain .. | .checkpointHeldLineRead .. | .fillingStage .. | .stagingBegin .. | .stagingPoisonLine ..
  | .stagingEnd .. | .lineSlotGrant .. | .crumbLineAccess .. | .rowRepairCopy .. | .patrolScrubRead .. | .retrainHoldEnd ..
  | .sweepLine .. | .dataMoveEnd .. | .siuFeedData .. | .siuFeedEpoch .. | .siuFeedDict .. | .siuFeedEnd ..
  | .siuFeedResume .. | .siuConsumerReread .. =>
    { parts := true, log := true, hbm := true, repairs := true, fills := true, host := true, pcl := true, pwr := true,
      mdl := true, obs := true, out := true }
  | .fillingEvict .. | .fillingEvictForce .. | .tokenStep .. =>
    { parts := true, fills := true, host := true, pcl := true, out := true }
  | .staleWalk .. | .staleWalkEnd .. => { fills := true }
  | .unitCopyEnd .. | .rxSend .. | .rxGather .. =>
    { parts := true, tiles := true, log := true, hbm := true, repairs := true, fills := true, host := true, pcl := true,
      pwr := true, mdl := true, obs := true, out := true }
  | .crustAbsent .. => { hbm := true, glazeSlabs := true, glazeKey := true, fills := true }
  | .writeBatchForm .. | .writeBack .. | .periodicRetrain .. | .laneRepair .. | .epochFlip .. | .keyRotateDeferredStart .. =>
    { hbm := true }
  | .refresh .. | .aonTrim .. => {}
  | .rowRepairCopyEnd .. => { log := true, hbm := true, repairs := true }
  | .stackTempReadout .. =>
    { parts := true, log := true, hbm := true, fills := true, host := true, pcl := true, pwr := true, mdl := true,
      obs := true, out := true }
  | .thermalLevelApply .. => { hbm := true, mdl := true, out := true }
  | .keyLoadInEffect .. => { parts := true, hbm := true, fills := true, host := true, pcl := true, out := true }
  | .credit .. | .portDown .. | .moduleReset .. | .heartbeat .. | .heartbeatLoss .. | .attach .. | .handover .. | .fail ..
  | .syncdone .. | .fdesc .. | .fimg .. | .twinCtx .. | .prog .. | .preset .. | .ckpt .. | .detachDrainTimeout ..
  | .menDeassert .. | .vinUndervoltage .. | .vinOvervoltage .. | .mrstNAssert .. =>
    { free := true, parts := true, tiles := true, imem := true, log := true, hbm := true, repairs := true,
      glazeSlabs := true, glazeGrans := true, glazeKey := true, acts := true, fills := true, host := true, pcl := true,
      tc := true, pwr := true, twin := true, mdl := true, evPage := true, fleet := true, obs := true, out := true }
  | .creditReturn .. | .breadyRepeat .. | .hello .. | .echo .. | .lpi .. | .swr .. | .srd .. | .linkBringUp ..
  | .waketolRepeat .. => { pcl := true, out := true }
  | .bready .. | .vcreset .. | .permittedStateRecompute .. | .powerStateEntryBegin .. | .linkWake .. =>
    { pcl := true, pwr := true, out := true }
  | .halt .. | .completionStore .. =>
    { parts := true, log := true, fills := true, host := true, pcl := true, pwr := true, obs := true, out := true }
  | .echoReply .. | .heartbeatSend .. => { pcl := true, twin := true, out := true }
  | .waketol .. => { pcl := true }
  | .srsp .. | .mcpl .. | .merr .. =>
    { parts := true, tiles := true, imem := true, log := true, hbm := true, repairs := true, glazeSlabs := true,
      glazeKey := true, fills := true, host := true, pcl := true, tc := true, pwr := true, mdl := true, obs := true,
      out := true }
  | .grantGran .. | .reclaimGran .. | .moveGran .. | .grantSlab .. | .reclaimSlab .. | .moveSlab .. | .grantShared ..
  | .revokeShared .. | .setShare .. | .dissolve .. =>
    { parts := true, log := true, hbm := true, glazeSlabs := true, glazeKey := true, acts := true, fills := true,
      host := true, pcl := true, tc := true, pwr := true, out := true }
  | .ownershipActionEffect .. =>
    { parts := true, imem := true, log := true, hbm := true, glazeSlabs := true, glazeGrans := true, glazeKey := true,
      acts := true, fills := true, host := true, pcl := true, out := true }
  | .resizeQuiesceEnd .. =>
    { parts := true, tiles := true, imem := true, log := true, hbm := true, glazeSlabs := true, glazeGrans := true,
      glazeKey := true, fills := true, host := true, pcl := true, pwr := true, obs := true, out := true }
  | .resizeResume .. =>
    { free := true, parts := true, tiles := true, log := true, hbm := true, repairs := true, glazeSlabs := true,
      glazeGrans := true, glazeKey := true, acts := true, fills := true, host := true, pcl := true, pwr := true,
      mdl := true, obs := true, out := true }
  | .glazeOverwriteLine .. => { hbm := true, glazeSlabs := true }
  | .slabGlazeEnd .. =>
    { parts := true, log := true, hbm := true, glazeSlabs := true, glazeKey := true, acts := true, fills := true,
      host := true, pcl := true, out := true }
  | .granuleClearEnd .. | .resetComplete .. =>
    { parts := true, tiles := true, imem := true, log := true, hbm := true, glazeSlabs := true, glazeGrans := true,
      glazeKey := true, acts := true, fills := true, host := true, pcl := true, out := true }
  | .partReset .. => { parts := true, log := true, hbm := true, fills := true, host := true, pcl := true, out := true }
  | .wwr .. | .registerWrite .. =>
    { free := true, parts := true, host := true, pcl := true, pwr := true, mdl := true, evPage := true, fleet := true,
      out := true }
  | .wrd .. => { pwr := true, out := true }
  | .crd .. | .sqEntryFetch .. | .dataMove .. | .checkpointNow .. => { parts := true, host := true, out := true }
  | .hostLinkDown .. | .ucieModuleFail .. => { host := true }
  | .hostLinkUp .. => { free := true, parts := true, host := true, out := true }
  | .sqTailDoorbell .. | .cqHeadDoorbell .. | .ucieL1ExitRequest .. =>
    { parts := true, host := true, pwr := true, out := true }
  | .programRun .. =>
    { parts := true, imem := true, log := true, hbm := true, repairs := true, fills := true, host := true, pcl := true,
      pwr := true, mdl := true, obs := true, out := true }
  | .tokenStepPreparation .. => { parts := true, tiles := true, fills := true, host := true, pcl := true, out := true }
  | .keyRotate .. => { parts := true, hbm := true, host := true, out := true }
  | .attest .. | .recipeWritten .. => { parts := true, host := true, tc := true, out := true }
  | .siuFrameDecode .. | .siuRecordEmit .. =>
    { free := true, parts := true, log := true, hbm := true, repairs := true, fills := true, host := true, pcl := true,
      pwr := true, mdl := true, obs := true, out := true }
  | .ready .. => { parts := true, hbm := true, pcl := true, tc := true, twin := true, fleet := true }
  | .tlsConnectionAccept .. => { tc := true, out := true }
  | .readReg .. | .getpid .. | .getbcr .. | .getdcr .. => { out := true }
  | .resetPart .. =>
    { parts := true, log := true, hbm := true, fills := true, host := true, pcl := true, tc := true, pwr := true,
      out := true }
  | .crustLoad .. => { parts := true, fills := true, host := true, pcl := true, tc := true, pwr := true, out := true }
  | .crustLoadImageEnd .. =>
    { hbm := true, glazeSlabs := true, glazeKey := true, fills := true, host := true, pcl := true, out := true }
  | .crustRetire .. =>
    { hbm := true, glazeSlabs := true, glazeKey := true, fills := true, host := true, pcl := true, tc := true, pwr := true,
      out := true }
  | .sharedRotate .. => { parts := true, hbm := true, tc := true, pwr := true, out := true }
  | .attestDev .. | .flashWrite .. => { tc := true, pwr := true, out := true }
  | .commit .. | .enroll .. => { tc := true, fuses := true, pwr := true, out := true }
  | .refclkLoss .. | .dieTempRead .. | .controlStoreParityFailure .. =>
    { parts := true, log := true, fills := true, host := true, pcl := true, pwr := true, mdl := true, obs := true,
      out := true }
  | .wakeEvent .. | .limiterSample .. | .limiterTargetSet .. => { pwr := true }
  | .powerStateEntryEnd .. => { hbm := true, host := true, pcl := true, pwr := true, out := true }
  | .powerStateExitEnd .. =>
    { parts := true, tiles := true, imem := true, host := true, pcl := true, pwr := true, out := true }
  | .pwrWakeWrite .. => { parts := true, pcl := true, pwr := true, out := true }
  | .hostSiteSwitchOff .. => { log := true, host := true, mdl := true, out := true }
  | .telemetryRefresh .. => { log := true, pwr := true, mdl := true, out := true }
  | .lidTempRead .. | .status .. => { mdl := true, out := true }
  | .eventLogIntake .. => { parts := true, log := true, host := true, mdl := true, out := true }
  | .evtRdAdvance .. | .evtCtlFrclr .. => { log := true }
  | .attachWaitExpiry .. | .heldSenseTimeout .. => { log := true, twin := true }
  | .menAssert .. => { aon := true, mdl := true }
  | .mrstNRelease .. =>
    { parts := true, log := true, hbm := true, repairs := true, fills := true, host := true, pcl := true, tc := true,
      pwr := true, mdl := true, obs := true, out := true }
  | .pwrModCauseClear .. | .recBegin .. | .setdasa .. | .entdaa .. | .rstdaa .. | .enec .. | .disec .. => { mdl := true }
  | .recData .. | .recEnd .. => { tc := true, mdl := true }
  | .getstatus .. => { free := true, out := true }
  | .checkpointIntervalExpiry .. => { parts := true, pwr := true }
  | .twsInChange .. => { twin := true }
  | .mirrorDrainTimeout .. => { parts := true, twin := true }
  | .tcWorkComplete .. =>
    { hbm := true, glazeSlabs := true, glazeKey := true, fills := true, host := true, pcl := true, tc := true, out := true }
  | .mpRequest .. => { log := true, tc := true, out := true }

/-- Partition p is live, its context holds a program, and its stream is at rest: nothing is on its way, no gate is unresolved, no
loader runs, and nothing has been written in the present cycle. -/
def State.rested (s : State) (p : Nat) : Bool :=
  let q := s.part p
  s.lens == (32, 128, 32) && decide (p < 32) && q.live && q.ctx.loaded && q.seq.inflight == [] && q.seq.gates == []
    && q.seq.loaders == [] && q.seq.hot == [] && q.seq.hotLines == [] && q.seq.hotCyc == q.seq.cyc && q.clampLow == none

/-- The stream of partition p is at rest and issues its next bundle now (R98, R125, R129): nothing holds the partition or its
stream, which stands at no gate and waits for no plane and no loader. -/
def State.quiet (s : State) (p : Nat) : Bool :=
  let q := s.part p
  s.rested p && maySequence s p && !s.pwr.stall && q.seq.stall.isNone && q.seq.heldFlip.isNone && q.seq.heldLoad.isNone
    && q.ctx.again.isNone

/-- The stream of partition p has issued a bundle in its present cycle and gone on by n cycles. -/
def State.clocked (p n : Nat) (s : State) : State :=
  s.modPart p (fun q => { q with
    clampLow := none, seq := { q.seq with cyc := q.seq.cyc + n, hotCyc := q.seq.cyc + n, quietAt := q.seq.cyc + 16 } })

/-- n clamps of one source (R343). -/
def clamps (p src n : Nat) (s : State) : State := forEach (upTo n) (fun _ s => clamp p src s) s

/-- A command completes with the effect f on a stream at rest: it answers a next state, which differs from the present one by
f alone once `lat` cycles have gone by, the latency after which its result is visible (R98). -/
def Gives (c : Instr) (p lat : Nat) (s : State) (f : State → State) : Prop :=
  ∃ t, exec c s = .next t ∧ advance p (now s p + lat) t = (f s).clocked p lat

/-- A bundle that carries a CTL slot and nothing else has issued and run through its hold (R100–R103): `n` clamps beside that of
a HOLD out of range, the next bundle, the return stack, and the bubble of a taken branch whose hold is 1. -/
def ctlDone (p : Nat) (hold : BitVec 9) (n pc : Nat) (stack : List Nat) (bubble : Bool) (s : State) : State :=
  let b := (s.seq p).ctxB
  let s := clamps p 4 (n + b2n (holdBad hold)) s
  let s := s.modSeq p (fun q => { q with lastPc := (s.part p).ctx.pc, stall := none, heldFlip := none, heldLoad := none })
  let s := s.modCtx p b (fun c => { c with pc := pc, stack := stack, nissued := c.nissued + 1 })
  s.clocked p (holdOf hold + b2n (bubble && holdOf hold == 1))

/-- A write is on its way to be visible from a cycle, under no gate. -/
def OnWay (p at_ : Nat) (w : Write) (t : State) : Prop := (⟨at_, 0, w⟩ : Landing) ∈ (t.seq p).inflight

/-- The planes of the arrays of a mask have changed places in every tile of a partition, with their records (R38, R131); the
other arrays and the other tiles are as they were. -/
def Flipped (p : Nat) (mask : BitVec 4) (s t : State) : Prop :=
  let recs (m : Map LoadRec) (a : Nat) : Option LoadRec := (m.find? (fun e => e.1 == a)).map (·.2)
  (∀ a, recs (t.part p).ctx.recA a = recs (if mask.getLsbD a then (s.part p).ctx.recS else (s.part p).ctx.recA) a ∧
    recs (t.part p).ctx.recS a = recs (if mask.getLsbD a then (s.part p).ctx.recA else (s.part p).ctx.recS) a) ∧
  (∀ n a, a < 4 →
    if (s.part p).hasTile n && mask.getLsbD a then
      mget plane0 (t.tile n).active a = mget plane0 (s.tile n).shadow a ∧ mget plane0 (t.tile n).shadow a = mget plane0 (s.tile n).active a
    else
      mget plane0 (t.tile n).active a = mget plane0 (s.tile n).active a ∧ mget plane0 (t.tile n).shadow a = mget plane0 (s.tile n).shadow a) ∧
  (∀ n, (t.tile n).scratch = (s.tile n).scratch ∧ (t.tile n).lb = (s.tile n).lb ∧ (t.tile n).acc = (s.tile n).acc ∧
    (t.tile n).vec = (s.tile n).vec)

/-- The entry at a queue's head spells a command and may be started, with none behind it (R354, R358, R364). -/
def EntryReady (p : Nat) (h : EntryHead) (typ : Nat) (is : List Byte → Bool) (s : State) : Prop :=
  entryWaits s p h.q.toNat = false ∧ (s.queue p h.q.toNat).en = true ∧ (s.queue p h.q.toNat).cqs ≤ 16 ∧
    ∃ e, (s.queue p h.q.toNat).fetched = [e] ∧ spells typ h is e.bytes = true ∧ e.ep = (s.queue p h.q.toNat).ep

/-- The entry has been handed to its unit, as the work item w (R325, R358, R364). -/
def workStarted (p : Nat) (h : EntryHead) (typ : Nat) (s : State) : Work :=
  ⟨p, h.q.toNat, h.notify, h.cid, typ, (s.queue p h.q.toNat).ep, (s.part p).gen⟩

/-- A completion with a status has been given for an entry (R346, R359, R360): it is held for the host, or its 32 bytes have now
left for a place of the CQ; where nothing was held before, for the place at CQTAIL, which has moved on by one. -/
def Completes (p : Nat) (h : EntryHead) (typ status : Nat) (s t : State) : Prop :=
  let u := s.queue p h.q.toNat
  (∃ count result, Out.cpl (workStarted p h typ s) status count result ∈ t.host.held) ∨
  ∃ i new bs, t.out = new ++ s.out ∧ Out.mwr p (s.part p).gen (u.cqbase.toNat + 32 * i) bs ∈ new ∧
    bs.length = 32 ∧ bs.take 4 = leBytes 4 h.cid.toNat ∧ nth 0 bs 6 = BitVec.ofNat 8 typ ∧ nth 0 bs 8 = BitVec.ofNat 8 status ∧
    (s.host.held = [] → i = u.cqtail.toNat ∧ nth 0 bs 7 = (if u.phase then 1 else 0) ∧
      (t.queue p h.q.toNat).cqtail.toNat = (i + 1) % 2 ^ u.cqs)

/-- A management command passes its checks (R390, R396, R397): the module takes commands and its mode allows this one; where commands
are signed the serial number is this module's, the signature is good under an anchor with the role, and the counter is new. -/
def MgmtPasses (op role : Nat) (env : Env) (s : State) : Prop :=
  mgmtRuns s = true ∧ mgmtAllows s op = true ∧ (mgmtSigned s = true →
    env.serial = s.tc.serial ∧ env.sigOk = true ∧ anchorOk s env.anchor.toNat role = true ∧ s.tc.cmdctr.toNat < env.counter.toNat)

/-- A management command has been answered with a status (R398). -/
def MgmtAnswered (op status : Nat) (env : Env) (t : State) : Prop :=
  ∃ body sig, Out.mgmt op status env.counter body sig ∈ t.out

/-- A control flit arrives whole (R278, R279, R284): the port's FEC is aligned, the TYPE, and for LINK the LOP, is the one named, and
the FCRC over bytes 0–27 is good. -/
def FlitOk (q typ lop : Nat) (w : Flit) (s : State) : Prop :=
  2 ≤ (s.port q).state.toNat ∧ fld w.toNat 0 4 = typ ∧ (typ = 4 → fld w.toNat 8 4 = lop) ∧
    fld w.toNat 224 32 = closeFrame.crc32cOf (leBytes 28 (w.toNat % 2 ^ 224))

/-- Frames that a VC of a port holds, sent and waiting, oldest first. -/
def vcFrames (s : State) (q v : Nat) : List (Nat × Frame) := ((s.port q).vc v).sent ++ ((s.port q).vc v).queue

/-- A step that the machine survives. -/
def SafeStep (s : State) : Prop := ∃ t, step s = .next t

/-- Fuses never unblow: floors do not fall, revoke bits stay, an enrolled slot keeps its hash, SERIAL, ROOTHASH and UNIQUE do not
change. -/
def Fuses.le (a b : Fuses) : Prop :=
  a.fwfloor ≤ b.fwfloor ∧ a.cfgfloor ≤ b.cfgfloor ∧ a.keyrevoke &&& b.keyrevoke = a.keyrevoke ∧
    a.oprevoke &&& b.oprevoke = a.oprevoke ∧ b.serial = a.serial ∧ b.roothash = a.roothash ∧ b.unique = a.unique ∧
    (∀ n, mget [] a.ophash n ≠ [] → mget [] b.ophash n = mget [] a.ophash n)

end Sys2Proof.Machine
end

