-- ==== Sys2Proof/Certificates/Slice0/Obligations.lean ====
section
/-!
DEFINITION. The statements for the provers. Each docstring names the rule of the spec that its statement follows, or the log
entry whose choice it states.
-/

open Sys2Proof
open Sys2Proof.Machine

/-! The machine: steps, the queue, footprints, invariants, reset. -/

/-- A step takes the command at the front of the queue and carries it out with the queue's rest left waiting. -/
def Obligations.StepRunsFront : Prop :=
  ∀ (c : Instr) (s : State), step { s with pending := c :: s.pending } = exec c s

/-- With no command waiting the step is one AON tick (log entry 42, the model's choice): on a powered module PWR_AON counts
by one (R412), and in no state does the tick touch a tile, the HBM system, the Filling Table or the Trusted Controller of a
module that is not in Run. -/
def Obligations.IdleStepTicks : Prop :=
  ∀ s : State, s.pending = [] → ∃ t, step s = .next t ∧
    t.aon = s.aon + (if s.mdl.pgood then 1 else 0) ∧ t.pending = [] ∧ (s.mdl.pgood = false → t = s) ∧
    (inRun s = false → t.erase { aon := true, obs := true } = s.erase { aon := true, obs := true })

/-- Every command keeps to its footprint: each field of the state that `footOf` does not mark is unchanged. -/
def Obligations.CommandsKeepTheirFootprint : Prop :=
  ∀ (c : Instr) (s t : State), s.Shaped → exec c s = .next t → t.erase (footOf c) = s.erase (footOf c)

/-- The module keeps its 32 partitions, 128 tiles and 32 granules through every step (R13). -/
def Obligations.EveryStepKeepsTheShape : Prop :=
  ∀ s t : State, s.Shaped → step s = .next t → t.Shaped

/-- No step unblows a fuse (R379): floors do not fall, a revoked slot or Filling key stays revoked, an enrolled operator key
stays, SERIAL stays. -/
def Obligations.FusesOnlyBlow : Prop :=
  ∀ s t : State, s.Shaped → step s = .next t → Fuses.le s.fuses t.fuses

/-- No command stops the machine: every one answers a next state (R430–R433 say what a unit does after each fault). -/
def Obligations.EveryCommandAnswers : Prop :=
 ∀ s : State, SafeStep s

/-! The SCL slot, at rest: results become visible at their latency and nothing else changes (R104, R105). -/

/-- The integer opcodes of the SCL slot write s[D] one cycle on, modulo 2⁶⁴, with shifts by the low 6 bits of s[B]; every
other part of the state is unchanged (R104). FADD, FMUL and FFMA write an FP32 result, zero-extended, four cycles on; FFMA
adds the product to s[D] (R104). (The model's choices it rests on: log entries 92, 93.) -/
def Obligations.SclArithmetic : Prop :=
  (∀ (s : State) (p : PartId) (d a b : SReg) (imm : BitVec 40), s.quiet p.toNat = true →
    let x := (s.part p.toNat).ctx.sreg a.toNat
    let y := (s.part p.toNat).ctx.sreg b.toNat
    let n := y.toNat % 64
    let writes (c : Instr) (v : DWord) : Prop :=
      Gives c p.toNat 1 s (fun s => s.modCtx p.toNat (s.seq p.toNat).ctxB (Ctx.setSreg d.toNat v))
    writes (.sclMovi p d imm) (imm.signExtend 64) ∧ writes (.sclAdd p d a b) (x + y) ∧ writes (.sclSub p d a b) (x - y) ∧
    writes (.sclAddi p d a imm) (x + imm.signExtend 64) ∧ writes (.sclMul p d a b) (x * y) ∧
    writes (.sclAnd p d a b) (x &&& y) ∧ writes (.sclOr p d a b) (x ||| y) ∧ writes (.sclXor p d a b) (x ^^^ y) ∧
    writes (.sclShl p d a b) (x <<< n) ∧ writes (.sclShr p d a b) (x >>> n) ∧ writes (.sclSra p d a b) (x.sshiftRight n) ∧
    writes (.sclCmplt p d a b) (if x.toInt < y.toInt then 1 else 0) ∧
    writes (.sclCmpltu p d a b) (if x.toNat < y.toNat then 1 else 0) ∧
    writes (.sclCmpeq p d a b) (if x = y then 1 else 0) ∧
    writes (.sclMin p d a b) (if y.toInt < x.toInt then y else x) ∧
    writes (.sclMax p d a b) (if x.toInt < y.toInt then y else x)) ∧
  (∀ (s : State) (p : PartId) (d a b : SReg), s.quiet p.toNat = true →
    let reg (r : SReg) : Word := ((s.part p.toNat).ctx.sreg r.toNat).setWidth 32
    let writes (c : Instr) (v : Word) : Prop :=
      Gives c p.toNat 4 s (fun s => s.modCtx p.toNat (s.seq p.toNat).ctxB (Ctx.setSreg d.toNat (v.setWidth 64)))
    writes (.sclFadd p d a b) (fadd (reg a) (reg b)) ∧ writes (.sclFmul p d a b) (fmul (reg a) (reg b)) ∧
    writes (.sclFfma p d a b) (ffma (reg a) (reg b) (reg d)))

/-- SLD loads a 64-bit word of a tile's Scratchpad twelve cycles on, SLD8 the eight words of a line into s[D] to s[D + 7]
modulo 64; a tile outside the partition reads 0 and counts one clamp (R104, R105). SST stores s[A] in a word of a tile's
Scratchpad, which is visible four cycles on and leaves the line unpoisoned; every other byte is unchanged. In a completion
word of the delivery ring it also releases the completion of the step delivered there, or is clamped where none is (R104,
R253, R368). A tile outside the partition takes nothing and counts one clamp (R105). (The model's choices it rests on: log
entries 92, 93.) -/
def Obligations.SclScratchpad : Prop :=
  (∀ (s : State) (p : PartId) (d : SReg) (t : TileId) (line : BitVec 17) (word : BitVec 3), s.quiet p.toNat = true →
    let mine := (s.part p.toNat).hasTile t.toNat
    let value (w : Nat) : DWord :=
      if mine then BitVec.ofNat 64 (rdLe (s.tile t.toNat).scratch (64 * line.toNat + 8 * w) 8) else 0
    let into (d : SReg) (v : DWord) (s : State) : State := s.modCtx p.toNat (s.seq p.toNat).ctxB (Ctx.setSreg d.toNat v)
    Gives (.sclSld p d t line word) p.toNat 12 s (fun s => into d (value word.toNat) (clampIf (!mine) p.toNat 4 s)) ∧
    Gives (.sclSld8 p d t line) p.toNat 12 s (fun s =>
      forEach (upTo 8) (fun k s => into (d + BitVec.ofNat 6 k) (value k) s) (clampIf (!mine) p.toNat 4 s))) ∧
  (∀ (s : State) (p : PartId) (a : SReg) (t : TileId) (line : BitVec 17) (word : BitVec 3), s.quiet p.toNat = true →
    let q := s.part p.toNat
    let at_ := 64 * line.toNat + 8 * word.toNat
    let stored (s : State) : State := s.modTile t.toNat (fun tl => { tl with
      scratch := wrBytes tl.scratch at_ (leBytes 8 (q.ctx.sreg a.toNat).toNat)
      spoison := mset false tl.spoison line.toNat false })
    Gives (.sclSst p a t line word) p.toNat 5 s (fun s =>
      if q.hasTile t.toNat then
        match completionSlot q t.toNat line.toNat word.toNat with
        | none => stored s
        | some k => if (mget none q.dlv k).isNone then clamp p.toNat 10 (stored s) else releaseStore p.toNat k (stored s)
      else clamp p.toNat 4 s))

/-- RRD reads a register of R106 eight cycles on, a CVU register after every queued feed (VAL and RES no sooner than one
cycle a byte of those feeds); an address that is none, or names a tile outside the partition, reads 0 and counts one clamp.
RWR writes a register three cycles on; an address that is none counts one clamp and writes nothing (R104–R106, R408). (The
model's choices it rests on: log entries 92, 93.) -/
def Obligations.SclRegisterAccess : Prop :=
  ∀ (s : State) (p : PartId) (d a : SReg) (addr : Half), s.quiet p.toNat = true →
    let n := addr.toNat
    let cvu := decide (0x100 ≤ n) && decide (n ≤ 0x1FF)
    let drained (s : State) : State := if cvu then s.modPart p.toNat (fun q => { q with cvu := q.cvu.drain }) else s
    let feeds := sumL ((s.part p.toNat).cvu.queue.map List.length)
    let into (v : Nat) (s : State) : State :=
      s.modCtx p.toNat (s.seq p.toNat).ctxB (Ctx.setSreg d.toNat (BitVec.ofNat 64 v))
    let v := (s.part p.toNat).ctx.sreg a.toNat
    (match regRead (drained s) p.toNat n with
      | some v => Gives (.sclRrd p d addr) p.toNat (if n = 0x101 ∨ n = 0x102 then Nat.max 8 feeds else 8) s (fun s => into v (drained s))
      | none => Gives (.sclRrd p d addr) p.toNat 8 s (fun s => into 0 (clamp p.toNat 4 (drained s)))) ∧
    (¬ (0x100 ≤ n ∧ n ≤ 0x104) →
      Gives (.sclRwr p a addr) p.toNat 3 s (fun s =>
        if (regRead s p.toNat n).isSome then regWrite p.toNat (s.seq p.toNat).ctxB n v.toNat s else clamp p.toNat 4 s))

/-- The Check-Value Unit (R407–R410). CVUF queues 1, 2 or 4 bytes of s[A], the oldest feed first leaving a full queue; size
code 3 feeds nothing and counts one clamp. A feed enters the running value lowest byte first. A write of CVU_CTL sets ALG
(code 3 as 0, with a clamp) and HALT; CHECK compares after every queued feed and sets CVU_STAT bit 1 on a match; a mismatch
sets bit 0 and raises the interrupt, or with HALT = 1 the Partition-fatal fault; INIT then sets the algorithm's initial
value. RWR of CVU_VAL, CVU_EXP and CVU_STAT takes effect in its bundle, 32-bit algorithms keeping CVU_VAL bits [63:32]. (The
model's choices it rests on: log entries 92, 93.) -/
def Obligations.CheckValueUnit : Prop :=
  ∀ (s : State) (p : PartId) (a : SReg) (size alg : BitVec 2) (halt init : Bool), s.quiet p.toNat = true →
    let v := (s.part p.toNat).ctx.sreg a.toNat
    let u := (s.part p.toNat).cvu.drain
    let set (c : Cvu) (s : State) : State := s.modPart p.toNat (fun q => { q with cvu := c })
    let control (alg : BitVec 2) (init check halt : Bool) (s : State) : State :=
      let alg' : BitVec 2 := if alg = 3 then 0 else alg
      let u' : Cvu := { u with alg := alg', halt := halt }
      let good := cvuMatches u'
      let s := clampIf (alg == 3) p.toNat 4 s
      let s := if !check then set u' s
        else if good then set { u' with stat := u.stat ||| 2 } s
        else if halt then partFault p.toNat 2 0x33 0 (set { u' with stat := u.stat ||| 1 } s)
        else report 0 2 0x51 p.toNat 0 (set { u' with stat := u.stat ||| 1 } s)
      if init then s.modPart p.toNat (fun q => { q with cvu := { q.cvu with val := BitVec.ofNat 64 (crcInit alg'.toNat) } }) else s
    Gives (.sclCvuf p a size) p.toNat 1 s (fun s =>
      if size = 3 then clamp p.toNat 4 s
      else s.modPart p.toNat (fun q =>
        let c := if 8 ≤ q.cvu.queue.length then q.cvu.step else q.cvu
        { q with cvu := { c with queue := c.queue ++ [leBytes (2 ^ size.toNat) v.toNat] } })) ∧
    Gives (.cvuInit p alg halt) p.toNat 1 s (control alg true false halt) ∧
    Gives (.cvuCheck p alg halt init) p.toNat 1 s (control alg init true halt) ∧
    Gives (.sclRwr p a 0x100) p.toNat 1 s (control (v.setWidth 2) (v.getLsbD 2) (v.getLsbD 3) (v.getLsbD 4)) ∧
    Gives (.sclRwr p a 0x101) p.toNat 1 s (set { u with
      val := if u.alg = 2 then v else (u.val &&& 0xFFFFFFFF00000000) ||| (v &&& 0xFFFFFFFF) }) ∧
    Gives (.sclRwr p a 0x102) p.toNat 1 s (set u) ∧
    Gives (.sclRwr p a 0x103) p.toNat 1 s (set { u with exp := v }) ∧
    Gives (.sclRwr p a 0x104) p.toNat 1 s (set { u with stat := u.stat &&& ~~~(v.setWidth 2) }) ∧
    (∀ f fs, (s.part p.toNat).cvu.queue = f :: fs →
      exec (.cvuFeedProcess p) s = .next (s.modPart p.toNat (fun q => { q with cvu := { q.cvu with
        queue := fs, val := BitVec.ofNat 64 (f.foldl (crcFeed q.cvu.alg.toNat) q.cvu.val.toNat) } })))

/-! The CTL slot, at rest (R100–R102). -/

/-- NEXT, JMP, BNZ, BZ, LOOP, CALL and RET: the next bundle, the return stack of 16, the hold of 1 to 256 cycles with its
clamps, the bubble of a taken branch. A next bundle outside the program ends it with one clamp. LOOP writes s[CREG] − 1. END
ends the program (R100–R103). The end of context F's program completes its PROGRAM_RUN DONE with the bundles it issued
(R100, R366). (The model's choices it rests on: log entries 92, 93.) -/
def Obligations.CtlAndProgramEnd : Prop :=
  (∀ (s : State) (p : PartId) (hold : BitVec 9) (creg : SReg) (target : BitVec 19), s.quiet p.toNat = true →
    let c := (s.part p.toNat).ctx
    let v := c.sreg creg.toNat
    let t := target.toNat
    let goes (i : Instr) (n pc : Nat) (stack : List Nat) (taken : Bool) (s0 : State) : Prop :=
      exec i s = .next (if c.lo ≤ pc ∧ pc < c.hi then ctlDone p.toNat hold n pc stack taken s0
        else endProgram p.toNat (ctlDone p.toNat hold (n + 1) c.pc stack false s0))
    let loop : State := s.modCtx p.toNat (s.seq p.toNat).ctxB (Ctx.setSreg creg.toNat (v - 1))
    goes (.ctlNext p hold) 0 (c.pc + 1) c.stack false s ∧
    goes (.ctlJmp p hold target) 0 t c.stack true s ∧
    (if v = 0 then goes (.ctlBnz p hold creg target) 0 (c.pc + 1) c.stack false s
      else goes (.ctlBnz p hold creg target) 0 t c.stack true s) ∧
    (if v = 0 then goes (.ctlBz p hold creg target) 0 t c.stack true s
      else goes (.ctlBz p hold creg target) 0 (c.pc + 1) c.stack false s) ∧
    (if v = 1 then goes (.ctlLoop p hold creg target) 0 (c.pc + 1) c.stack false loop
      else goes (.ctlLoop p hold creg target) 0 t c.stack true loop) ∧
    (if c.stack.length < 16 then goes (.ctlCall p hold target) 0 t ((c.pc + 1) :: c.stack) true s
      else goes (.ctlCall p hold target) 1 t c.stack true s) ∧
    (match c.stack with
      | [] => goes (.ctlRet p hold) 1 (c.pc + 1) [] false s
      | r :: st => goes (.ctlRet p hold) 0 r st true s) ∧
    exec (.ctlEnd p hold) s = .next (endProgram p.toNat (ctlDone p.toNat hold 0 c.pc c.stack false s))) ∧
  (∀ (s : State) (p : PartId) (hold : BitVec 9) (w : Work), s.quiet p.toNat = true → (s.seq p.toNat).ctxB = false →
    (s.part p.toNat).ctxF.head = some w →
    let c := (s.part p.toNat).ctxF
    exec (.ctlEnd p hold) s = .next (complete w 0 0 (leBytes 8 (c.nissued + 1))
      ((ctlDone p.toNat hold 0 c.pc c.stack false s).modCtx p.toNat false (fun c => { c with loaded := false, head := none }))))

/-! Bundles, gates, run-ahead and contexts (R96–R139). -/

/-- BUNDLE_ISSUE at rest, of a bundle whose one slot is CTL NEXT. Without a gate, or with a gate whose memory token is
resolved, it is CTL NEXT, s[GDST] taking the token's outcome (1 when poison came, R117): at once where the token has been
resolved for two cycles or ever since the reset, otherwise four cycles after it resolved; with a gate whose event is absent and
RA = 0 the stream stalls there and nothing else changes (R96, R122, R123). (The model's choices it rests on: log entries 94,
102, 105.) -/
def Obligations.BundleIssueEvaluatesItsGate : Prop :=
  ∀ (s : State) (p : PartId) (hold : BitVec 9) (cls : BitVec 4) (sel : Byte) (gdst gprs : SReg), s.quiet p.toNat = true →
    s.acts = [] → (s.seq p.toNat).ctxB = false →
    bundleAt s p.toNat = { nopBundle with ctl := ⟨0, hold, cls, sel, false, gdst, gprs, 0, 0⟩ } →
    let tok := mget tok0 (s.seq p.toNat).memTok sel.toNat
    let came := mget 0 (s.seq p.toNat).came (256 + sel.toNat)
    let passed : State := s.modCtx p.toNat false (Ctx.setSreg gdst.toNat (if tok.pois = [] then 0 else 1))
    (cls = 0 → exec (.bundleIssue p) s = exec (.ctlNext p hold) s) ∧
    (cls = 1 → tok.cnt = 0 → came = 0 ∨ came + 2 ≤ (s.seq p.toNat).cyc →
      exec (.bundleIssue p) s = exec (.ctlNext p hold) passed) ∧
    (cls = 1 → tok.cnt = 0 → came ≠ 0 → (s.seq p.toNat).cyc < came + 2 →
      exec (.bundleIssue p) s = exec (.ctlNext p hold) (passed.clocked p.toNat (came + 4 - (s.seq p.toNat).cyc))) ∧
    (cls = 1 → tok.cnt ≠ 0 →
      exec (.bundleIssue p) s = .next (s.modSeq p.toNat (fun q => { q with
        stall := some ⟨(s.part p.toNat).ctxF.pc, q.cyc, cls, sel⟩ })))

/-- GATE_EVENT_ARRIVAL at a stalled gate: once its memory token resolves, s[GDST] takes the outcome and the bundle issues
four cycles later (R123). UNDO_COMPLETE issues the gate bundle again with the actual outcome when the undo's cycles are over
(R132): a bundle that carries CTL NEXT and nothing else runs through its hold and goes on to the next bundle, or ends the program;
any bundle of context F that flips and loads no plane runs as it stands. Run-ahead (R126): at a gate whose memory token is
outstanding, with RA = 1 and SEQ_RACTL.EN = 1, the snapshot is taken, s[GDST] takes the prediction s[GPRS], and the bundle issues
and is charged to the gate (R128). (The model's choices it rests on: log entries 94, 102, 105.) -/
def Obligations.StallsAndRunAhead : Prop :=
  (∀ (s : State) (p : PartId) (hold : BitVec 9) (cls : BitVec 4) (sel : Byte) (ra : Bool) (gdst gprs : SReg),
    s.quiet p.toNat = true → (s.seq p.toNat).ctxB = false → cls.toNat < 8 →
    bundleAt s p.toNat = { nopBundle with ctl := ⟨0, hold, cls, sel, ra, gdst, gprs, 0, 0⟩ } →
    let c := (s.part p.toNat).ctxF
    let tok := mget tok0 (s.seq p.toNat).memTok sel.toNat
    let writes (d : SReg) (o : DWord) : State := s.modCtx p.toNat false (Ctx.setSreg d.toNat o)
    (∀ st : Stall, cls = 1 → ra = false → st.cls = 1 → s.acts = [] → tok.cnt = 0 →
      exec (.gateEventArrival p) (s.modSeq p.toNat (fun q => { q with stall := some st })) =
        exec (.ctlNext p hold) ((writes gdst (if tok.pois = [] then 0 else 1)).clocked p.toNat 4)) ∧
    (∀ u : Undo, exec (.undoComplete p) (s.modSeq p.toNat (fun q => { q with undo := some u })) =
      let s0 := (writes u.gdst u.outcome).clocked p.toNat (u.until_ - (s.seq p.toNat).cyc)
      .next (if c.lo ≤ c.pc + 1 ∧ c.pc + 1 < c.hi then ctlDone p.toNat hold 0 (c.pc + 1) c.stack false s0
        else endProgram p.toNat (ctlDone p.toNat hold 1 c.pc c.stack false s0)))) ∧
  (∀ (s : State) (p : PartId) (u : Undo), s.rested p.toNat = true → (s.seq p.toNat).undo = some u → (s.seq p.toNat).ctxB = false →
    let s' := advance p.toNat u.until_ (s.modSeq p.toNat (fun q => { q with undo := none }))
    let b := bundleAt s' p.toNat
    (∀ a ∈ b.arr, a.flip = false ∧ a.op ≠ 2 ∧ a.op ≠ 3) →
    exec (.undoComplete p) s = .next (runBundle p.toNat b (s'.modCtx p.toNat false (Ctx.setSreg u.gdst.toNat u.outcome)))) ∧
  (∀ (s : State) (p : PartId) (hold : BitVec 9) (sel : Byte) (gdst gprs : SReg), s.quiet p.toNat = true →
    s.acts = [] → (s.seq p.toNat).ctxB = false →
    bundleAt s p.toNat = { nopBundle with ctl := ⟨0, hold, 1, sel, true, gdst, gprs, 0, 0⟩ } →
    (mget tok0 (s.seq p.toNat).memTok sel.toNat).cnt ≠ 0 →
    let c := (s.part p.toNat).ctxF
    c.ractl.getLsbD 0 = true → c.pc + 1 < c.hi → c.lo ≤ c.pc + 1 →
    ∃ t g, exec (.bundleIssue p) s = .next t ∧ (t.seq p.toNat).gates = [g] ∧
      g.id = (s.seq p.toNat).nextGate ∧ (t.seq p.toNat).nextGate = g.id + 1 ∧ g.pc = c.pc ∧ g.pred = c.sreg gprs.toNat ∧
      g.snap.sregs = c.sregs ∧ g.snap.stack = c.stack ∧ g.bundles = 1 ∧ g.segs = 0 ∧ g.entries = 0 ∧
      (t.part p.toNat).ctxF.sregs = (c.setSreg gdst.toNat (c.sreg gprs.toNat)).sregs ∧ (t.part p.toNat).ctxF.pc = c.pc + 1 ∧
      t.tiles = s.tiles ∧ t.hbm = s.hbm)

/-- The oldest gate resolves (R132). When its outcome is the prediction it commits, and only the count of commits changes;
when it is not, the stream is undone: s-registers, return stack and program counter as they stood at the gate, no gate
unresolved, nothing of it left in the commit queue, and the bundle issues again after C cycles, which SEQ_RACNT counts.
A host entry that waits behind a provisional delivery is left out: the queues hold none. COMMIT_QUEUE_RELEASE carries out the
oldest entry once its gate has committed, and leaves it while the gate is unresolved
(R130): a completion store goes to its step, a CVU mismatch raises its interrupt, a held fault halts the partition, a MEM
write goes to the Memory Controllers, an XCH operation and a SWAP act. (The model's choices it rests on: log entry 94.) -/
def Obligations.GatesCommitOrMispredict : Prop :=
  (∀ (s : State) (p : PartId) (g : Gate), s.Shaped → maySequence s p.toNat = true → (s.part p.toNat).ctxF.loaded = true →
    (s.seq p.toNat).ctxB = false → (s.seq p.toNat).gates = [g] → g.cls = 1 → g.flags = [] → g.flips = [] → g.outcome = none →
    (∀ e ∈ (s.part p.toNat).queues, e.2.fetched = []) →
    let tok := mget tok0 (s.seq p.toNat).memTok g.sel.toNat
    let o : DWord := if tok.pois = [] then 0 else 1
    tok.cnt = 0 →
    (o = g.pred → exec (.gateEventArrival p) s =
      .next (s.modSeq p.toNat (fun q => { q with gates := [], commits := q.commits + 1 }))) ∧
    (o ≠ g.pred → ∃ t, exec (.gateEventArrival p) s = .next t ∧
      (t.part p.toNat).ctxF.sregs = g.snap.sregs ∧ (t.part p.toNat).ctxF.stack = g.snap.stack ∧ (t.part p.toNat).ctxF.pc = g.pc ∧
      (t.seq p.toNat).gates = [] ∧ (∀ e ∈ (t.seq p.toNat).commitQ, e.gid < g.id) ∧
      (t.seq p.toNat).undo = some ⟨g.pc, g.gdst, o, (s.seq p.toNat).cyc + undoCost g⟩ ∧
      (t.seq p.toNat).mispredicts = (s.seq p.toNat).mispredicts + 1 ∧
      (t.seq p.toNat).undoCyc = (s.seq p.toNat).undoCyc + BitVec.ofNat 48 (undoCost g))) ∧
  (∀ (s : State) (p : PartId) (e : CqEntry) (rest : List CqEntry), s.Shaped → (s.seq p.toNat).commitQ = e :: rest →
    let s' := s.modSeq p.toNat (fun q => { q with commitQ := rest })
    (((s.seq p.toNat).holder e.gid).isSome = true → exec (.commitQueueRelease p) s = .next s) ∧
    ((s.seq p.toNat).holder e.gid = none →
      (∀ slot, e.act = .complete slot → exec (.commitQueueRelease p) s = .next (s'.modPart p.toNat (fun q => { q with
        dlv := q.dlv.map (fun x => if x.1 = slot.toNat then (x.1, x.2.map (fun d => { d with stored := true })) else x) }))) ∧
      (e.act = .cvuMismatch false → exec (.commitQueueRelease p) s = .next (report 0 2 0x51 p.toNat 0 s')) ∧
      (e.act = .cvuMismatch true → exec (.commitQueueRelease p) s = .next (partFault p.toNat 2 0x33 0 s')) ∧
      (∀ code arg, e.act = .fault code arg →
        exec (.commitQueueRelease p) s = .next (partFault p.toNat arg.toNat code.toNat arg.toNat s')) ∧
      (∀ lines tok req, e.act = .memWrite lines tok req →
        exec (.commitQueueRelease p) s = .next (sendWrite p.toNat req 0 lines s')) ∧
      (∀ sl data pois, e.act = .xch sl data pois → exec (.commitQueueRelease p) s = .next (xchEffect p.toNat sl data s')) ∧
      (∀ k stepEnd ctl, e.act = .swap k stepEnd ctl →
        exec (.commitQueueRelease p) s = .next (swapEffect p.toNat k.toNat stepEnd ctl s'))))

/-- Contexts (R135–R137). With F out of the way the switch to B takes 24 cycles and B's planes; at its end B issues. A
preemption of B that stalls at a gate gives the stream back after 24 cycles and F's planes. The cycles are counted as undo
cycles; the LOADs of the context that is left take no further line (`leavePlanes`). (The model's choices it rests on: log
entries 24, 94, 122.) -/
def Obligations.ContextSwitches : Prop :=
  ∀ (s : State) (p : PartId), s.Shaped →
    let q := s.part p.toNat
    let leaves (toB : Bool) (cost : Nat) : State := (leavePlanes p.toNat s).modSeq p.toNat (fun q => { q with
      stall := none, heldFlip := none, heldLoad := none, switch := some ⟨toB, q.cyc + cost⟩
      undoCyc := q.undoCyc + BitVec.ofNat 48 cost })
    (maySequence s p.toNat = true → q.seq.ctxB = false → q.ctxB.loaded = true → q.ctxF.loaded = false → q.seq.gates = [] →
      q.seq.heldFlip = none → q.seq.heldLoad = none →
      exec (.contextSwitchToB p) s = .next (leaves true (24 + q.ctxB.tPlane))) ∧
    (maySequence s p.toNat = true → q.seq.ctxB = true → q.seq.preempt = true → q.ctxF.loaded = true → q.seq.gates = [] →
      q.seq.stall.isSome = true → exec (.preemptionOfB p) s = .next (leaves false (24 + q.ctxF.tPlane))) ∧
    (∀ w, q.seq.switch = some w → q.seq.inflight = [] → q.seq.loaders = [] →
      (w.toB = true → q.ctxF.loaded = false ∧ q.ctxB.again = none) → ∃ t, exec (.contextSwitchEnd p) s = .next t ∧
      (t.seq p.toNat).switch = none ∧ (t.seq p.toNat).ctxB = w.toB ∧ (w.until_ ≤ (t.seq p.toNat).cyc) ∧
      (t.seq p.toNat).preempt = (q.seq.preempt && w.toB) ∧
      (t.part p.toNat).ctxF = q.ctxF ∧ (t.part p.toNat).ctxB = q.ctxB ∧
      t.erase { parts := true, tiles := true } = s.erase { parts := true, tiles := true })

/-! The Matrix Arrays (R21–R60), at rest. A slot that also carries FLIP flips first (`ArrFlip`); here it does not. -/

/-- MAC and MACLOAD (R26, R42, R47, R51): in every tile and cycle k of the hold, row k of the slot's stream (row k / 2 in
the even cycles of a 16-bit format) meets the active plane, and column j adds its groups into entry ACCB + row × step, to be
visible 71 + j cycles on (135 + 2j in a 16-bit format), 66 more through the transpose buffer. ACLR, ACC_STORE and ACC_LOAD
(R31, R48, R51): in cycle k of the hold, entry ACCB + k × step of every tile is cleared, stored in four Scratchpad lines in
column order, or loaded from four, all by the fourth cycle after the hold. (The model's choices it rests on: log entries 76,
93.) -/
def Obligations.ArrComputes : Prop :=
  (∀ (s : State) (p : PartId) (a : ArrId) (sl : ArrSlot) (hold : BitVec 9) (c : Instr), s.quiet p.toNat = true → sl.flip = false →
    c = .arrMac p a sl hold ∨ c = .arrMacload p a sl hold →
    let q := s.part p.toNat
    let H := holdOf hold
    ∃ t, exec c s = .next t ∧ now t p.toNat = q.seq.cyc + H ∧
      ∀ n k j, n ∈ q.tiles → k < H → j < 64 → k < 71 → H < k + 71 →
        let pl := mget plane0 (s.tile n).active a.toNat
        let f := arrActFmt pl.fmt.toNat
        let wide := f.bits == 16
        let row := if wide then k / 2 else k
        let g := columnGroups pl (streamRow q sl f (s.tile n) row) j
        (wide = false ∨ (k % 2 = 0 ∧ k + 1 < H)) →
          OnWay p.toNat (q.seq.cyc + k + (if wide then 135 + 2 * j else 71 + j) + (if sl.xpb then 66 else 0))
            (.accAdd (BitVec.ofNat 7 n) a ((sl.accb.toNat + row * [1, 0, 2, 4].getD sl.accstep.toNat 1) % 1024) j sl.accw
              (fmtInt pl.fmt.toNat) g.2 g.1) t) ∧
  (∀ (s : State) (p : PartId) (a : ArrId) (sl : ArrSlot) (hold : BitVec 9), s.quiet p.toNat = true → sl.flip = false →
    let q := s.part p.toNat
    let H := holdOf hold
    let step := [1, 0, 2, 4].getD sl.accstep.toNat 1
    let key (k j : Nat) : Nat := (1024 * a.toNat + (sl.accb.toNat + k * step) % 1024) * 64 + j
    let word (t : State) (n k j : Nat) : Nat :=
      rdLe (t.tile n).scratch (64 * spLine (sl.spa.toNat + fld (q.pbase 0x1201 sl.pt) 12 17 + 4 * k + j / 16) + 4 * (j % 16)) 4
    let gives (c : Instr) (P : State → Nat → Nat → Nat → Prop) : Prop := ∃ t, exec c s = .next t ∧
      ∀ n k j, n ∈ q.tiles → k < H → j < 64 → P (advance p.toNat (q.seq.cyc + H + 4) t) n k j
    gives (.arrAclr p a sl hold) (fun t n k j => mget 0 (t.tile n).acc (key k j) = 0) ∧
    gives (.arrAccStore p a sl hold) (fun t n k j => word t n k j = (mget 0 (s.tile n).acc (key k j)).toNat) ∧
    gives (.arrAccLoad p a sl hold) (fun t n k j => step ≠ 0 ∨ k + 1 = H →
      mget 0 (t.tile n).acc (key k j) = BitVec.ofNat 32 (word s n k j)))

/-- LOAD (R36, R37, R131): the loader of an idle array runs from the cycle of issue, writes line r of the shadow plane in
its cycle r, with an MX format the scales with its last, and is ready 64 cycles after issue; the plane record is the slot
with its pass base. FCLR clears the array's flags in every tile (R48). A waiting LOAD starts when the running one has read
its last line, and a running one is over in the cycle in which its plane is ready (R36, R39). (The model's choices it rests
on: log entries 93, 94.) -/
def Obligations.ArrLoads : Prop :=
  (∀ (s : State) (p : PartId) (a : ArrId) (sl : ArrSlot), s.quiet p.toNat = true → sl.flip = false →
    let q := s.part p.toNat
    let u := q.seq.cyc
    let r : LoadRec := ⟨{ sl with op := 2 }, BitVec.ofNat 64 (q.pbase 0x1201 sl.pt), none⟩
    (sl.fmt.toNat < 13 → ∃ t, exec (.arrLoad p a sl) s = .next t ∧ now t p.toNat = u + 1 ∧
      (mget loader0 (t.seq p.toNat).loaders a.toNat).running = some ⟨u, u + 63, u + 64, 0⟩ ∧
      (∀ i, 2 ≤ i → i < 64 → OnWay p.toNat (u + i) (.planeLine a
        { r with stride := some (fld (q.reg (0x1210 + sl.spstr.toNat)) 0 17) } i false) t) ∧
      (fmtMx sl.fmt.toNat = true → OnWay p.toNat (u + 63) (.planeScales a r) t) ∧
      ((t.part p.toNat).ctx.recS.find? (fun e => e.1 == a.toNat)) = some (a.toNat, r)) ∧
    exec (.arrFclr p a) s = .next ((forEach q.tiles (fun n s => s.modTile n (fun tl =>
      { tl with arrStat := mset 0 tl.arrStat a.toNat 0 })) s).clocked p.toNat 1)) ∧
  (∀ (s : State) (p : PartId) (a : ArrId) (r w : Loading) (f : Option Nat) (wide : Bool), s.Shaped → (s.seq p.toNat).inflight = [] →
    (s.seq p.toNat).heldFlip = none → (s.seq p.toNat).heldLoad = none →
    let q := s.seq p.toNat
    (q.loaders = [(a.toNat, ⟨some r, some w, f, wide⟩)] → r.last < w.start → w.start ≤ w.last → q.cyc ≤ w.start →
      ∃ t, exec (.arrLoadDeferredStart p a) s = .next t ∧ now t p.toNat = w.start ∧
        (t.seq p.toNat).loaders = [(a.toNat, ⟨some w, none, f, wide⟩)] ∧ t.tiles = s.tiles) ∧
    (q.loaders = [(a.toNat, ⟨some r, none, f, wide⟩)] → r.last < r.ready → q.cyc ≤ r.ready →
      ∃ t, exec (.shadowPlaneReady p a) s = .next t ∧ now t p.toNat = r.ready ∧
        mget loader0 (t.seq p.toNat).loaders a.toNat = ⟨none, none, f, wide⟩ ∧ t.tiles = s.tiles))

/-- FLIP (R38, R103): with no load on its way and no lease open, the planes of the named arrays change places at once, with
their records, and the bundle takes 12 cycles more than its hold. A held FLIP issues so once its planes are ready (R40).
(The model's choices it rests on: log entries 93, 94.) -/
def Obligations.ArrFlip : Prop :=
  ∀ (s : State) (p : PartId) (mask : BitVec 4), s.quiet p.toNat = true → (s.part p.toNat).fill.leases = [] →
    let q := s.part p.toNat
    (∃ t, exec (.arrFlip p mask) s = .next t ∧ now t p.toNat = q.seq.cyc + (if mask = 0 then 1 else 13) ∧ Flipped p.toNat mask s t) ∧
    (∀ h, mask ≠ 0 → q.ctx.lo ≤ q.ctx.pc + 1 → q.ctx.pc + 1 < q.ctx.hi →
      bundleAt s p.toNat = { nopBundle with
        ctl := { nopBundle.ctl with hold := 1 }
        arr := nopBundle.arr.zipIdx.map (fun e => { e.1 with flip := mask.getLsbD e.2 }) } →
      ∃ t, exec (.flipHeldRelease p) (s.modSeq p.toNat (fun q => { q with heldFlip := some h })) = .next t ∧ now t p.toNat = q.seq.cyc + 13 ∧ Flipped p.toNat mask s t ∧
        (t.seq p.toNat).heldFlip = none ∧ (t.part p.toNat).ctx.pc = q.ctx.pc + 1)

/-! The Vector Engine (R61–R95), at rest. -/

/-- RUN of a chain of lane-wise stages (R62–R76): in every tile, vector v of the hold goes through the stages in order, and
its result is written in the destination format (here no MX format) four cycles, the stages' latencies and four cycles on
(R89), in the lanes of the mask. An empty chain copies operand A. TCLR frees its tally slot in every tile; TDRAIN stores the
slot's 64 bytes, or its lanes, eight cycles on; VLOAD puts vector v of operand A in register VB0 + v, the first sixteen
only; MLOAD puts 16 bytes of the Scratchpad in its mask register, and to M0 does nothing (R67, R87, R90). (The model's
choices it rests on: log entries 5, 7, 11, 12, 93.) -/
def Obligations.VecComputes : Prop :=
  (∀ (s : State) (p : PartId) (sl : VecSlot) (hold : BitVec 9), s.quiet p.toNat = true →
    let q := s.part p.toNat
    let H := holdOf hold
    let st := chainRuns q sl.ch.toNat
    let f := vecFmt sl.dfmt.toNat
    let sc (r : Nat) : DWord := q.ctx.sreg r
    sl.asrc ≠ 7 → sl.dfmt.toNat < 14 → f.isMx = false → (∀ x ∈ st, sopCross x.sop = false) →
    ∃ t, exec (.vecRun p sl hold) s = .next t ∧ now t p.toNat = q.seq.cyc + H ∧
      ∀ n v, n ∈ q.tiles → v < H → v < 8 → H < v + 8 →
        let tl := s.tile n
        let k := v % 2 ^ sl.rgrp.toNat
        let b := bVec q sl tl v
        let a := aVec q sl tl v
        let m := maskVal tl sl.msk.toNat
        let L : Lanes := ⟨a, b.1, b.2, splat 0, splat 0, splat 0, splat 0, vregVec tl (sl.vb0.toNat + k),
          vregVec tl (sl.vb1.toNat + k), maskBits (if sl.mstr = 1 then Nat.land m (maskEntry q sl tl v) else m), List.replicate 128 true, 0⟩
        let R := st.foldl (fun L x => laneStage sc sl.sbase.toNat k x L) L
        let pk := packVec f (if st = [] then a else R.prev) R.lp
        let at_ := q.seq.cyc + v + 8 + sumL (st.map (fun x => sopLatency x.sop))
        let addr := 64 * spLine (sl.dspa.toNat + fld (q.pbase 0x2081 sl.pt) 12 17) + v * vecBytes f
        let lb := 64 * lbLine (sl.dlba.toNat + fld (q.pbase 0x2081 sl.pt) 0 12 + v * vecLines f)
        OnWay p.toNat at_ (.vflags (BitVec.ofNat 7 n) (R.flags ||| (if sl.dst = 0 then 0 else pk.2.2))) t ∧
        (sl.dst = 1 ∨ sl.dst = 3 → addr + pk.1.length ≤ 8388608 → OnWay p.toNat at_ (.mem .scratch (BitVec.ofNat 7 n) addr pk.1 6) t) ∧
        (sl.dst = 2 ∨ sl.dst = 3 → lb + pk.1.length ≤ 262144 → OnWay p.toNat at_ (.mem .lb (BitVec.ofNat 7 n) lb pk.1 6) t)) ∧
  (∀ (s : State) (p : PartId) (sl : VecSlot) (hold : BitVec 9), s.quiet p.toNat = true →
    let q := s.part p.toNat
    let u := q.seq.cyc
    let H := holdOf hold
    exec (.vecTclr p sl.tsl) s = .next ((forEach q.tiles (fun n s => s.modTile n (fun tl =>
      { tl with vec := { tl.vec with tally := mset tally0 tl.vec.tally sl.tsl.toNat tally0 } })) s).clocked p.toNat 1) ∧
    (∃ t, exec (.vecTdrain p sl) s = .next t ∧ now t p.toNat = u + 1 ∧ ∀ n, n ∈ q.tiles →
      let d := drainBytes (mget tally0 (s.tile n).vec.tally sl.tsl.toNat)
      let addr := 64 * spLine (sl.dspa.toNat + fld (q.pbase 0x2081 sl.pt) 12 17)
      OnWay p.toNat (u + 8) (.vflags (BitVec.ofNat 7 n) (if d.2 then vfEmpty else 0)) t ∧
      (addr + d.1.length ≤ 8388608 →
        OnWay p.toNat (u + 8) (.mem .scratch (BitVec.ofNat 7 n) addr (d.1.map (fun b => (true, b))) 6) t)) ∧
    (sl.asrc ≠ 7 → ∃ t, exec (.vecVload p sl hold) s = .next t ∧ now t p.toNat = u + H ∧
      ∀ n v, n ∈ q.tiles → v < H → v < 8 → H < v + 8 →
        OnWay p.toNat (u + v + 8) (.vreg (BitVec.ofNat 7 n) ((sl.vb0.toNat + v) % 16) (aVec q sl (s.tile n) v)) t) ∧
    (sl.msk ≠ 0 → ∃ t, exec (.vecMload p sl) s = .next t ∧ now t p.toNat = u + 1 ∧ ∀ n, n ∈ q.tiles →
      OnWay p.toNat (u + 8) (.mask (BitVec.ofNat 7 n) sl.msk.toNat (BitVec.ofNat 128
        (rdLe (s.tile n).scratch (64 * spLine (sl.aspa.toNat + fld (q.pbase 0x2081 sl.pt) 12 17)) 16))) t) ∧
    (sl.msk = 0 → exec (.vecMload p sl) s = .next (s.clocked p.toNat 1)))

/-! The Update Unit (R145–R176), at rest. -/

/-- STEP and COPY (R149–R157): in cycle c of the hold every tile reads its record of 32 parameters, and the new record, its
compute copy and the flags are on their way at the latency of R158. FCLR clears UPD_STAT in every tile (R148). SWAP inverts
CUR of a state buffer pair, and with LEN = 0 changes nothing and counts one clamp (R161). In context B a SWAP at the end of
a step is a step boundary, whose number rises; no checkpoint being due, nothing else changes (R441). (The model's choices it
rests on: log entries 93, 101.) -/
def Obligations.UpdOpcodes : Prop :=
  (∀ (s : State) (p : PartId) (sl : UpdSlot) (hold : BitVec 9), s.quiet p.toNat = true →
    let q := s.part p.toNat
    let u := q.seq.cyc
    let H := holdOf hold
    let acts (c : Instr) (op : BitVec 4) : Prop := ∃ t, exec c s = .next t ∧ now t p.toNat = u + H ∧
      ∀ n k, n ∈ q.tiles → k < H → k < 8 → H < k + 8 →
        let o := updOut q (s.tile n) n { sl with op := op } (fun r => q.ctx.sreg r) k H
        OnWay p.toNat (u + k + o.lat) (.uflags (BitVec.ofNat 7 n) o.flags o.kept) t ∧
        (o.dst + o.bytes.length ≤ 8388608 → OnWay p.toNat (u + k + o.lat) (.mem .scratch (BitVec.ofNat 7 n) o.dst o.bytes 7) t) ∧
        (o.copy ≠ [] → o.copyAt + o.copy.length ≤ 8388608 →
          OnWay p.toNat (u + k + o.lat) (.mem .scratch (BitVec.ofNat 7 n) o.copyAt o.copy 7) t)
    acts (.updStep p sl hold) 1 ∧ acts (.updCopy p sl hold) 2 ∧
    exec (.updFclr p) s = .next ((forEach q.tiles (fun n s => s.modTile n (fun tl => { tl with updStat := 0 })) s).clocked p.toNat 1)) ∧
  (∀ (s : State) (p : PartId) (k : BitVec 3) (stepEnd : Bool), s.quiet p.toNat = true →
    let swapped (s : State) : State :=
      if (s.part p.toNat).sbufLen k.toNat = 0 then clamp p.toNat 3 s
      else
        let s := s.modPart p.toNat (fun q => q.setCur k.toNat (!q.sbufCur k.toNat))
        if stepEnd && (s.seq p.toNat).ctxB then
          s.modPart p.toNat (fun q => { q with ckp := { q.ckp with bound := q.ckp.bound + 1 } })
        else s
    ckDue (swapped s) p.toNat = false → Gives (.updSwap p k stepEnd) p.toNat 1 s swapped)

/-! The Movers (R107–R112) and the MEM slot (R113–R117), at rest. -/

/-- RUN (R108–R112): in cycle k of the hold the Mover of every tile reads a line at its source and sends it to its
destinations, where it arrives 6 + 4 × hops cycles on, or later where the links of its route are overloaded: not when it crosses no
link, and not when no two moves of the hold share a link on an empty mesh. Each line in flight counts in its token. A descriptor
with a reserved memory code moves nothing and counts one clamp. A line that arrives is in the memory of each of its tiles, with its
poison mark, and nothing else of any tile changes; its token counts it no more (R110, R117, R253): a Mover's line, and a MEM line.
A tile's Crumb request issues its next index (R116): the partition line is the base plus the 32-bit index, and the line
asked for lands at its place in the destination. A controller accepts a write (R117, R246): the line's bytes stand in memory
under the owner's key with its POISON, no other byte changes, and the write waits in the controller's queue. (The model's
choices it rests on: log entries 10, 74, 93, 94, 125.) -/
def Obligations.MovesAndLineArrivals : Prop :=
  (∀ (s : State) (p : PartId) (m : BitVec 1) (sl : MovSlot) (hold : BitVec 9), s.quiet p.toNat = true →
    let q := s.part p.toNat
    let u := q.seq.cyc
    let H := holdOf hold
    let d := q.reg (0x40 + sl.desc.toNat)
    let pb := q.pbase 0x10 sl.pt
    (∀ sk dk, mvKind (fld d 0 2) = some sk → mvKind (fld d 2 2) = some dk →
      ∃ t, exec (.movRun p m sl hold) s = .next t ∧ now t p.toNat = u + H ∧
        (H = 1 → mget 0 (t.seq p.toNat).movTok sl.tok.toNat =
          mget 0 q.seq.movTok sl.tok.toNat + (q.tiles.filter (fun n => (mvRoute q d n).isSome)).length) ∧
        ∀ n k src ds h, n ∈ q.tiles → mvRoute q d n = some (src, ds, h) → k < H → k < 6 → H < k + 6 →
          let a := 64 * mvLine sk pb sl.src.toNat (fld d 23 17) k
          let crossed (n : Nat) : List Nat := match mvRoute q d n with
            | some (src, ds, _) => ds.flatMap (routeLinks (bit d 57) src)
            | none => []
          ∃ at_, u + k + 6 + 4 * h ≤ at_ ∧
            (h = 0 ∨ (q.seq.links = [] ∧ H = 1 ∧ bit d 22 = false ∧
              ∀ n' n'', n' ∈ q.tiles → n'' ∈ q.tiles → n' ≠ n'' → ∀ x ∈ crossed n', x ∉ crossed n'') → at_ = u + k + 6 + 4 * h) ∧
            OnWay p.toNat at_ (.mover dk (ds.map (BitVec.ofNat 7))
              (64 * mvLine dk pb sl.dst.toNat (fld d 40 17) k) (rdBytes ((s.tile src).bytes sk) a 64)
              ((s.tile src).pois sk (a / 64)) sl.tok m) t) ∧
    (mvKind (fld d 0 2) = none ∨ mvKind (fld d 2 2) = none →
      exec (.movRun p m sl hold) s = .next ((clamp p.toNat 5 s).clocked p.toNat H))) ∧
  (∀ (s : State) (p : PartId), s.Shaped → (s.seq p.toNat).hot = [] → (s.seq p.toNat).hotLines = [] → (s.seq p.toNat).gates = [] →
    let placed (k : TMem) (ds : List (TileId × Nat)) (bs : List Byte) (pois : Bool) (t : State) : Prop :=
      (∀ d ∈ ds, rdBytes ((t.tile d.1.toNat).bytes k) d.2 64 = bs ∧ (k ≠ .side → (t.tile d.1.toNat).pois k (d.2 / 64) = pois)) ∧
      (∀ n k' b, k' ≠ k ∨ (∀ d ∈ ds, d.1.toNat = n → b < d.2 ∨ d.2 + 64 ≤ b) →
        rd8 ((t.tile n).bytes k') b = rd8 ((s.tile n).bytes k') b)
    (∀ l rest k ts byte bs pois tok m, (s.seq p.toNat).inflight = l :: rest → l.w = .mover k ts byte bs pois tok m →
      bs.length = 64 → byte % 64 = 0 → l.gid = 0 → ∃ t, exec (.moverLineArrival p 0) s = .next t ∧
        placed k (ts.map (fun n => (n, byte))) bs pois t ∧ (t.seq p.toNat).inflight = rest ∧
        mget 0 (t.seq p.toNat).movTok tok.toNat = mget 0 (s.seq p.toNat).movTok tok.toNat - 1) ∧
    (∀ l rest bs pois, (s.seq p.toNat).lines = l :: rest → l.write = none → l.crumb = false → l.arrived = some (bs, pois) →
      bs.length = 64 → l.gid = 0 → ∃ t, exec (.memLineArrival p 0) s = .next t ∧
        placed l.kind (l.dests.map (fun d => (d.1, 64 * d.2))) bs pois t ∧ (t.seq p.toNat).lines = rest ∧
        (∀ r, (s.seq p.toNat).reqs = [r] → r.id = l.req → r.left = 1 →
          let k := mget tok0 (s.seq p.toNat).memTok r.tok.toNat
          let k' := mget tok0 (t.seq p.toNat).memTok r.tok.toNat
          (t.seq p.toNat).reqs = [] ∧ k'.cnt = k.cnt - 1 ∧ (k'.pois = [] ↔ k.pois = [] ∧ pois = false) ∧ k'.cleared = k.cleared ∧
            (k.cnt = 1 → mget 0 (t.seq p.toNat).came (256 + r.tok.toNat) = (s.seq p.toNat).cyc)))) ∧
  (∀ (s : State) (p : PartId), s.Shaped →
    (∀ (t : TileId) (c : CrumbIssue) (dev : Nat), (s.seq p.toNat).crumbs = [c] → c.t = t → c.next < c.len →
      let l := (c.adb + rdLe (s.tile t.toNat).scratch ((64 * spLine c.idxLine + 4 * c.next) % 8388608) 4) % 2 ^ 34
      l < windowEnd s p.toNat → translate s p.toNat l = some dev →
      let ts := if c.bcast then (s.part p.toNat).tiles else [t.toNat]
      let ln := match c.dkind with | .lb => lbLine (c.dst + c.next) | _ => spLine (c.dst + c.next)
      exec (.crumbIndexIssue p t) s = .next (addLine p.toNat
        { id := 0, req := c.req, cls := 0, dev := dev, crumb := true, miss := false, write := none, kind := c.dkind
          dests := ts.map (fun n => (BitVec.ofNat 7 n, ln)), gid := c.gid, arrived := none, pline := l }
        (s.modSeq p.toNat (fun x => { x with crumbs := if c.next + 1 < c.len then [{ c with next := c.next + 1 }] else [] })))) ∧
    (∀ l rest bs pois key, (s.seq p.toNat).lines = l :: rest → l.write = some (bs, pois) → bs.length = 64 →
      let e := s.slab (slabOf l.dev)
      let k := s.keyReg (slotOf e)
      let c := chanOf s l.dev
      e.shared = false → k.curKey = some key → chanServes s c.1 = true → (s.chan c.1).backlog = false →
      drainHolds (s.part p.toNat) l.pline = false → (s.arb (2 * c.1 + c.2.1)).wq.length < 64 →
      ∃ t, exec (.memWriteAccept p 0) s = .next t ∧
        rdBytes t.hbm.cells l.dev 64 = bs ∧
        (∀ b, b < l.dev ∨ l.dev + 64 ≤ b → rd8 t.hbm.cells b = rd8 s.hbm.cells b) ∧
        mget none t.hbm.lines l.dev = some ⟨mdMake pois k.cur e.owner.toNat, [key, key, key, key]⟩ ∧
        (t.arb (2 * c.1 + c.2.1)).wq = (s.arb (2 * c.1 + c.2.1)).wq ++ [p.toNat] ∧
        (t.seq p.toNat).lines = rest ∧ t.tiles = s.tiles))

/-- READ and READX (R115, R117): every tile's lines, or with BCAST one run of lines for all, are asked for in class C1 or
C0, clamped into the window, a hole delivering zeros; the request counts once toward its token. A reserved memory code asks
for nothing and counts one clamp. WRITE without BCAST, of lines in the partition's own slabs, captures them at issue and
sends them to their controllers (R115); CRUMB starts every tile's list of indices, or the first tile's for all (R116). Both
count once toward their token (R117). A reserved memory code sends nothing and counts one clamp. (The model's choices it
rests on: log entries 75, 93.) -/
def Obligations.MemOpcodes : Prop :=
  (∀ (s : State) (p : PartId) (sl : MemSlot) (c : Instr) (cls : Nat), s.quiet p.toNat = true →
    (c = .memRead p sl ∧ cls = 1) ∨ (c = .memReadx p sl ∧ cls = 0) → windowEnd s p.toNat ≠ 0 →
    let q := s.part p.toNat
    let d := q.reg (0x80 + sl.desc.toNat)
    let len := fld d 29 16 + 1
    let k : TMem := if d % 4 = 1 then .lb else .scratch
    let first (r : Nat) : Nat := (fld (q.pbase 0x10 sl.pt) 17 34 + sl.addr.toNat + r * fld d 3 26) % 2 ^ 34
    let srcs : List (Nat × List Nat) := if bit d 2 then [(first 0, q.tiles)] else q.tiles.zipIdx.map (fun e => (first e.2, [e.1]))
    let lines := srcs.flatMap (fun e =>
      let w := windowClamp s p.toNat e.1 len
      (upTo w.2.1).map (fun i => (w.1 + i, i, e.2)))
    let clamped := srcs.any (fun e => (windowClamp s p.toNat e.1 len).2.2) || lines.any (fun l => (translate s p.toNat l.1).isNone)
    (d % 4 < 2 → lines ≠ [] → Gives c p.toNat 1 s (fun s =>
      forEach lines (fun l => addLine p.toNat
        { id := 0, req := q.seq.nextReq, cls := cls, dev := (translate s p.toNat l.1).getD 0, crumb := false, miss := false
          write := none, kind := k, dests := l.2.2.map (fun n => (BitVec.ofNat 7 n, memTileLine q sl k l.2.1)), gid := 0
          arrived := if (translate s p.toNat l.1).isNone then some (List.replicate 64 0, false) else none, pline := l.1 })
        ((clampIf clamped p.toNat 6 s).modSeq p.toNat (fun x => { tokAdd sl.tok.toNat x with
          nextReq := x.nextReq + 1, reqs := x.reqs ++ [⟨x.nextReq, sl.tok, lines.length, 0⟩] })))) ∧
    (2 ≤ d % 4 → Gives c p.toNat 1 s (clamp p.toNat 6))) ∧
  (∀ (s : State) (p : PartId) (sl : MemSlot), s.quiet p.toNat = true →
    let q := s.part p.toNat
    let d := q.reg (0x80 + sl.desc.toNat)
    let len := fld d 29 16 + 1
    let k : TMem := if d % 4 = 1 then .lb else .scratch
    let pb := q.pbase 0x10 sl.pt
    let lines : List (Nat × List Byte × Bool) := q.tiles.zipIdx.flatMap (fun e => (upTo len).map (fun i =>
      let ln := memTileLine q sl k i
      ((fld pb 17 34 + sl.addr.toNat + e.2 * fld d 3 26) % 2 ^ 34 + i, rdBytes ((s.tile e.1).bytes k) (64 * ln) 64, (s.tile e.1).pois k ln)))
    let opened (n : Nat) (s : State) : State := s.modSeq p.toNat (fun x => { tokAdd sl.tok.toNat x with
      nextReq := x.nextReq + 1, reqs := x.reqs ++ [⟨x.nextReq, sl.tok, n, 0⟩] })
    let ts := if bit d 2 then q.tiles.take 1 else q.tiles
    (d % 4 < 2 → bit d 2 = false → lines ≠ [] →
      (∀ l ∈ lines, l.1 < windowEnd s p.toNat ∧ (translate s p.toNat l.1).isSome ∧ lineShared s p.toNat l.1 = false) →
      Gives (.memWrite p sl) p.toNat 1 s (fun s => forEach lines (fun l => addLine p.toNat
          { id := 0, req := q.seq.nextReq, cls := 2, dev := (translate s p.toNat l.1).getD 0, crumb := false, miss := false
            write := some l.2, kind := .scratch, dests := [], gid := 0, arrived := none, pline := l.1 }) (opened lines.length s))) ∧
    (d % 4 < 2 → ts ≠ [] → Gives (.memCrumb p sl) p.toNat 1 s (fun s => (opened (len * ts.length) s).modSeq p.toNat (fun x => { x with
      crumbs := x.crumbs ++ ts.map (fun n =>
        { req := x.nextReq - 1, t := BitVec.ofNat 7 n, idxLine := fld pb 0 17 + sl.spa.toNat, next := 0, len := len
          adb := fld pb 17 34 + sl.addr.toNat, dkind := k, dst := memTileLine q sl k (fld d 45 17), bcast := bit d 2, gid := 0 }) }))) ∧
    (2 ≤ d % 4 → Gives (.memWrite p sl) p.toNat 1 s (clamp p.toNat 6) ∧ Gives (.memCrumb p sl) p.toNat 1 s (clamp p.toNat 6)))

/-! The collective link. -/

/-- Bring-up (R284): training sends HELLO; a HELLO whose role complements the port's starts ECHO, and WAKETOL on a
collective port, another role leaves the port DOWN; ECHO is returned at once; the ECHO-REPLY brings the port UP with its
round-trip time, and credits and SEQ start at each VC (R281). (The model's choices it rests on: log entries 94, 98.) -/
def Obligations.LinkComesUp : Prop :=
  ∀ (s : State) (q : PortId) (w : Flit),
    let x := s.port q.toNat
    let role' := roleOf s q.toNat
    let f (lo n : Nat) : Nat := fld w.toNat lo n
    x.lpi = false →
    (role' = 0 ∨ 2 ≤ x.state.toNat ∨ (s.mdl.fatal = true ∧ q.toNat < 6) → exec (.linkBringUp q) s = .next s) ∧
    (q.toNat < 7 → role' ≠ 0 → x.state.toNat < 2 → (s.mdl.fatal = false ∨ q.toNat = 6) → ∃ t, exec (.linkBringUp q) s = .next t ∧
      t.port q.toNat = { x with state := 2 } ∧
      t.out = .flit q.toNat (closeFlit 4 (helloBits s.pcl.id.toNat q.toNat role')) :: s.out) ∧
    (FlitOk q.toNat 4 0 w s → x.state = 2 → f 43 3 = role' → ∃ t, exec (.hello q w) s = .next t ∧
      t.port q.toNat = { x with peer := BitVec.ofNat 24 (f 16 24), echoAt := some s.aon.toNat } ∧
      t.out = (if q.toNat < 6 then [.flit q.toNat (closeFlit 4 (waketolBits (portTol s q.toNat)))] else []) ++
        .flit q.toNat (closeFlit 4 (echoBits 0 s.aon.toNat)) :: s.out) ∧
    (FlitOk q.toNat 4 0 w s → x.state = 2 → f 43 3 ≠ role' → ∃ t, exec (.hello q w) s = .next t ∧
      (t.port q.toNat).state = 0 ∧ (t.port q.toNat).downs = Nat.min 0xFFFF (x.downs + 1) ∧ t.out = s.out) ∧
    (FlitOk q.toNat 4 1 w s → ∃ t, exec (.echo q w) s = .next t ∧ t.pcl = s.pcl ∧
      t.out = .flit q.toNat (closeFlit 4 (echoBits 1 (f 128 32))) :: s.out) ∧
    (∀ n, FlitOk q.toNat 4 2 w s → x.state = 2 → x.echoAt = some n → f 128 32 = n % 2 ^ 32 →
      ∃ t, exec (.echoReply q w) s = .next t ∧
        (t.port q.toNat).state = 3 ∧ (t.port q.toNat).rtt = BitVec.ofNat 24 (s.aon.toNat - n) ∧
        (q.toNat ≠ 6 → ∀ v, v < 8 → (x.vc v).queue = [] → (x.vc v).rstDue = false → (t.port q.toNat).vc v = { x.vc v with
          credits := vcShare s q.toNat v, seq := 0, expect := 0, sent := [], again := 0, owed := 0, nak := false }))

/-- Flow control and replay (R281, R282). A CREDIT flit adds its credits to its VC and frees the frames that its ACK covers;
with NAK and a frame left, the VC replays. A CREDIT flit that leaves carries the credits due, the last SEQ received in order
and NAK. A frame that fails its check is not acted on: NAK leaves and the SEQ expected stays (R278, R282). A control flit of a
reserved type is discarded and counted in BADTYPE (R278, R316), one whose FCRC fails is discarded (R279), and before a port's FEC is
aligned none arrives. (The model's choices it rests on: log entries 83, 94.) -/
def Obligations.LinkFlowControl : Prop :=
  (∀ (s : State) (q : PortId) (w : Flit),
    let x := s.port q.toNat
    let v := fld w.toNat 4 3
    let c := x.vc v
    let left := c.sent.filter (fun e => !decide ((BitVec.ofNat 16 (fld w.toNat 20 16) - e.2.seq).toNat < 32768))
    s.twin.detach = none → q.toNat < 6 → FlitOk q.toNat 1 0 w s → x.state = 3 → x.lpi = false → c.queue = [] →
    (bit w.toNat 7 = false → ∃ t, exec (.credit q w) s = .next t ∧ (t.port q.toNat).vc v = { c with
      credits := c.credits + fld w.toNat 8 12, sent := left, again := if left.length < c.sent.length then 0 else c.again }) ∧
    (bit w.toNat 7 = true → left ≠ [] → c.again < 15 → c.rst = false → vcGlazed s q.toNat v = false →
      ∃ t, exec (.credit q w) s = .next t ∧ (t.port q.toNat).replays = Nat.min 0xFFFF (x.replays + 1) ∧
        ((t.port q.toNat).vc v).sent = left ∧
        ∀ e ∈ left, ∃ g, Out.frame q.toNat e.1 g ∈ t.out ∧ g.seq = e.2.seq ∧ g.payload = e.2.payload ∧ g.tag = e.2.tag)) ∧
  (∀ (s : State) (q : PortId) (v : BitVec 3) (f : Frame),
    let x := s.port q.toNat
    let c := x.vc v.toNat
    let credits (v : Nat) (nak : Bool) : Out := .flit q.toNat (closeFlit 1
      (creditBits v (if nak then 1 else 0) (Nat.min 4095 (x.vc v).owed) ((x.vc v).expect - 1).toNat))
    x.lpi = false →
    (2 ≤ x.state.toNat → ∃ t, exec (.creditReturn q v) s = .next t ∧ t.out = credits v.toNat c.nak :: s.out ∧
      (t.port q.toNat).vc v.toNat = { c with owed := c.owed - Nat.min 4095 c.owed }) ∧
    (∀ i ∈ ([(.rxSend q f, 5), (.rxOpen q f, 6), (.rxContrib q f, 7), (.rxGather q f, 8), (.rxTrailer q f, 9)] : List (Instr × Nat)),
      q.toNat < 6 → x.state = 3 → fcrcOk i.2 f = false → ∃ t, exec i.1 s = .next t ∧
        credits f.vc.toNat true ∈ t.out ∧ ((t.port q.toNat).vc f.vc.toNat).expect = (x.vc f.vc.toNat).expect ∧
        (∀ p, ((s.part p).live = (t.part p).live)))) ∧
  (∀ (s : State) (q : PortId) (w : Flit) (i : Instr),
    i ∈ [.credit q w, .bready q w, .halt q w, .hello q w, .echo q w, .echoReply q w, .vcreset q w, .waketol q w, .lpi q w] →
    ((s.port q.toNat).state.toNat < 2 → exec i s = .next s) ∧
    (2 ≤ (s.port q.toNat).state.toNat → 0xE ≤ fld w.toNat 0 4 →
      exec i s = .next (s.modPort q.toNat (fun p => { p with badtype := Nat.min 0xFFFF (p.badtype + 1) }))) ∧
    (fld w.toNat 0 4 < 0xE → fld w.toNat 224 32 ≠ closeFrame.crc32cOf (leBytes 28 (w.toNat % 2 ^ 224)) → exec i s = .next s))

/-- The loss of a port that was in use halts each partition whose job uses it, and the port trains again (R285, R441). HALT is
forwarded once on the job's other ports and stops the owning partition, and a second one of the job has no effect (R309). VCRESET
of the job that owns the VC completes the exchange with an empty VC (R286); any other has no effect. Low-power idle and wake
tolerance (R423, R424): an LPI at an UP port with no frame waiting is answered and the port idles, with a frame waiting it is
noted; a wake ends the idle and wakes the device; WAKETOL is stored; the tolerances are repeated on every collective port that is in
use and not idle. (The model's choices it rests on: log entry 94.) -/
def Obligations.LinkLossAndIdle : Prop :=
  (∀ (s : State) (q : PortId) (k : Nat) (w : Flit), s.Shaped → k < 8 →
    let x := s.port q.toNat
    let p := topoOwner s k
    let f (lo n : Nat) : Nat := fld w.toNat lo n
    let v := f 4 3
    let job := f 96 16
    topoKind s k ≠ 0 → (topoPorts s k).contains q.toNat = true →
    (q.toNat < 6 → s.twin.detach = none → 2 ≤ x.state.toNat → ∃ t, exec (.portDown q) s = .next t ∧
      (t.port q.toNat).state = 1 ∧ (t.port q.toNat).downs = Nat.min 0xFFFF (x.downs + 1) ∧
      ((s.part p).live = true → (s.part p).ctxB.loaded = true → (t.part p).pstate = 5)) ∧
    (FlitOk q.toNat 3 0 w s → topoJob s k = job → BitVec.ofNat 16 job ∉ s.pcl.halted → ∃ t, exec (.halt q w) s = .next t ∧
      BitVec.ofNat 16 job ∈ t.pcl.halted ∧ (t.part p).live = false ∧
      (∀ r ∈ topoPorts s k, r ≠ q.toNat → 2 ≤ (s.port r).state.toNat →
        Out.flit r (closeFlit 3 (haltBits (f 16 24) (f 64 16 + 1) job (f 128 16))) ∈ t.out)) ∧
    (FlitOk q.toNat 3 0 w s → BitVec.ofNat 16 job ∈ s.pcl.halted → exec (.halt q w) s = .next s) ∧
    (FlitOk q.toNat 4 3 w s → topoAt s q.toNat v = some k → topoJob s k = job → x.lpi = false →
      let c := x.vc v
      c.queue = [] → ∃ t, exec (.vcreset q w) s = .next t ∧ (t.port q.toNat).vc v =
        if c.rst && c.rstSent then { vc0 with credits := c.credits, owed := c.owed } else { c with rstGot := true }) ∧
    (FlitOk q.toNat 4 3 w s → topoAt s q.toNat v = some k → topoJob s k ≠ job → exec (.vcreset q w) s = .next s)) ∧
  (∀ (s : State) (q : PortId) (w : Flit),
    let x := s.port q.toNat
    let none_ := x.vcs.all (fun e => e.2.queue == [] && e.2.sent == [])
    (q.toNat < 6 → FlitOk q.toNat 4 5 w s → x.state = 3 → x.lpi = false → x.lpiSent = false → none_ = true →
      ∃ t, exec (.lpi q w) s = .next t ∧
        t.port q.toNat = { x with lpi := true, lpiSent := true, lpiGot := true } ∧
        t.out = .flit q.toNat (closeFlit 4 lpiBits) :: s.out) ∧
    (q.toNat < 6 → FlitOk q.toNat 4 5 w s → x.state = 3 → x.lpiSent = false → none_ = false → ∃ t, exec (.lpi q w) s = .next t ∧
      t.port q.toNat = { x with lpiGot := true } ∧ t.out = s.out) ∧
    (x.lpi = true → none_ = true → ∃ t, exec (.linkWake q) s = .next t ∧
      t.port q.toNat = { x with lpi := false, lpiSent := false, lpiGot := false } ∧ t.out = s.out ∧
      (s.pwr.state = 0 ∧ s.pwr.change = none ∨ t.pwr.change = some (0, false))) ∧
    (x.lpi = false → exec (.linkWake q) s = .next s) ∧
    (q.toNat < 6 → FlitOk q.toNat 4 4 w s → ∃ t, exec (.waketol q w) s = .next t ∧
      t.port q.toNat = { x with ptol := BitVec.ofNat 16 (fld w.toNat 16 16), tolOk := true } ∧ t.out = s.out) ∧
    (∃ t, exec .waketolRepeat s = .next t ∧ t.pcl = s.pcl ∧
      ∀ r, r < 6 → 2 ≤ (s.port r).state.toNat → (s.port r).lpi = false →
        Out.flit r (closeFlit 4 (waketolBits (portTol s r))) ∈ t.out))

/-- OPEN (R118, R288, R289, R297): on a closed slot the next bucket starts: STEP counts up, the slot holds the tag, the
owner and the descriptor, nothing has arrived, the ledger entries stay, and BREADY leaves on every port of the topology whose FEC is
aligned; for a reduction the blocks that this device owns have their scales (R296). On an open slot or past the slots of the
partition, and at the first use of a descriptor that names a topology of another owner, one clamp of source 7 counts and nothing
else happens (R291, R313). SEND on an
open slot gives its bytes, tile after tile, to the VC of the ring in frames of up to 1,024 bytes (R310). CONTRIB on an open
slot takes effect once, as the local input at SPA, and opens a reduction's window (R291, R304); on a closed slot, or a
second time, one clamp of source 7 counts. A BREADY is kept and the frames that waited for it leave; it is repeated on each
port that no frame of the bucket has come from (R297). (The model's choices it rests on: log entries 25, 28, 30, 93.) -/
def Obligations.XchOpcodes : Prop :=
  (∀ (s : State) (p : PartId) (sl : XchSlot), s.quiet p.toNat = true →
    let q := s.part p.toNat
    let n := slotBase s p.toNat + sl.bslot.toNat
    let b := s.bucket n
    let w := (upTo 8).map (fun j => q.reg (0x4000 + 8 * sl.desc.toNat + j))
    let kind := fld (nth 0 w 0) 0 2
    let k := fld (nth 0 w 0) 2 3
    let mine := topoKind s k ≠ 0 ∧ topoOwner s k = p.toNat
    let used := ∀ j, j < 8 → q.isFresh (0x4000 + 8 * sl.desc.toNat + j) = false
    (slotCount s p.toNat ≤ sl.bslot.toNat → exec (.xchOpen p sl) s = .next ((clamp p.toNat 7 s).clocked p.toNat 1)) ∧
    (sl.bslot.toNat < slotCount s p.toNat → ¬ mine → exec (.xchOpen p sl) s = .next
      ((clampIf (q.isFresh (0x4000 + 8 * sl.desc.toNat)) p.toNat 7 (xdescUse p.toNat sl.desc.toNat s)).clocked p.toNat 1)) ∧
    (sl.bslot.toNat < slotCount s p.toNat → used → mine → b.waits = [] → b.opened = true →
      exec (.xchOpen p sl) s = .next ((clamp p.toNat 7 s).clocked p.toNat 1)) ∧
    (sl.bslot.toNat < slotCount s p.toNat → mine → b.waits = [] → b.opened = false → b.copying = false →
      (kind = 0 → s.pcl.early = []) → ∃ t, exec (.xchOpen p sl) s = .next t ∧
        (kind = 0 ∨ kind = 2 → t.bucket n = { bucket0 with
          step := b.step + 1, opened := true, tag := sl.tag, owner := p.toNat, gen := q.gen, desc := w, ledgers := b.ledgers }) ∧
        (kind = 1 ∨ kind = 3 → (t.bucket n).opened = true ∧ (t.bucket n).step = b.step + 1 ∧ (t.bucket n).tag = sl.tag ∧
          (t.bucket n).contrib = false ∧ (t.bucket n).attempt = 0 ∧ (t.bucket n).ledgers = b.ledgers ∧
          ∀ i, i < (ownedBlocks t (t.bucket n)).2 → (mget none (t.bucket n).scales ((ownedBlocks t (t.bucket n)).1 + i)).isSome) ∧
        (∀ m, m ≠ n → t.bucket m = s.bucket m) ∧
        (∀ r ∈ topoPorts s k, 2 ≤ (s.port r).state.toNat →
          Out.flit r (closeFlit 2 (breadyBits (topoVc s k) sl.tag.toNat (topoJob s k) (b.step + 1).toNat)) ∈ t.out))) ∧
  (∀ (s : State) (p : PartId) (sl : XchSlot), s.quiet p.toNat = true →
    let q := s.part p.toNat
    let n := slotBase s p.toNat + sl.bslot.toNat
    let b := s.bucket n
    let w := (upTo 8).map (fun j => q.reg (0x4000 + 8 * sl.desc.toNat + j))
    let k := fld (nth 0 w 0) 2 3
    let ec := fld (nth 0 w 3) 0 34
    let bs := q.tiles.flatMap (fun t => (upTo ec).map (fun i => rd8 (s.tile t).scratch ((64 * sl.spa.toNat + i) % 8388608)))
    let c := Nat.max 1 (cdiv bs.length 1024)
    let all (s : State) : List (Nat × Frame) := vcFrames s (topoDn s k 0) (topoVc s k)
    sl.bslot.toNat < slotCount s p.toNat → topoKind s k ≠ 0 → topoOwner s k = p.toNat → b.waits = [] → b.desc = w → b.winOpen = none →
    (∀ t l, (s.tile t).pois .scratch l = false) →
    (b.opened = true → b.kind = 0 → b.contrib = false → ∃ t, exec (.xchSend p sl) s = .next t ∧ (t.bucket n).contrib = true ∧
      (all t).length = (all s).length + c ∧
      ∀ i, i < c → ∃ f, (all t)[(all s).length + i]? = some (5, f) ∧ f.dst.toNat = b.peer ∧ f.tag = b.tag ∧ f.step = b.step ∧
        f.offset.toNat = i ∧ f.last = decide (i + 1 = c) ∧ f.payload.take ((bs.drop (1024 * i)).take 1024).length = (bs.drop (1024 * i)).take 1024) ∧
    (b.opened = true → b.kind ≠ 0 → b.contrib = false → ∃ t, exec (.xchContrib p sl) s = .next t ∧ (t.bucket n).contrib = true ∧
      (t.bucket n).spa = sl.spa.toNat ∧ (b.kind = 1 ∨ b.kind = 3 → (t.bucket n).winOpen.isSome = true)) ∧
    ((∀ j, j < 8 → q.isFresh (0x4000 + 8 * sl.desc.toNat + j) = false) → b.opened = false ∨ b.contrib = true ∨ b.kind = 0 →
      exec (.xchContrib p sl) s = .next ((clamp p.toNat 7 s).clocked p.toNat 1)) ∧
    (∀ (r : PortId) (flit : Flit), FlitOk r.toNat 2 0 flit s → (s.port r.toNat).state = 3 → b.opened = true →
      n ∈ s.pcl.buckets.map (·.1) → fld flit.toNat 80 16 = b.tag.toNat → fld flit.toNat 96 16 = topoJob s b.topo →
      fld flit.toNat 112 16 = b.step.toNat →
      ∃ t, exec (.bready r flit) s = .next t ∧ (b.tag, BitVec.ofNat 16 (topoJob s b.topo), b.step) ∈ (t.port r.toNat).ready ∧
        (t.bucket n).outq = b.outq.filter (fun e => e.1 != r.toNat)) ∧
    (∀ slot : Byte, slot.toNat = sl.bslot.toNat → b.opened = true → ∃ t, exec (.breadyRepeat p slot) s = .next t ∧
      (∀ m, t.bucket m = s.bucket m) ∧
      ∀ r ∈ topoPorts s b.topo, r ∉ b.heard → 2 ≤ (s.port r).state.toNat →
        Out.flit r (closeFlit 2 (breadyBits (topoVc s b.topo) b.tag.toNat (topoJob s b.topo) b.step.toNat)) ∈ t.out))

/-- What each frame of a bucket brings once it has passed its check on the VC of its job (R282, R286): a SEND for another
device goes on down the ring with HOP + 1, one whose slot is not open is held (R291), the others stand in the tiles (R310);
OPEN sets scales (R296); CONTRIB before the local contribution is held on a ring (R305) and added to the block's sum in a
tree (R300), and one of a later attempt waits, its tick kept for that attempt's window (R303, R304); a trailer is noted (R299); GATHER is placed and counted (R301). `idle` says that no SEND of this device
stands acknowledged and not completed. (The model's choices it rests on: log entries 25, 26, 27, 29.) -/
def Obligations.BucketFramesArrive : Prop :=
  ∀ (s : State) (q : PortId) (f : Frame), s.Shaped →
    let all (s : State) (k : Nat) : List (Nat × Frame) :=
      let x := (s.port (topoDn s k 0)).vc f.vc.toNat
      x.sent ++ x.queue
    let idle (u : State) : Prop := ∀ m, (u.bucket m).opened = true → (u.bucket m).kind = 0 → (u.bucket m).acked = false
    (∀ u k, rxAccept q.toNat 5 f s = (u, true) → topoAt u q.toNat f.vc.toNat = some k → f.dst ≠ u.pcl.id → f.hop.toNat < 0xFFFE → topoDn u k 0 < 6 →
      ∃ t, exec (.rxSend q f) s = .next t ∧ ∃ g, (all t k).length = (all u k).length + 1 ∧ (all t k).getLast? = some (5, g) ∧
        g.hop = f.hop + 1 ∧ g.payload = f.payload ∧ g.tag = f.tag ∧ g.step = f.step ∧ g.src = f.src ∧ g.dst = f.dst ∧ g.offset = f.offset) ∧
    (∀ u k, rxAccept q.toNat 5 f s = (u, true) → topoAt u q.toNat f.vc.toNat = some k → f.dst = u.pcl.id → findSlot u k f = none →
      ∃ t, exec (.rxSend q f) s = .next t ∧ t.pcl.early = u.pcl.early ++ [(q.toNat, f)]) ∧
    (∀ u k n, rxAccept q.toNat 5 f s = (u, true) → topoAt u q.toNat f.vc.toNat = some k → f.dst = u.pcl.id → findSlot u k f = some n →
      let b := u.bucket n
      let ts := (s.part b.owner).tiles
      let len := Nat.min f.payload.length (ts.length * b.ec - 1024 * f.offset.toNat)
      b.kind = 0 → idle u → (u.seq b.owner).hot = [] → ts ≠ [] → b.ec ≤ 8388608 → b.received + len < ts.length * b.ec → ∃ t, exec (.rxSend q f) s = .next t ∧
        (t.bucket n).received = b.received + len ∧
        ∀ i, i < len → let x := 1024 * f.offset.toNat + i
          rd8 (t.tile (nth 0 ts (x / b.ec))).scratch ((64 * b.dspa + x % b.ec) % 8388608) = nth 0 f.payload i) ∧
    (∀ u k n, rxAccept q.toNat 6 f s = (u, true) → topoAt u q.toNat f.vc.toNat = some k → findSlot u k f = some n →
      let b := u.bucket n
      let c := sched u b (dirOf u b q.toNat) f.hop.toNat
      let h := halfOf u b (dirOf u b q.toNat) c
      let r := if bTree u b then (0, bBlocks u b) else ((chunk u b c).1, h.1 + h.2)
      ∃ t, exec (.rxOpen q f) s = .next t ∧ ∀ i, i < f.payload.length → f.offset.toNat + i < r.2 →
        mget none (t.bucket n).scales (r.1 + f.offset.toNat + i) = some (nth 0 f.payload i)) ∧
    (∀ u k n, rxAccept q.toNat 7 f s = (u, true) → topoAt u q.toNat f.vc.toNat = some k → findSlot u k f = some n →
      let b := u.bucket n
      b.contrib = false → b.localLate = false → b.winOpen = none → b.lateParts = [] → f.attempt.toNat = b.attempt →
      ∃ t, exec (.rxContrib q f) s = .next t ∧ (t.bucket n).winOpen = some s.aon.toNat ∧ q.toNat ∈ (t.bucket n).heard ∧
        (bTree u b = false → (t.bucket n).held = b.held ++ [⟨q.toNat, 7, f, none⟩]) ∧
        (bTree u b = true → f.empty = false → ∀ i, i < (frameBlocks b f).length → f.offset.toNat + i < bBlocks u b →
          let j := f.offset.toNat + i
          let v := dequant f.fmt.toNat (nth [] (frameBlocks b f) i)
          let old := mget [] b.sums j
          mget [] (t.bucket n).inputs j = mget [] b.inputs j ++ [q.toNat] ∧
            mget [] (t.bucket n).sums j = if old = [] then v else (old.zip v).map (fun w => fadd w.1 w.2))) ∧
    (∀ u k n, rxAccept q.toNat 7 f s = (u, true) → topoAt u q.toNat f.vc.toNat = some k → findSlot u k f = some n →
      let b := u.bucket n
      b.winOpen = none → b.attempt < f.attempt.toNat → ∃ t, exec (.rxContrib q f) s = .next t ∧
        (t.bucket n).held = b.held ++ [⟨q.toNat, 7, f, some s.aon.toNat⟩] ∧
        (t.bucket n).nextOpen = some (b.nextOpen.getD s.aon.toNat) ∧ (t.bucket n).attempt = b.attempt) ∧
    (∀ u k n, rxAccept q.toNat 9 f s = (u, true) → topoAt u q.toNat f.vc.toNat = some k → findSlot u k f = some n →
      let b := u.bucket n
      let dir := dirOf u b q.toNat
      let num (i len : Nat) : Nat := leNat ((f.payload.drop i).take len)
      bTree u b = false → f.attempt.toNat = b.attempt → (b.trailers.filter (fun e => e.1 == dir)).length + 1 < bD u b →
      ∃ t, exec (.rxTrailer q f) s = .next t ∧ (t.bucket n).trailers =
        b.trailers ++ [(dir, sched u b dir f.hop.toNat, num 0 2, num 2 2, num 4 1 % 2 == 1)]) ∧
    (∀ u k n, rxAccept q.toNat 8 f s = (u, true) → topoAt u q.toNat f.vc.toNat = some k → findSlot u k f = some n →
      let b := u.bucket n
      let dir := dirOf u b q.toNat
      let c := sched u b dir f.hop.toNat
      let h := halfOf u b dir c
      let cnt := Nat.min (frameBlocks b f).length (h.1 + h.2 - f.offset.toNat)
      let m : Map Nat := mset 0 b.gathered (2 * c + dir) (mget 0 b.gathered (2 * c + dir) + cnt)
      bTree u b = false → idle u → (u.seq b.owner).hot = [] → b.kind ≠ 1 → b.bcast = false → bTb u b * b.osize ≤ 8388608 → gatherAll u { b with gathered := m } = false →
      ∃ t, exec (.rxGather q f) s = .next t ∧ (t.bucket n).gathered = m ∧
        ∀ i e, i < cnt → e < 32 → let x := 32 * ((chunk u b c).1 + f.offset.toNat + i) + e
          x < bCount u b → let a := elemPlace u b b.dspa b.osize x
            rdBytes (t.tile a.1).scratch a.2 b.osize = ((nth [] (frameBlocks b f) i).drop (b.osize * e)).take b.osize)

/-- A straggler window closes when its tick has come, not before (R304): with every input here nothing is late; with no
local contribution the local input is late, and the attempt has it for the ledger (R305, R306). The end of a ledger copy lets
the slot open again: the late input stands with the attempt that runs, or the entry of the bucket that is over waits for it no
more (R306). (The model's choices it rests on: log entries 27, 94, 95.) -/
def Obligations.WindowsAndLedger : Prop :=
  ∀ (s : State) (p : PartId) (slot : Byte), s.Shaped → slot.toNat < slotCount s p.toNat →
    let n := slotBase s p.toNat + slot.toNat
    let b := s.bucket n
    let h := b.step.toNat % 2
    let due := ∃ w, b.winOpen = some w ∧ w + b.win ≤ s.aon.toNat
    (¬ due → exec (.stragglerWindowClose p slot) s = .next s) ∧
    (due → b.opened = true → b.reduces = true → b.winClosed = false → b.win ≠ 0 → bTree s b = false →
      (b.contrib = true → b.localLate = false → b.held = [] → (∀ dir ∈ topoDirs s b.topo, inKey dir (sched s b dir 0) ∈ b.arrived ∧ ∀ k, k < bD s b → k ≠ 0 →
          halfCount s b dir (sched s b dir k) ≤ mget 0 b.seen (inKey dir (sched s b dir k))) →
        exec (.stragglerWindowClose p slot) s = .next (s.modBucket n (fun b => { b with winClosed := true }))) ∧
      (b.contrib = false → b.held = [] → b.trailers = [] → 2 ≤ bD s b → b.lateParts = [] → ∃ t, exec (.stragglerWindowClose p slot) s = .next t ∧
        (t.bucket n).winClosed = true ∧ (t.bucket n).localLate = true ∧ (t.bucket n).late.1 = 1 ∧
        (localKey, 1) ∈ (t.bucket n).booked.wants)) ∧
    (b.copying = false → exec (.ledgerCopyDone p slot) s = .next s) ∧
    (b.copying = true → b.waits = [] → ∃ t, exec (.ledgerCopyDone p slot) s = .next t ∧
      (t.bucket n).copying = false ∧
        (b.opened = true → (∀ m, (localKey, m) ∈ b.booked.wants → m ≤ 1) →
          (∀ m, (localKey, m) ∉ (t.bucket n).booked.wants) ∧
          (bBlocks s b ≠ 0 → (0, (upTo (bBlocks s b)).map (localBlock s { b with folded := none })) ∈ (t.bucket n).booked.data)) ∧
        (b.opened = false → (∀ l m, mget none b.ledgers h = some l → (localKey, m) ∈ l.wants → m ≤ 1) →
          ∀ l m, mget none (t.bucket n).ledgers h = some l → (localKey, m) ∉ l.wants))

/-! Storage endpoints, checkpoints. -/

/-- Storage traffic (R311): a write of a unit and a read of units leave on a storage port, the read outstanding until its
last unit, and on no other port; a unit that arrives is the next of the read that waits for it. (The model's choices it
rests on: log entries 21, 72.) -/
def Obligations.StorageFrames : Prop :=
  ∀ (s : State) (q : PortId) (stream : Half) (unit : Word) (count : DWord) (data : List Byte) (f : Frame),
    (q.toNat < 6 → roleOf s q.toNat = 2 → data.length ≤ 1024 → ∃ t, exec (.swr q stream unit data) s = .next t ∧
      ∃ g, (vcFrames t q.toNat 0).length = (vcFrames s q.toNat 0).length + 1 ∧ (vcFrames t q.toNat 0).getLast? = some (0xA, g) ∧ g.tag = stream ∧ g.offset = unit ∧
        g.payload.take data.length = data ∧ g.payload.length = 1024) ∧
    (q.toNat < 6 → roleOf s q.toNat = 2 → ∃ t, exec (.srd q stream unit count) s = .next t ∧
      t.pcl.srds = s.pcl.srds ++ [⟨q.toNat, stream.toNat, unit.toNat, count.toNat, .gone, [], 0⟩] ∧
      ∃ g, (vcFrames t q.toNat 0).length = (vcFrames s q.toNat 0).length + 1 ∧ (vcFrames t q.toNat 0).getLast? = some (0xB, g) ∧ g.tag = stream ∧ g.offset = unit ∧ leNat (g.payload.take 8) = count.toNat) ∧
    (6 ≤ q.toNat ∨ roleOf s q.toNat ≠ 2 →
      exec (.swr q stream unit data) s = .next s ∧ exec (.srd q stream unit count) s = .next s) ∧
    (∀ u r rest, rxAccept q.toNat 0xC f s = (u, true) → f.nflit ≠ 0 → u.pcl.srds = r :: rest → r.port = q.toNat → r.stream = f.tag.toNat →
      r.unit = f.offset.toNat → 1 < r.count → ∃ t, exec (.srsp q f) s = .next t ∧
        t.pcl.srds.head? = some { r with unit := r.unit + 1, count := r.count - 1, got := r.got ++ f.payload })

/-- A checkpoint's course (R441, R443–R447): the interval's end makes one due for a running context B and wakes the device;
a CHECKPOINT_NOW waits for the next boundary, and without a running context B or a target is refused; the capture's end ends
the stall; the drain writes the header first, bearing its boundary, as unit 0 of its target; a held write's line is read
ahead of the drain in its class's slot, while the staging buffer has room (R162). (The model's choices it rests on: log entries 22, 23, 81, 94.) -/
def Obligations.CheckpointCourse : Prop :=
  ∀ (s : State) (p : PartId) (h : EntryHead), s.Shaped →
    let q := s.part p.toNat
    let k := q.ckp
    (ckTgt s ≠ 0 → k.kper = 0 → q.ctxB.loaded = true → ∃ t, exec (.checkpointIntervalExpiry p) s = .next t ∧
      (t.part p.toNat).ckp = { k with due := true } ∧ (s.pwr.state = 0 ∧ s.pwr.change = none ∨ t.pwr.change = some (0, false))) ∧
    (ckTgt s = 0 ∨ k.kper ≠ 0 ∨ q.ctxB.loaded = false → exec (.checkpointIntervalExpiry p) s = .next s) ∧
    (EntryReady p.toNat h 7 anyBody s → q.ctxB.loaded = true → ckTgt s ≠ 0 → ∃ t, exec (.checkpointNow p h) s = .next t ∧
      (t.part p.toNat).ckp.nows = k.nows ++ [workStarted p.toNat h 7 s] ∧ (t.queue p.toNat h.q.toNat).fetched = []) ∧
    (EntryReady p.toNat h 7 anyBody s → q.ctxB.loaded = false ∨ ckTgt s = 0 → ∃ t, exec (.checkpointNow p h) s = .next t ∧
      Completes p.toNat h 7 2 s t ∧ (t.part p.toNat).ckp = k) ∧
    (∀ j, k.jobs.find? (fun j => !j.captured) = some j → (∀ n l, (s.tile n).pois .scratch l = false) →
      ∃ t, exec (.checkpointCaptureEnd p) s = .next t ∧
        (t.part p.toNat).ckp.jobs = k.jobs.map (fun j => if j.captured then j else { j with captured := true })) ∧
    (k.jobs = [] → exec (.checkpointCaptureEnd p) s = .next s ∧ exec (.checkpointUnitDrain p) s = .next s) ∧
    (∀ j rest, k.jobs = j :: rest → j.captured = true → j.next = 0 → j.bound < 2 ^ 64 → 16 ≤ ckRoom s → (ckTgt s = 1 → portUp s (ckPort s) = true) →
      ∃ t, exec (.checkpointUnitDrain p) s = .next t ∧ ∃ data : List Byte, data.length = 1024 ∧
        leNat (data.take 4) = 0x54504B43 ∧ leNat ((data.drop 8).take 8) = j.bound ∧
        (t.part p.toNat).ckp.jobs = { j with next := 1, sent := j.sent ++ data } :: rest ∧
        (ckTgt s = 1 → ∃ e ∈ vcFrames t (ckPort s) 0, e.1 = 0xA ∧ e.2.tag.toNat = ckStream s % 65536 ∧
          e.2.offset.toNat = (p.toNat * 2 ^ 27 + k.cseq % 2 * 2 ^ 26) % 2 ^ 32 ∧ e.2.payload = data)) ∧
    ((∀ l ∈ q.seq.lines, l.write.isSome = true → drainHolds q l.pline = false) → exec (.checkpointHeldLineRead p) s = .next s) ∧
    (∀ l, q.seq.lines.find? (fun l => l.write.isSome && drainHolds q l.pline) = some l → ckRoom s ≠ 0 →
      unitMay s 2 p.toNat [l.pline] = true → ∃ t, exec (.checkpointHeldLineRead p) s = .next t ∧
        ∀ j, j ∈ (t.part p.toNat).ckp.jobs → ckUnread j l.pline = false) ∧
    (ckRoom s = 0 → exec (.checkpointHeldLineRead p) s = .next s)

/-! Crusts and Fillings. -/

/-- FILLING_STAGE of an Empty descriptor of the partition's range waits under its entry, begun unless a stale walk covers
the descriptor (R181, R185, R194); another is refused. FILLING_EVICT follows the states of R185; FORCE empties the
descriptor whatever its pins, and a stale walk for it falls due (R194). (The model's choices it rests on: log entries 78,
80.) -/
def Obligations.FillingsStageAndEvict : Prop :=
  ∀ (s : State) (p : PartId) (h : EntryHead) (b : StageBody) (i : FillId), s.Shaped →
    standbyRefuses s p.toNat = false →
    let d := s.desc i.toNat
    let mine := inRangeOf s p.toNat i.toNat = true
    (EntryReady p.toNat h 3 (fun bs => stageBody bs == b) s → b.fidx = i → (b.src = 0 ∨ (b.src = 1 ∧ b.port.toNat < 6 ∧ roleOf s b.port.toNat = 2)) → mine → d.state = 0 →
      s.stage i.toNat = none → ∃ t, exec (.fillingStage p h b) s = .next t ∧
        t.stage i.toNat = some ⟨workStarted p.toNat h 3 s, b, !walkCovers s i.toNat, none, [], false, false⟩ ∧ t.desc i.toNat = d) ∧
    (EntryReady p.toNat h 3 (fun bs => stageBody bs == b) s → b.fidx = i → b.src = 3 ∨
      (b.src = 1 ∧ ¬(b.port.toNat < 6 ∧ roleOf s b.port.toNat = 2)) ∨ ¬ mine ∨ d.state ≠ 0 → ∃ t, exec (.fillingStage p h b) s = .next t ∧
      Completes p.toNat h 3 2 s t ∧ t.fills = s.fills) ∧
    (EntryReady p.toNat h 4 (fun bs => evictBody bs == (false, i)) s → mine → d.state ≠ 1 → ∃ t, exec (.fillingEvict p h i) s = .next t ∧
      (d.state = 0 → t.desc i.toNat = d ∧ Completes p.toNat h 4 0 s t) ∧
      ((d.state = 2 ∨ d.state = 3) → d.pins = 0 → (t.desc i.toNat).state = 0 ∧ (t.desc i.toNat).gen = d.gen + 1 ∧ Completes p.toNat h 4 0 s t) ∧
      (d.state = 2 → d.pins ≠ 0 → t.desc i.toNat = { d with state := 3 } ∧ Completes p.toNat h 4 1 s t) ∧
      (d.state = 3 → d.pins ≠ 0 → t.desc i.toNat = d ∧ Completes p.toNat h 4 1 s t) ∧
      (d.state = 4 → t.desc i.toNat = { d with evreq := true } ∧ Completes p.toNat h 4 1 s t)) ∧
    (EntryReady p.toNat h 4 (fun bs => evictBody bs == (true, i)) s → mine → d.state ≠ 1 → d.state ≠ 0 → ∃ t, exec (.fillingEvictForce p h i) s = .next t ∧
      t.desc i.toNat = { d with state := 0, gen := d.gen + 1, evreq := false, pins := 0 } ∧ i ∈ t.fills.walkNext ∧ Completes p.toNat h 4 0 s t) ∧
    (EntryReady p.toNat h 4 (fun bs => evictBody bs == (false, i)) s → ¬ mine →
      (∃ t, exec (.fillingEvict p h i) s = .next t ∧ Completes p.toNat h 4 2 s t ∧ t.fills = s.fills)) ∧
    (EntryReady p.toNat h 4 (fun bs => evictBody bs == (true, i)) s → ¬ mine → (∃ t, exec (.fillingEvictForce p h i) s = .next t ∧ Completes p.toNat h 4 2 s t ∧ t.fills = s.fills))

/-- The course of a stage whose package comes over the host link or from a storage endpoint (R185, R189), and of the stale
walk (R194): a stage begins once no walk covers its descriptor; at a line that could not be read the descriptor returns to
Empty with the next GEN; at the last line it becomes Resident if its DIGEST is zero or that of the image, else Empty. The
walk marks the contexts whose pin names a descriptor that has been evicted by force since. A sorted batch's units (R198,
R202, R203): the order table stands in every tile at OTA; the next unit's copy begins when a buffer is free, and ends with
the unit counted; the buffer of a unit is released once the one after the next has been named. (The model's choices it rests
on: log entries 77, 94, 108.) -/
def Obligations.StagingCourse : Prop :=
  (∀ (s : State) (i : FillId),
    let d := s.desc i.toNat
    (∀ j, s.stage i.toNat = some j → j.begun = false → j.body.src ≠ 2 → j.hdr = none → walkCovers s i.toNat = false →
      ∃ t, exec (.stagingBegin i) s = .next t ∧ t.stage i.toNat = some { j with begun := true } ∧ t.fills.descs = s.fills.descs) ∧
    (s.stage i.toNat = none ∨ walkCovers s i.toNat = true → exec (.stagingBegin i) s = .next s) ∧
    (∀ j, s.stage i.toNat = some j → j.hdr.isSome = true → d.state = 1 → j.body.src ≠ 2 → j.bad = true → ∃ t, exec (.stagingPoisonLine i) s = .next t ∧
      t.stage i.toNat = none ∧ t.desc i.toNat = { d with state := 0, gen := d.gen + 1, evreq := false, pins := 0 }) ∧
    (∀ j, s.stage i.toNat = some j → (j.body.src ≠ 2 ∧ j.bad = false) ∨ d.state ≠ 1 → exec (.stagingPoisonLine i) s = .next s) ∧
    (∀ j, s.stage i.toNat = some j → j.hdr.isSome = true → d.state = 1 → j.body.src ≠ 2 → j.bad = false → j.img.length = 64 * d.wlen →
      ∃ t, exec (.stagingEnd i) s = .next t ∧
        (Config.sha384 j.img = d.digest ∨ d.digest = List.replicate 48 0 →
          t.desc i.toNat = { d with state := 2, digest := Config.sha384 j.img, evreq := false }) ∧
        (Config.sha384 j.img ≠ d.digest → (∃ b ∈ d.digest, b ≠ 0) →
          t.desc i.toNat = { d with state := 0, gen := d.gen + 1, evreq := false, pins := 0 } ∧ t.stage i.toNat = none)) ∧
    (s.fills.walk = none → s.fills.walkNext ≠ [] → ∃ t, exec .staleWalk s = .next t ∧
      t.fills.walk = some s.fills.walkNext ∧ t.fills.walkNext = [] ∧
      ∀ c, t.ctxRec c =
        if (s.ctxRec c).pinned = true ∧ (s.ctxRec c).fidx ∈ s.fills.walkNext ∧ (s.ctxRec c).pgen ≠ (s.desc (s.ctxRec c).fidx.toNat).gen then
          { s.ctxRec c with stale := true }
        else s.ctxRec c) ∧
    (s.fills.walk ≠ none ∨ s.fills.walkNext = [] → exec .staleWalk s = .next s) ∧
    (∃ t, exec .staleWalkEnd s = .next t ∧ t.fills = { s.fills with walk := none })) ∧
  (∀ (s : State) (p : PartId) (b : Batch), s.Shaped →
    let q := s.part p.toNat
    let f := q.fill
    f.batch = some b →
    (b.written = false → q.seq.hot = [] → ∃ t, exec (.orderTableWritten p) s = .next t ∧ (t.part p.toNat).fill = { f with batch := some { b with written := true } } ∧
      ∀ n ∈ q.tiles, ∀ i, i < 41024 →
        rd8 (t.tile n).scratch ((64 * srecOta f.srec + i) % 8388608) = nth 0 (orderBytes b) i) ∧
    (b.written = true → exec (.orderTableWritten p) s = .next s) ∧
    (srecEn f.srec = true → f.copied < b.units → f.copying = none → f.copied < f.released + 2 → q.live = true →
      exec (.unitCopyStart p) s = .next (s.modPart p.toNat (fun q => { q with fill := { q.fill with copying := some f.copied } }))) ∧
    (f.copying ≠ none ∨ b.units ≤ f.copied ∨ f.released + 2 ≤ f.copied → exec (.unitCopyStart p) s = .next s) ∧
    (∀ n g, f.copying = some n → b.groups[n % Nat.max 1 b.groups.length]? = some g →
      let d := s.desc g.fidx.toNat
      let layer := n / Nat.max 1 b.groups.length
      d.layers ≤ layer ∨ slicesMay p.toNat d layer (Nat.min d.slice (srecLen f.srec)) s = true →
      ∃ t, exec (.unitCopyEnd p) s = .next t ∧ (t.part p.toNat).fill.copied = n + 1 ∧ (t.part p.toNat).fill.copying = none) ∧
    (f.released + 2 ≤ f.named → exec (.stagingBufferRelease p) s =
      .next (s.modPart p.toNat (fun q => { q with fill := { q.fill with released := f.released + 1 } }))) ∧
    (f.named < f.released + 2 → exec (.stagingBufferRelease p) s = .next s))

/-- Crust versions (R178, R179, R402, R403): CRUST_LOAD makes an Absent version Loading and starts to read its package; at
the image's end the version is Present if the digest of the image is the package's, else Absent; CRUST_RETIRE makes a
Present version Retiring while descriptors name it, else Absent; a Retiring one that none names becomes Absent, its keys
destroyed and its slabs under a Glaze. (The model's choices it rests on: log entries 40, 116.) -/
def Obligations.CrustsComeAndGo : Prop :=
  ∀ (s : State) (env : Env) (v : Byte) (v1 : BitVec 1) (host : Bool) (port : PortId) (stream : Half) (addr : DWord),
    let absent (v : Nat) (t : State) : Prop := t.crust v = crust0 ∧ (t.keyReg (32 + crustKslot s v)).k0 = none ∧
      (t.keyReg (32 + crustKslot s v)).k1 = none ∧ ∀ n ∈ crustRegion s v, (mget none t.glazeSlabs n).isSome = true
    ((s.crust v1.toNat).state = 3 → crustFills s v1.toNat = 0 → ∃ t, exec (.crustAbsent v1) s = .next t ∧ absent v1.toNat t) ∧
    ((s.crust v1.toNat).state ≠ 3 ∨ crustFills s v1.toNat ≠ 0 → exec (.crustAbsent v1) s = .next s) ∧
    (MgmtPasses 0x120 1 env s → v.toNat < 2 → (s.crust v.toNat).state = 0 → crustSlabs s v.toNat ≠ 0 →
      (host = true ∨ (port.toNat < 6 ∧ roleOf s port.toNat = 2)) → (∀ n ∈ crustRegion s v.toNat, (s.slab n).avail = true) →
      ∃ t, exec (.crustLoad env v host port stream addr) s = .next t ∧
        t.crust v.toNat = ⟨1, []⟩ ∧ t.load v.toNat = some ⟨env.counter, host, port.toNat, stream.toNat, addr.toNat, [], 0, 0, []⟩) ∧
    (MgmtPasses 0x120 1 env s → 2 ≤ v.toNat ∨ (s.crust v.toNat).state ≠ 0 ∨ crustSlabs s v.toNat = 0 →
      ∃ t, exec (.crustLoad env v host port stream addr) s = .next t ∧ MgmtAnswered 0x120 1 env t ∧ t.fills = s.fills) ∧
    (∀ l, s.load v1.toNat = some l → l.checked = 4 → l.img.length = 64 * l.lines →
      let dig := padTo 48 (Config.sha384 l.img)
      ∃ t, exec (.crustLoadImageEnd v1) s = .next t ∧ t.load v1.toNat = none ∧
        t.crust v1.toNat = (if dig = (l.pkg.drop 32).take 48 then ⟨2, dig⟩ else crust0) ∧
        ∃ body sig, Out.mgmt 0x120 (if dig = (l.pkg.drop 32).take 48 then 0 else 7) l.counter body sig ∈ t.out) ∧
    (MgmtPasses 0x121 1 env s → v.toNat < 2 → (s.crust v.toNat).state ≠ 1 → ∃ t, exec (.crustRetire env v) s = .next t ∧
      MgmtAnswered 0x121 0 env t ∧
      ((s.crust v.toNat).state = 2 → 0 < crustFills s v.toNat → t.crust v.toNat = { s.crust v.toNat with state := 3 }) ∧
      ((s.crust v.toNat).state = 2 → crustFills s v.toNat = 0 → absent v.toNat t) ∧
      ((s.crust v.toNat).state ≠ 2 → t.fills = s.fills)) ∧
    (MgmtPasses 0x121 1 env s → v.toNat < 2 → (s.crust v.toNat).state = 1 → (s.load v.toNat).isSome = true →
      ∃ t, exec (.crustRetire env v) s = .next t ∧ MgmtAnswered 0x121 0 env t ∧ t.crust v.toNat = crust0 ∧ t.load v.toNat = none) ∧
    (MgmtPasses 0x121 1 env s → 2 ≤ v.toNat → ∃ t, exec (.crustRetire env v) s = .next t ∧ MgmtAnswered 0x121 1 env t ∧ t.fills = s.fills)

/-- Key rotation (R263–R267): a rotation that meets none loads a fresh key into the other epoch, one that meets a rotation, running
or waiting, waits as a whole; the load in effect makes the flip due; the flip makes the new epoch current and starts the sweep; the
sweep gives a line of the old epoch the current one, its data unchanged, and leaves one of the current epoch as it is; with no line
left the old key is destroyed and the rotation counts. (The model's choices it rests on: log entries 79, 94, 112.) -/
def Obligations.KeysRotate : Prop :=
  ∀ (s : State) (p : PartId) (h : EntryHead) (k : KeySlot) (env : Env) (sh : Byte) (errs : List SymErr), s.Shaped →
    let x := s.keyReg (slotNo k)
    let own := s.keyReg p.toNat
    (EntryReady p.toNat h 9 anyBody s → own.running = false → own.waiting = false → own.loading = none →
      ∃ t, exec (.keyRotate p h) s = .next t ∧ t.keyReg p.toNat = { own with
        loading := some (!own.cur, s.hbm.nextKey), running := true, heads := [workStarted p.toNat h 9 s], mgmt := [] }) ∧
    (EntryReady p.toNat h 9 anyBody s → own.running = true ∨ own.waiting = true → ∃ t, exec (.keyRotate p h) s = .next t ∧
      t.keyReg p.toNat = { own with waiting := true, waitHeads := own.waitHeads ++ [workStarted p.toNat h 9 s] }) ∧
    (∀ e id, x.loading = some (e, id) → ∃ t, exec (.keyLoadInEffect k) s = .next t ∧ (t.keyReg (slotNo k)).key e = some id ∧
      (t.keyReg (slotNo k)).key (!e) = x.key (!e) ∧ (t.keyReg (slotNo k)).loading = none ∧ (t.keyReg (slotNo k)).flipDue = x.running) ∧
    (x.loading = none → exec (.keyLoadInEffect k) s = .next s) ∧
    (x.flipDue = true → (slotNo k < 32 → glazesFor s (slotNo k) = false) → exec (.epochFlip k) s =
      .next (s.modKey (slotNo k) (fun x => { x with cur := !x.cur, flipDue := false, sweep := some ⟨0, 0, 0, []⟩ }))) ∧
    (x.flipDue = false → exec (.epochFlip k) s = .next s) ∧
    (∀ w, x.sweep = some w → slotSlabs s (slotNo k) = [] → ∃ t, exec (.sweepLine k errs) s = .next t ∧
      (t.keyReg (slotNo k)).key (!x.cur) = none ∧ (t.keyReg (slotNo k)).key x.cur = x.key x.cur ∧ (t.keyReg (slotNo k)).sweep = none ∧
      (t.keyReg (slotNo k)).running = false ∧ (t.keyReg (slotNo k)).rots = x.rots + 1) ∧
    (∀ w n m old key, x.sweep = some w → w.waits = [] → w.slab = n → w.line < 2 ^ 23 - 1 →
      (slotSlabs s (slotNo k)).filter (fun i => decide (n ≤ i)) = [n] →
      mget none s.glazeSlabs n = none → (s.slab n).avail = true → slotOf (s.slab n) = slotNo k →
      let dev := n * 2 ^ 29 + 64 * w.line
      c3May s dev = true → mget none s.hbm.lines dev = some m → mget [] s.hbm.flaws dev = [] → metaOk s dev m.md = true →
      mdPois m.md = false → x.key (mdEpoch m.md) = some old → m.keys = [old, old, old, old] → x.key x.cur = some key →
      ∃ t, exec (.sweepLine k []) s = .next t ∧ (∀ b, rd8 t.hbm.cells b = rd8 s.hbm.cells b) ∧
        mget none t.hbm.lines dev =
          some (if mdEpoch m.md = x.cur then m else ⟨mdMake false x.cur (slabOwner (s.slab n)), [key, key, key, key]⟩) ∧
        (t.keyReg (slotNo k)).sweep = some { w with line := w.line + 1 }) ∧
    (x.waiting = true → x.running = false → x.loading = none → ∃ t, exec (.keyRotateDeferredStart k) s = .next t ∧
      t.keyReg (slotNo k) = { x with
        loading := some (!x.cur, s.hbm.nextKey), running := true, heads := x.waitHeads, mgmt := x.waitMgmt, waiting := false
        waitHeads := [], waitMgmt := [] }) ∧
    (x.waiting = false ∨ x.running = true → exec (.keyRotateDeferredStart k) s = .next s) ∧
    (MgmtPasses 0x122 1 env s → sh.toNat < 8 → (∀ v, v < 2 → (s.crust v).state = 1 → crustKslot s v ≠ sh.toNat) →
      let y := s.keyReg (32 + sh.toNat)
      y.running = false → y.waiting = false → y.loading = none → ∃ t, exec (.sharedRotate env sh) s = .next t ∧
        t.keyReg (32 + sh.toNat) = { y with loading := some (!y.cur, s.hbm.nextKey), running := true, heads := [], mgmt := [env.counter] }) ∧
    (MgmtPasses 0x122 1 env s → 8 ≤ sh.toNat → ∃ t, exec (.sharedRotate env sh) s = .next t ∧ MgmtAnswered 0x122 1 env t ∧ t.hbm = s.hbm)

/-! The HBM system. -/

/-- Line slots (R226–R237, R246, R255): a slot goes to the oldest read of class C0, to a formed write batch, to class C1, to a
waiting write, in this order, but in a Hot stack to a write that has waited through seven slots, and after 31 slots to class C3, whose
own commands then take it; a line read without error whose metadata pass arrives as it is stored; a held channel grants nothing. A
Crumb request is served from its stack's cache and counted, or it waits for its pseudo-channel, and then enters the cache. A
write-back stores the line as corrected, or as read with POISON. A refresh changes nothing (log entry 9). (The model's choices it
rests on: log entries 6, 14, 94, 119.) -/
def Obligations.LineSlots : Prop :=
  ∀ (s : State) (c : ChanId) (pc : BitVec 1) (st : StackId) (p : PartId) (l : LineReq), s.Shaped →
    let k := 2 * c.toNat + pc.toNat
    let a := s.arb k
    let passes (dev : Nat) (md : Half) (keys : List Nat) : Prop := metaOk s dev md = true ∧ mdPois md = false ∧
      ∃ key, (s.keyReg (slotOf (s.slab (slabOf dev)))).key (mdEpoch md) = some key ∧ keys = [key, key, key, key]
    let sound (dev : Nat) : Prop := mget [] s.hbm.flaws dev = [] ∧ ∃ m, mget none s.hbm.lines dev = some m ∧ passes dev m.md m.keys
    let came (bs : List Byte) (t : State) : Prop := (t.seq p.toNat).lines = (s.seq p.toNat).lines.map (fun x =>
      if x = l then { x with arrived := some (bs, false) } else x)
    let floor : Prop := (s.therm (c.toNat / 32)).level = 2 ∧ 7 ≤ a.hot ∧ a.wq ≠ []
    let third : Prop := c3Pending s k = true ∧ 31 ≤ a.c3gap
    let nobody (cls : Nat) : Prop := ∀ q, q < 32 → (s.seq q).lines.find? (waitsAt s k cls) = none
    let alone (cls : Nat) : Prop := (s.seq p.toNat).lines.find? (waitsAt s k cls) = some l ∧
      ∀ q, q < 32 → q ≠ p.toNat → (s.seq q).lines.find? (waitsAt s k cls) = none
    let set := cacheSet s l.dev
    let cached := mget [] s.hbm.cache set
    (chanServes s c.toNat = true → ¬ third →
      (alone 0 → a.c0run < 16 → ¬ floor → sound l.dev → ∃ t, exec (.lineSlotGrant c pc []) s = .next t ∧
        came (rdBytes s.hbm.cells l.dev 64) t ∧
        (l.miss = true → (∃ i, i < 16 ∧ bit (mget 0 s.hbm.ways p.toNat).toNat i = true ∧ ∀ e ∈ cached, e.way ≠ i) →
          ∃ e ∈ mget [] t.hbm.cache set, e.dev = l.dev)) ∧
      (nobody 0 → alone 1 → a.batch = 0 ∨ a.wq = [] → ¬ floor → sound l.dev → l.miss = false →
        ∃ t, exec (.lineSlotGrant c pc []) s = .next t ∧ came (rdBytes s.hbm.cells l.dev 64) t) ∧
      (∀ errs, (nobody 0 ∧ nobody 1) ∨ floor → a.wq ≠ [] → ∃ t, exec (.lineSlotGrant c pc errs) s = .next t ∧
        ∃ w ∈ a.wq, (t.arb k).wq = a.wq.erase w ∧ (t.arb k).batch = a.batch - 1 ∧ t.hbm.cells = s.hbm.cells)) ∧
    (∀ errs, chanServes s c.toNat = false ∨ third → exec (.lineSlotGrant c pc errs) s = .next s) ∧
    (∃ t, exec (.writeBatchForm c pc) s = .next t ∧
      t.arb k = (if a.batch = 0 then { a with batch := Nat.min 32 a.wq.length } else a) ∧ ∀ n, n ≠ k → t.arb n = s.arb n) ∧
    exec (.refresh c pc) s = .next s ∧
    (∀ rest errs, mget [] s.hbm.crumbQ st.toNat = (p, l.id) :: rest → (s.seq p.toNat).lines.find? (fun x => x.id == l.id) = some l →
      (∀ e, cached.find? (fun e => e.dev == l.dev) = some e → e.line.bytes.length = 64 → passes l.dev e.line.md e.line.keys →
        ∃ t, exec (.crumbLineAccess st errs) s = .next t ∧ came e.line.bytes t ∧
          mget 0 t.hbm.crbHits st.toNat = mget 0 s.hbm.crbHits st.toNat + 1 ∧ (mget [] t.hbm.cache set).head? = some e) ∧
      (cached.find? (fun e => e.dev == l.dev) = none → chanServes s (chanOf s l.dev).1 = false →
        ∃ t, exec (.crumbLineAccess st errs) s = .next t ∧ mget 0 t.hbm.crbMisses st.toNat = mget 0 s.hbm.crbMisses st.toNat + 1 ∧
          (t.seq p.toNat).lines = (s.seq p.toNat).lines.map (fun x => if x = l then { x with miss := true } else x))) ∧
    (∀ errs, mget [] s.hbm.crumbQ st.toNat = [] → exec (.crumbLineAccess st errs) s = .next s) ∧
    (∀ w, s.hbm.wbq.find? (fun w => (chanOf s w.dev).1 / 32 == st.toNat && c3May s w.dev) = some w → w.line.bytes.length = 64 →
      ∃ t, exec (.writeBack st) s = .next t ∧ rdBytes t.hbm.cells w.dev 64 = w.line.bytes ∧ (∀ v ∈ t.hbm.wbq, v.dev ≠ w.dev) ∧
        ∃ md, mget none t.hbm.lines w.dev = some ⟨md, w.line.keys⟩ ∧ (w.pois = false → md = w.line.md) ∧ (w.pois = true → mdPois md = true)) ∧
    (s.hbm.wbq.find? (fun w => (chanOf s w.dev).1 / 32 == st.toNat && c3May s w.dev) = none → exec (.writeBack st) s = .next s)

/-- Repair, scrub, temperature and retrains (R234–R238, R242, R256–R260): a marked row is copied, in class C3, and then served from a
repair entry; the scrub's place moves on by a line, to the next slab only when its own has none left, and a pass that has no line left
counts; a reading of a stack's temperature calls for the level of R234, and Trip stops the stack and the device; an applied level is
counted, Hot being a cause of ALERT_N; a hold of a channel begins and ends, a repaired lane is served from its spare, and a hold that
fails loses the channel. (The model's choices it rests on: log entries 67, 94.) -/
def Obligations.HbmUpkeep : Prop :=
  ∀ (s : State) (st : StackId) (c : ChanId) (pc : BitVec 1) (temp : Byte) (hclk : BitVec 12), s.Shaped →
    let r := s.rowRep st.toNat
    let x := s.therm st.toNat
    let ch := s.chan c.toNat
    let rest := ch.hold = none ∧ ch.lost = false ∧ (∀ n, ch.lastHold = some n → n + 3200000 ≤ s.aon.toNat)
    let full := ch.backlog && decide (128 < (chanLines s c.toNat).length)
    let lvl := if 100 ≤ temp.toNat then 2 else if x.level = 2 then (if temp.toNat < 97 then 1 else 2)
      else if 95 ≤ temp.toNat then 1 else if x.level = 1 then (if temp.toNat < 92 then 0 else 1) else 0
    let sound (dev : Nat) : Prop := mget [] s.hbm.flaws dev = [] ∧ ∃ m, mget none s.hbm.lines dev = some m ∧ metaOk s dev m.md = true
    (∀ row more, r.marked = row :: more → r.copying = none → r.used < 512 → (∀ d ∈ rowDevs s row, c3Serves s d = true) →
      (∀ d ∈ (rowDevs s row).take 1, c3May s d = true) → (∀ d ∈ rowDevs s row, sound d ∧ ∀ w ∈ s.hbm.wbq, w.dev ≠ d) →
      ∃ t, exec (.rowRepairCopy st) s = .next t ∧ t.rowRep st.toNat = { r with marked := more, copying := some row } ∧
        t.hbm.cells = s.hbm.cells ∧ t.hbm.lines = s.hbm.lines) ∧
    (r.marked = [] ∨ r.copying ≠ none ∨ (∀ row, r.marked.head? = some row → ∃ d ∈ rowDevs s row, c3Serves s d = false) →
      exec (.rowRepairCopy st) s = .next s) ∧
    (∀ row, r.copying = some row → (∀ d ∈ rowDevs s row, c3Serves s d = true) → ∃ t, exec (.rowRepairCopyEnd st) s = .next t ∧
      t.rowRep st.toNat = { r with copying := none, used := r.used + 1, rows := r.rows ++ [row] } ∧
      (s.repairs.length < 8184 → t.repairs = s.repairs ++ [.row row])) ∧
    (r.copying = none ∨ (∀ row, r.copying = some row → ∃ d ∈ rowDevs s row, c3Serves s d = false) →
      exec (.rowRepairCopyEnd st) s = .next s) ∧
    (scrubs s s.hbm.scrubSlab = true → s.hbm.scrubLine < 2 ^ 23 → s.hbm.scrubWaits = [] →
      let n := s.hbm.scrubSlab
      let line := s.hbm.scrubLine
      let dev := n * 2 ^ 29 + 64 * line
      c3May s dev = true → sound dev → ∃ t, exec (.patrolScrubRead []) s = .next t ∧
        t.hbm.cells = s.hbm.cells ∧ t.hbm.lines = s.hbm.lines ∧
        (line + 1 < 2 ^ 23 → t.hbm.scrubSlab = n ∧ t.hbm.scrubLine = line + 1 ∧ t.hbm.scrubPasses = s.hbm.scrubPasses) ∧
        (line + 1 = 2 ^ 23 → t.hbm.scrubLine = 0 ∧
          (∀ i, n < i → i < 768 → scrubs s i = true → (∀ j, n < j → j < i → scrubs s j = false) →
            t.hbm.scrubSlab = i ∧ t.hbm.scrubPasses = s.hbm.scrubPasses) ∧
          ((∀ i, n < i → i < 768 → scrubs s i = false) → t.hbm.scrubPasses = s.hbm.scrubPasses + 1))) ∧
    (∀ d errs, scrubs s s.hbm.scrubSlab = true → d ∈ s.hbm.scrubWaits → ∃ t, exec (.patrolScrubRead errs) s = .next t ∧
      (d ∈ t.hbm.scrubWaits → t.hbm.scrubSlab = s.hbm.scrubSlab)) ∧
    (x.level ≠ 3 → ∃ t, exec (.stackTempReadout st temp) s = .next t ∧
      (temp.toNat < 105 → t.therm st.toNat = { x with
        temp := temp, peak := if x.peak.toNat < temp.toNat then temp else x.peak
        next := if lvl = x.level.toNat then none else some (BitVec.ofNat 2 lvl) }) ∧
      (105 ≤ temp.toNat → (t.therm st.toNat).level = 3 ∧ (t.therm st.toNat).temp = temp ∧ t.mdl.fatal = true)) ∧
    (∀ l, x.next = some l → ∃ t, exec (.thermalLevelApply st) s = .next t ∧ t.therm st.toNat = { x with
      level := l, next := none, warnCnt := if x.level = 0 then x.warnCnt + 1 else x.warnCnt
      hotCnt := if l = 2 ∧ x.level ≠ 2 then x.hotCnt + 1 else x.hotCnt } ∧ (l = 2 → t.mdl.cause.getLsbD 4 = true)) ∧
    (x.next = none → exec (.thermalLevelApply st) s = .next s) ∧
    (rest → (∀ e ∈ s.hbm.chans, e.2.hold ≠ some .retrain) → (s.therm (c.toNat / 32)).level.toNat < 2 → ∃ t, exec (.periodicRetrain c) s = .next t ∧
      t.chan c.toNat = { ch with hold := some .retrain, lastHold := some s.aon.toNat, backlog := true }) ∧
    ((∃ e ∈ s.hbm.chans, e.2.hold = some .retrain) ∨ 2 ≤ (s.therm (c.toNat / 32)).level.toNat → exec (.periodicRetrain c) s = .next s) ∧
    (rest → nth 0x3F ch.susp pc.toNat ≠ 0x3F → (∃ i, (i = 2 * pc.toNat ∨ i = 2 * pc.toNat + 1) ∧ nth 0x3F ch.spares i = 0x3F) →
      ∃ t, exec (.laneRepair c pc) s = .next t ∧
        t.chan c.toNat = { ch with hold := some (.repair pc.toNat), lastHold := some s.aon.toNat, backlog := true }) ∧
    (nth 0x3F ch.susp pc.toNat = 0x3F → exec (.laneRepair c pc) s = .next s) ∧
    (ch.hold = some .retrain → ∃ t, exec (.retrainHoldEnd c true hclk) s = .next t ∧ t.chan c.toNat = { ch with
      hold := none, retrains := ch.retrains + 1, maxHold := if ch.maxHold.toNat < hclk.toNat then hclk else ch.maxHold, backlog := full }) ∧
    (∀ j pin, ch.hold = some (.repair j) → nth 0x3F ch.susp j = pin → nth 0x3F ch.spares (2 * j) = 0x3F → j < 2 → ch.spares.length = 4 →
      ∃ t, exec (.retrainHoldEnd c true hclk) s = .next t ∧ (t.chan c.toNat).hold = none ∧ (t.chan c.toNat).repairs = ch.repairs + 1 ∧
        nth 0x3F (t.chan c.toNat).spares (2 * j) = pin ∧ (s.repairs.length < 8184 → t.repairs = s.repairs ++ [.lane c.toNat j 0 pin])) ∧
    (ch.hold ≠ none → ch.lost = false → ∃ t, exec (.retrainHoldEnd c false hclk) s = .next t ∧ (t.chan c.toNat).lost = true ∧
      (t.chan c.toNat).hold = none ∧ t.mdl.fatal = true) ∧
    (ch.hold = none → ∀ ok, exec (.retrainHoldEnd c ok hclk) s = .next s)

/-! Partitions. -/

/-- Ownership commands (R217, R317–R320, R398): one whose condition of R319 does not hold is refused and changes nothing; one that
needs no gate is carried out and answered, a revocation once no transfer of the partition to the region is outstanding; one that needs
a gate waits for its partition's, with the slabs that a granule command carries; a DISSOLVE begins with the partition's reset (R339).
(The model's choices it rests on: log entries 46, 47, 127.) -/
def Obligations.OwnershipCommandsAreTaken : Prop :=
  ∀ (s : State) (env : Env) (p q : PartId) (mask : Word) (slab : SlabId) (ps : BitVec 11) (v : Byte) (slabs : List (SlabId × BitVec 11))
    (names : List SlabId), s.Shaped →
    s.acts = [] → (s.part p.toNat).reset = none → (s.part p.toNat).pstate ≠ 4 →
    let own := (s.part p.toNat).granules
    let pairs := slabs.map (fun e => (e.1.toNat, e.2.toNat))
    let waiting (op q : Nat) (mask : Word) (slabs : List (Nat × Nat)) (t : State) : Prop :=
      t.acts = [⟨op, p.toNat, q, mask, slabs, 0, env.counter, 0⟩] ∧ t.parts = s.parts ∧ t.hbm = s.hbm
    let refused (op : Nat) (t : State) : Prop := MgmtAnswered op 1 env t ∧ t.acts = [] ∧ t.parts = s.parts ∧ t.hbm = s.hbm
    let mine (n : SlabId) : Prop := n.toNat < 768 ∧ (s.slab n.toNat).valid = true ∧ (s.slab n.toNat).shared = false ∧ (s.slab n.toNat).owner = p
    let free (n : SlabId) : Prop := n.toNat < 768 ∧ slabFree s n.toNat = true
    let placed (q : PartId) : Prop := (slabs.map (·.1)).Nodup ∧ (slabs.map (·.2)).Nodup ∧
      ∀ e ∈ slabs, pslotTaken s [] q.toNat e.2.toNat = false
    let partly := mask &&& ~~~own = 0 ∧ own &&& ~~~mask ≠ 0
    let idle := (s.part p.toNat).ctxF.loaded = false ∧ (s.part p.toNat).ctxB.loaded = false
    (MgmtPasses 0x101 0 env s →
      (mask ≠ 0 → (∀ g, g < 32 → mask.getLsbD g = true → granFree s g = true) → (∀ e ∈ slabs, free e.1) → placed p →
        ∃ t, exec (.grantGran env p mask slabs) s = .next t ∧ waiting 0x101 0 mask pairs t) ∧
      ((∀ e ∈ slabs, free e.1) → placed p → ∃ t, exec (.grantGran env p 0 slabs) s = .next t ∧ MgmtAnswered 0x101 0 env t ∧ t.acts = [] ∧
        ∀ e ∈ slabs, mget none t.glazeSlabs e.1.toNat = some ⟨some (p, e.2), 0, [], none⟩) ∧
      ((∃ g, g < 32 ∧ mask.getLsbD g = true ∧ granFree s g = false) ∨ (∃ e ∈ slabs, ¬ free e.1) →
        ∃ t, exec (.grantGran env p mask slabs) s = .next t ∧ refused 0x101 t)) ∧
    (MgmtPasses 0x102 0 env s →
      (partly → idle → names.Nodup → (∀ n ∈ names, mine n) →
        ∃ t, exec (.reclaimGran env p mask names) s = .next t ∧ waiting 0x102 0 mask (names.map (fun n => (n.toNat, 0))) t) ∧
      ((mask ≠ 0 ∧ ¬ partly) ∨ (∃ n ∈ names, ¬ mine n) → ∃ t, exec (.reclaimGran env p mask names) s = .next t ∧ refused 0x102 t)) ∧
    (MgmtPasses 0x103 0 env s →
      (partly → idle → (∀ e ∈ slabs, mine e.1) → placed q →
        ∃ t, exec (.moveGran env p q mask slabs) s = .next t ∧ waiting 0x103 q.toNat mask pairs t) ∧
      ((mask ≠ 0 ∧ ¬ partly) ∨ (∃ e ∈ slabs, ¬ mine e.1) → ∃ t, exec (.moveGran env p q mask slabs) s = .next t ∧ refused 0x103 t)) ∧
    (MgmtPasses 0x104 0 env s →
      (free slab → pslotTaken s [] p.toNat ps.toNat = false → ∃ t, exec (.grantSlab env p slab ps) s = .next t ∧ MgmtAnswered 0x104 0 env t ∧
        mget none t.glazeSlabs slab.toNat = some ⟨some (p, ps), 0, [], none⟩ ∧ t.acts = []) ∧
      (¬ free slab ∨ pslotTaken s [] p.toNat ps.toNat = true → ∃ t, exec (.grantSlab env p slab ps) s = .next t ∧ refused 0x104 t)) ∧
    (MgmtPasses 0x105 0 env s →
      (mine slab → ∃ t, exec (.reclaimSlab env p slab) s = .next t ∧ waiting 0x105 0 0 [(slab.toNat, 0)] t) ∧
      (¬ mine slab → ∃ t, exec (.reclaimSlab env p slab) s = .next t ∧ refused 0x105 t)) ∧
    (MgmtPasses 0x106 0 env s →
      (mine slab → pslotTaken s [] q.toNat ps.toNat = false → ∃ t, exec (.moveSlab env p q slab ps) s = .next t ∧
        waiting 0x106 q.toNat 0 [(slab.toNat, ps.toNat)] t) ∧
      (¬ mine slab → ∃ t, exec (.moveSlab env p q slab ps) s = .next t ∧ refused 0x106 t)) ∧
    (v.toNat < 2 →
      (MgmtPasses 0x107 0 env s → ∃ t, exec (.grantShared env p v) s = .next t ∧ MgmtAnswered 0x107 0 env t ∧
        ∀ n ∈ crustRegion s v.toNat, (t.slab n).grant.getLsbD p.toNat = true) ∧
      (MgmtPasses 0x108 0 env s → (∀ n ∈ crustRegion s v.toNat, slabBusy s p.toNat n = false) →
        ∃ t, exec (.revokeShared env p v) s = .next t ∧ MgmtAnswered 0x108 0 env t ∧
          ∀ n ∈ crustRegion s v.toNat, (t.slab n).grant.getLsbD p.toNat = false) ∧
      (MgmtPasses 0x108 0 env s → (∃ n ∈ crustRegion s v.toNat, slabBusy s p.toNat n = true) →
        ∃ t, exec (.revokeShared env p v) s = .next t ∧ t.acts = [⟨0x108, p.toNat, 0, 0, [], v.toNat, env.counter, 5⟩] ∧ t.hbm = s.hbm)) ∧
    (2 ≤ v.toNat → (MgmtPasses 0x107 0 env s → ∃ t, exec (.grantShared env p v) s = .next t ∧ refused 0x107 t) ∧
      (MgmtPasses 0x108 0 env s → ∃ t, exec (.revokeShared env p v) s = .next t ∧ refused 0x108 t)) ∧
    (MgmtPasses 0x109 0 env s → ∃ t, exec (.setShare env p v) s = .next t ∧ MgmtAnswered 0x109 0 env t ∧ mget 0 t.hbm.weights p.toNat = v ∧
      ∀ n, n ≠ p.toNat → mget 0 t.hbm.weights n = mget 0 s.hbm.weights n) ∧
    (MgmtPasses 0x10A 0 env s →
      ((s.part p.toNat).pstate ≠ 0 → ∃ t, exec (.dissolve env p) s = .next t ∧ (t.part p.toNat).pstate = 4 ∧
        (t.part p.toNat).gen = (s.part p.toNat).gen + 1 ∧ (t.part p.toNat).frozen = true ∧ (t.part p.toNat).reset.isSome = true) ∧
      ((s.part p.toNat).pstate = 0 → ∃ t, exec (.dissolve env p) s = .next t ∧ refused 0x10A t))

/-- What follows an ownership action (R217, R320–R322, R334–R340): it takes effect at once in a partition without a program, and
at a gate in one that runs, which quiesces, changes its set and resumes, no slab leaving while a transfer to it is outstanding; the
Glaze's overwrite writes zeros line by line, in class C3, and at its end the slab joins its new owner; a granule's clearing leaves its
tiles and instruction memory empty. (The model's choices it rests on: log entries 46, 94.) -/
def Obligations.OwnershipTakesEffect : Prop :=
  ∀ (s : State) (p : PartId) (slab : SlabId) (g : GranId), s.Shaped →
    let x := s.part p.toNat
    let revoking := ∃ a ∈ s.acts, a.stage = 5 ∧ a.p = p.toNat ∧ actBusy s p.toNat a = false
    (¬ revoking → ∀ a, actDue s p.toNat = some a → a.stage = 0 → x.reset = none → x.pstate ≠ 4 → x.resize = none → x.ctxF.loaded = false →
      x.ctxB.loaded = false → actBusy s p.toNat a = false →
      ∃ t, exec (.ownershipActionEffect p) s = .next t ∧
        (a.op = 0x101 → (t.part p.toNat).granules = x.granules ||| a.mask) ∧
        (a.op = 0x102 → (t.part p.toNat).granules = x.granules &&& ~~~a.mask ∧
          ∀ n, n < 32 → a.mask.getLsbD n = true → x.granules.getLsbD n = true → mget none t.glazeGrans n = some ⟨p.toNat, none, false⟩) ∧
        (a.op = 0x102 ∨ a.op = 0x105 → ∀ e ∈ a.slabs, (mget none t.glazeSlabs e.1).isSome = true ∧ (t.slab e.1).valid = false) ∧
        (a.op = 0x101 ∨ a.op = 0x102 ∨ a.op = 0x105 → ∃ b sig, Out.mgmt a.op 0 a.counter b sig ∈ t.out)) ∧
    (¬ revoking → actDue s p.toNat = none → exec (.ownershipActionEffect p) s = .next s) ∧
    (¬ revoking → ∀ a, actDue s p.toNat = some a → (x.ctx.loaded = true ∧ x.pstate ≠ 5 ∧ atGate s p.toNat = false) ∨
      (x.ctxF.loaded = false ∧ x.ctxB.loaded = false ∧ actBusy s p.toNat a = true) → exec (.ownershipActionEffect p) s = .next s) ∧
    (¬ revoking → ∀ a, actDue s p.toNat = some a → a.mask ≠ 0 → x.pstate = 1 → x.reset = none → x.resize = none → atGate s p.toNat = true →
      ∃ t, exec (.ownershipActionEffect p) s = .next t ∧ (t.part p.toNat).resize = some ⟨gransAfter x p.toNat a, false⟩ ∧ (t.part p.toNat).pstate = 3) ∧
    (∀ a, s.acts = [a] → a.stage = 5 → a.p = p.toNat → a.op = 0x108 → actBusy s p.toNat a = false →
      ∃ t, exec (.ownershipActionEffect p) s = .next t ∧ t.acts = [] ∧ (∀ n ∈ crustRegion s a.v, (t.slab n).grant.getLsbD p.toNat = false) ∧
        ∃ b sig, Out.mgmt a.op 0 a.counter b sig ∈ t.out) ∧
    (∀ a z, x.resize = some z → z.quiet = false → actTaking s p.toNat = some a →
      (a.op = 0x101 → x.seq.reqs = [] ∧ x.seq.crumbs = [] ∧ x.seq.lines = [] ∧ x.seq.movTok = [] → ∃ t, exec (.resizeQuiesceEnd p) s = .next t ∧
        (t.part p.toNat).granules = x.granules ||| a.mask ∧ (t.part p.toNat).resize = some ⟨x.granules ||| a.mask, true⟩) ∧
      (x.seq.reqs ≠ [] ∨ actBusy s p.toNat a = true → exec (.resizeQuiesceEnd p) s = .next s)) ∧
    (∀ a z, x.resize = some z → z.quiet = true → actTaking s p.toNat = some a → ∃ t, exec (.resizeResume p) s = .next t ∧
      (t.part p.toNat).resize = none ∧
      ((a.op ≠ 0x103 ∧ a.op ≠ 0x106) ∨ a.mask = 0 → ∃ b sig, Out.mgmt a.op 0 a.counter b sig ∈ t.out)) ∧
    (x.resize = none → exec (.resizeQuiesceEnd p) s = .next s ∧ exec (.resizeResume p) s = .next s) ∧
    (∀ j, mget none s.glazeSlabs slab.toNat = some j → j.waits = [] → j.next < 2 ^ 23 → c3May s (slab.toNat * 2 ^ 29 + 64 * j.next) = true →
      ∃ t, exec (.glazeOverwriteLine slab) s = .next t ∧ rdBytes t.hbm.cells (slab.toNat * 2 ^ 29 + 64 * j.next) 64 = List.replicate 64 0 ∧
        (∀ b, b < slab.toNat * 2 ^ 29 + 64 * j.next ∨ slab.toNat * 2 ^ 29 + 64 * j.next + 64 ≤ b → rd8 t.hbm.cells b = rd8 s.hbm.cells b) ∧
        mget none t.glazeSlabs slab.toNat = some { j with next := j.next + 1 }) ∧
    (mget none s.glazeSlabs slab.toNat = none → exec (.glazeOverwriteLine slab) s = .next s ∧ exec (.slabGlazeEnd slab) s = .next s) ∧
    (∀ j o ps, mget none s.glazeSlabs slab.toNat = some j → 2 ^ 23 ≤ j.next → j.waits = [] → j.dest = some (o, ps) → j.diss = none →
      ∃ t, exec (.slabGlazeEnd slab) s = .next t ∧ mget none t.glazeSlabs slab.toNat = none ∧ (t.slab slab.toNat).valid = true ∧
        (t.slab slab.toNat).owner = o ∧ (t.slab slab.toNat).pslot = ps ∧ (t.slab slab.toNat).shared = false) ∧
    (∀ y, mget none s.glazeGrans g.toNat = some y → y.cleared = false → ∃ t, exec (.granuleClearEnd g) s = .next t ∧
      (∀ n, n < 128 → granuleOf n = g.toNat → t.tile n = tile0) ∧ (∀ n, n < 128 → granuleOf n ≠ g.toNat → t.tile n = s.tile n) ∧
      nth [] t.imem g.toNat = [] ∧ mget none t.glazeGrans g.toNat = y.dest.map (fun d => ⟨y.src, some d, true⟩)) ∧
    (mget none s.glazeGrans g.toNat = none → exec (.granuleClearEnd g) s = .next s)

/-- A partition reset (R325–R332, R368, R369), by a PART_RESET entry or a RESET_PART command: GEN counts up, the queues
freeze and nothing of the old generation goes on; when it completes the registers and contexts are as at reset and the
partition serves again, or stays halted in Device-fatal state (R432). EVT_CLAMP.CLR clears the clamp count and source
(R343). (The model's choices it rests on: log entries 38, 39, 49, 50.) -/
def Obligations.PartitionResets : Prop :=
  ∀ (s : State) (p : PartId) (h : EntryHead) (env : Env), s.Shaped →
    let x := s.part p.toNat
    let taken (t : State) : Prop := (t.part p.toNat).gen = x.gen + 1 ∧ (t.part p.toNat).pstate = 2 ∧ (t.part p.toNat).frozen = true ∧
      (t.part p.toNat).resets = x.resets + 1 ∧ (t.part p.toNat).ctxF.loaded = false ∧ (t.part p.toNat).ctxB.loaded = false ∧
      (t.part p.toNat).steps = [] ∧ (t.part p.toNat).moves = [] ∧ (t.part p.toNat).runs = [] ∧ (t.part p.toNat).ckp.jobs = []
    (EntryReady p.toNat h 8 anyBody s → x.pstate ≠ 0 → x.pstate ≠ 4 → x.reset = none → ∃ t, exec (.partReset p h) s = .next t ∧ taken t ∧
      ∃ r, (t.part p.toNat).reset = some r ∧ r.works = [{ workStarted p.toNat h 8 s with gen := x.gen + 1 }]) ∧
    (MgmtPasses 0x110 0 env s → x.pstate ≠ 0 → x.pstate ≠ 4 → x.reset = none → ∃ t, exec (.resetPart env p) s = .next t ∧ taken t ∧
      ∃ r, (t.part p.toNat).reset = some r ∧ r.mgmt = [env.counter]) ∧
    (MgmtPasses 0x110 0 env s → x.pstate = 0 → ∃ t, exec (.resetPart env p) s = .next t ∧ MgmtAnswered 0x110 1 env t ∧ t.parts = s.parts) ∧
    (∀ r, x.reset = some r → resetMayEnd s p.toNat = true → x.granules ≠ 0 → x.pstate = 2 → s.acts = [] → ∃ t, exec (.resetComplete p) s = .next t ∧
      (t.part p.toNat).reset = none ∧ (t.part p.toNat).gen = x.gen ∧ (t.part p.toNat).pstate = (if s.mdl.fatal then 5 else 1) ∧
      (t.part p.toNat).ctxF = ctx0 ∧ (t.part p.toNat).ctxB = ctx0 ∧ (t.part p.toNat).regs = [] ∧ (t.part p.toNat).dlv = [] ∧
      (∀ n ∈ x.tiles, (t.tile n).arrStat = [] ∧ (t.tile n).vec.stat = 0 ∧ (t.tile n).updStat = 0 ∧ (t.tile n).scratch = (s.tile n).scratch)) ∧
    (x.reset = none → exec (.resetComplete p) s = .next s) ∧
    (∃ t, exec (.evtClampClr p) s = .next t ∧ t.part p.toNat = { x with clampCount := 0, clampSrc := 0 } ∧
      ∀ n, n ≠ p.toNat → t.part n = s.part n)

/-! The host link, the queue pairs, the entries. -/

/-- The host's transactions (R345, R348–R351, R359): a WWR of 8 bytes is the write of its register, one of any other length is
ignored, and so is every one while the host does not reach the window; a WRD is answered with the register, or with 0 where
its length is not 8, its offset is not a multiple of 8, or the module is not yet in Ready; the credit of either goes back in a
CRD; an MCPL's bytes are taken in address order, and the last of them frees the tag and gives the unit its bytes; an MERR stops
the pair whose entry could not be read; a CRD adds credits, and what waited for one goes, a completion to the place at CQTAIL; a
write of a register has the effect its rule gives: EVT_PAGE, HST_FTPAGE, HST_CTXPAGE, the base of an idle queue, a doorbell. (The
model's choices it rests on: log entries 94, 131.) -/
def Obligations.HostTransactions : Prop :=
  ∀ (s : State) (off v : DWord) (roff : BitVec 24) (data : List Byte) (len : BitVec 13) (tag : BitVec 10) (a b : Half) (p : PartId)
    (q : QueueId), s.Shaped →
    let win := 0x100000 + 0x40000 * p.toNat
    let u := s.queue p.toNat q.toNat
    (hostReaches s = true → data.length = 8 → off.toNat = roff.toNat → leNat data = v.toNat →
      ∃ t, exec (.registerWrite roff v) s = .next t ∧ exec (.wwr off data) s = .next { t with out := .crd 1 0 :: t.out }) ∧
    (hostReaches s = true → data.length ≠ 8 → exec (.wwr off data) s = .next { s with out := .crd 1 0 :: s.out }) ∧
    (hostReaches s = false → exec (.wwr off data) s = .next s ∧ exec (.wrd off len tag) s = .next s) ∧
    (hostReaches s = true → ∃ t x, exec (.wrd off len tag) s = .next t ∧ t.out = .crd 0 1 :: .wrsp tag x :: s.out ∧
      (len = 8 → x = BitVec.ofNat 64 (winRead s off.toNat)) ∧
      (len ≠ 8 ∨ off.toNat % 8 ≠ 0 ∨ (s.tc.ready = false ∧ off.toNat ≠ 0 ∧ (off.toNat < 0x100 ∨ 0x118 ≤ off.toNat)) → x = 0)) ∧
    (s.tc.ready = false ∨ roff.toNat % 8 ≠ 0 → exec (.registerWrite roff v) s = .next s) ∧
    (s.tc.ready = true →
      (roff = 0x10810 → ∃ t, exec (.registerWrite roff v) s = .next t ∧ t.evPage = v.setWidth 4) ∧
      (roff.toNat = win + 0x28 → ∃ t, exec (.registerWrite roff v) s = .next t ∧ (t.part p.toNat).ftpage = v.setWidth 4) ∧
      (roff.toNat = win + 0x30 → ∃ t, exec (.registerWrite roff v) s = .next t ∧ (t.part p.toNat).ctxpage = v.setWidth 7) ∧
      (roff.toNat = win + 0x2000 + 32 * q.toNat → q.toNat < 64 → u.en = false → ∃ t, exec (.registerWrite roff v) s = .next t ∧
        t.queue p.toNat q.toNat = { u with sqbase := v &&& ~~~0xFFF }) ∧
      (roff.toNat = win + 0x2000 + 32 * q.toNat → u.en = true → ∃ t, exec (.registerWrite roff v) s = .next t ∧
        t.queue p.toNat q.toNat = u) ∧
      (roff.toNat = win + 0x1000 + 8 * q.toNat → exec (.registerWrite roff v) s = exec (.sqTailDoorbell p q (v.setWidth 16)) s) ∧
      (roff.toNat = win + 0x1200 + 8 * q.toNat → exec (.registerWrite roff v) s = exec (.cqHeadDoorbell p q (v.setWidth 16)) s)) ∧
    (mget none s.host.mrds tag.toNat = none ∨ hostUp s = false →
      exec (.mcpl tag data) s = .next s ∧ exec (.merr tag) s = .next s) ∧
    (∀ m, mget none s.host.mrds tag.toNat = some m → hostUp s = true →
      (m.got.length + data.length < m.len → ∃ t, exec (.mcpl tag data) s = .next t ∧
        mget none t.host.mrds tag.toNat = some { m with got := m.got ++ data }) ∧
      (∀ ep gen, m.req = .entry p.toNat q.toNat ep gen → m.skip = 0 → m.len = 64 → m.want = 64 → s.host.waiting = [] →
        u.fetched = [⟨ep, tag.toNat, []⟩] →
        (m.got.length + data.length = m.len → badEntry (m.got ++ data) = none → ∃ t, exec (.mcpl tag data) s = .next t ∧
          mget none t.host.mrds tag.toNat = none ∧ t.queue p.toNat q.toNat = { u with fetched := [⟨ep, tag.toNat, m.got ++ data⟩] }) ∧
        (m.got.length < m.len → ep = u.ep → ∃ t, exec (.merr tag) s = .next t ∧
          mget none t.host.mrds tag.toNat = none ∧ t.queue p.toNat q.toNat = { u with err := true, opened := u.opened - 1, fetched := [] }))) ∧
    (hostUp s = true → s.host.held = [] → ∃ t, exec (.crd a b) s = .next t ∧ t.out = s.out ∧
      t.host = { s.host with posted := s.host.posted + a.toNat, nonposted := s.host.nonposted + b.toNat, unacked := s.host.unacked.drop a.toNat }) ∧
    (∀ o, hostUp s = true → s.host.held = [o] → o.isPosted = true → s.host.posted + a.toNat ≠ 0 → (∀ w st n r, o ≠ .cpl w st n r) →
      ∃ t, exec (.crd a b) s = .next t ∧ t.out = o :: s.out ∧ t.host.held = [] ∧ t.host.posted + 1 = s.host.posted + a.toNat) ∧
    (∀ w st n r, hostUp s = true → s.host.held = [.cpl w st n r] → s.host.posted + a.toNat ≠ 0 → w.p = p.toNat → w.q = q.toNat →
      w.gen = (s.part p.toNat).gen → u.en = true → w.ep = u.ep → u.cqs ≤ 16 → w.notify = false → ∃ t, exec (.crd a b) s = .next t ∧
        t.host.held = [] ∧ t.out = .mwr p.toNat w.gen (u.cqbase.toNat + 32 * u.cqtail.toNat) (completionBytes w u st n r) :: s.out ∧
        (t.queue p.toNat q.toNat).cqtail.toNat = (u.cqtail.toNat + 1) % 2 ^ u.cqs) ∧
    (hostUp s = false → exec (.crd a b) s = .next s)

/-- The host link's outages (R345, R346): the link is down when its last UCIe module has failed or its credits are gone;
what was waiting waits. When it comes up, a CRD with at least 64 of each credit goes first, and every read whose answer had
not come in full is asked for again from the byte it had reached. (The model's choices it rests on: log entries 71, 94.) -/
def Obligations.HostLinkGoesAndComes : Prop :=
  ∀ (s : State) (m : BitVec 2) (mods : BitVec 4) (a b : Half),
    let left := s.host.mods &&& ~~~(1#4 <<< m.toNat)
    exec .hostLinkDown s = .next (s.modHost (fun h => { h with mods := 0, posted := 0, nonposted := 0 })) ∧
    (left ≠ 0 → exec (.ucieModuleFail m) s = .next (s.modHost (fun h => { h with mods := left }))) ∧
    (left = 0 → exec (.ucieModuleFail m) s = exec .hostLinkDown s) ∧
    (s.host.siteOn = false ∨ s.tc.phase8 = false ∨ mods = 0 → exec (.hostLinkUp mods a b) s = .next s) ∧
    (s.host.siteOn = true → s.tc.phase8 = true → mods ≠ 0 → hostUp s = true →
      exec (.hostLinkUp mods a b) s = .next (s.modHost (fun h => { h with mods := mods }))) ∧
    (s.host.siteOn = true → s.tc.phase8 = true → mods ≠ 0 → hostUp s = false → ∃ t, exec (.hostLinkUp mods a b) s = .next t ∧
      hostUp t = true ∧ t.host.l1 = false ∧
      (∃ x y : Half, Out.crd x y ∈ t.out ∧ 64 ≤ x.toNat ∧ 64 ≤ y.toNat) ∧
      (∀ o ∈ s.host.held, (∀ w st n r, o ≠ .cpl w st n r) → o ∈ t.out ∨ o ∈ t.host.held) ∧
      (∀ tag r, mget none s.host.mrds tag = some r → (∀ x n, Out.mrd tag x n ∉ s.host.held) →
        Out.mrd tag (r.addr + r.got.length) (r.len - r.got.length) ∈ t.out ∨
        Out.mrd tag (r.addr + r.got.length) (r.len - r.got.length) ∈ t.host.held))

/-- The queue pairs (R354–R357, R361, R364, R369): enabling a pair resets its indices, PHASE and error; a doorbell of a frozen
partition is recorded, one of a disabled pair is ignored, and a value out of range is taken modulo the queue's size with a
clamp of the host link; a head taken leaves the completions behind it unread; a fetch of the pair that round robin over every SQ
serves asks for the 64 bytes at its head, which moves on when the entry starts. (The model's choices it rests on: log entries 94,
131.) -/
def Obligations.QueuePairs : Prop :=
  ∀ (s : State) (p : PartId) (q : QueueId) (v : Half), s.Shaped →
    let u := s.queue p.toNat q.toNat
    let x := s.part p.toNat
    (∃ t, exec (.queueEnable p q) s = .next t ∧ t.queue p.toNat q.toNat = if u.en then u else
      { u with en := true, sqhead := 0, cqtail := 0, tail := 0, chead := 0, phase := true, err := false, ntfOut := false, flags := [],
               opened := 0, ep := u.ep + 1 }) ∧
    (∃ t, exec (.queueDisable p q) s = .next t ∧ t.queue p.toNat q.toNat = { u with en := false, tail := u.sqhead }) ∧
    (x.frozen = true ∨ inRun s = false →
      (∃ t, exec (.sqTailDoorbell p q v) s = .next t ∧ (t.part p.toNat).bells = x.bells ++ [(false, q, v)] ∧ t.queue p.toNat q.toNat = u) ∧
      (∃ t, exec (.cqHeadDoorbell p q v) s = .next t ∧ (t.part p.toNat).bells = x.bells ++ [(true, q, v)] ∧ t.queue p.toNat q.toNat = u)) ∧
    (x.frozen = false → inRun s = true → u.en = false → ∃ t, exec (.sqTailDoorbell p q v) s = .next t ∧
      exec (.cqHeadDoorbell p q v) s = .next t ∧ t.parts = s.parts ∧ t.out = s.out) ∧
    (x.frozen = false → inRun s = true → u.en = true → u.sqs ≤ 16 → ∃ t, exec (.sqTailDoorbell p q v) s = .next t ∧
      t.queue p.toNat q.toNat = { u with tail := BitVec.ofNat 16 (v.toNat % 2 ^ u.sqs) } ∧
      (t.part p.toNat).clampCount = ((clamps p.toNat 0xA (if v.toNat < 2 ^ u.sqs then 0 else 1) s).part p.toNat).clampCount) ∧
    (x.frozen = false → inRun s = true → u.en = true → v.toNat < 2 ^ u.cqs → u.chead.toNat < 2 ^ u.cqs → u.ntfOut = false →
      ∃ t, exec (.cqHeadDoorbell p q v) s = .next t ∧
        t.queue p.toNat q.toNat = { u with
          chead := v
          flags := u.flags.drop (if u.chead ≤ v then v.toNat - u.chead.toNat else v.toNat + 2 ^ u.cqs - u.chead.toNat) } ∧
        t.out = s.out) ∧
    (x.frozen = false → inRun s = true → u.en = true → v = u.chead → v.toNat < 2 ^ u.cqs → u.ntfOut = true → u.ien = true → true ∈ u.flags →
      x.pstate ≠ 4 → ∃ t, exec (.cqHeadDoorbell p q v) s = .next t ∧ ∃ o, o = Out.ntf 1 p.toNat x.gen (BitVec.ofNat 64 (q.toNat + 2 ^ 32 * x.gen.toNat)) ∧
        (o ∈ t.out ∨ o ∈ t.host.held)) ∧
    (nextFetch s = some (64 * p.toNat + q.toNat) → u.sqbase.toNat % 64 = 0 → ∃ t tag, exec (.sqEntryFetch p q) s = .next t ∧
      mget none s.host.mrds tag = none ∧ (mget none t.host.mrds tag).map (·.req) = some (.entry p.toNat q.toNat u.ep x.gen) ∧
      (Out.mrd tag (u.sqbase.toNat + 64 * u.sqhead.toNat) 64 ∈ t.out ∨ Out.mrd tag (u.sqbase.toNat + 64 * u.sqhead.toNat) 64 ∈ t.host.held) ∧
      (t.queue p.toNat q.toNat).sqhead = u.sqhead ∧
      (t.queue p.toNat q.toNat).fetched = u.fetched ++ [⟨u.ep, tag, []⟩] ∧ t.host.rr = 64 * p.toNat + q.toNat) ∧
    (nextFetch s ≠ some (64 * p.toNat + q.toNat) → exec (.sqEntryFetch p q) s = .next s) ∧
    (u.en = false ∨ u.err = true ∨ u.sqhead = u.tail ∨ u.fetched ≠ [] ∨ mget [] x.steps q.toNat ≠ [] ∨ x.frozen = true ∨ x.pstate = 0 ∨
      hostUp s = false ∨ inRun s = false → exec (.sqEntryFetch p q) s = .next s)

/-- Programs (R225, R365, R366): a PROGRAM_RUN for a context that holds one, or is being given one, completes REFUSED; another is
taken, and its header is asked for; one whose image stands in partition memory begins when its lines get their slots. A program whose image is complete starts: its context stands at bundle IDX with
everything else cleared, and PROGRAM_RUN's entry waits for the program's end. (The model's choices it rests on: log entries
106, 107, 129.) -/
def Obligations.ProgramsRun : Prop :=
  ∀ (s : State) (p : PartId) (h : EntryHead) (b : RunBody), s.Shaped →
    let x := s.part p.toNat
    let c := if b.ctxB then x.ctxB else x.ctxF
    (EntryReady p.toNat h 1 (fun bs => runBody bs == b) s → (b.srcPart = true → runMay p.toNat b s = true) →
      c.loaded = true ∨ (∃ j ∈ x.runs, j.body.ctxB = b.ctxB) ∨ (b.ctxB = false ∧ standbyRefuses s p.toNat = true) ∨
        (b.ctxB = true ∧ x.ckp.restore.isSome = true) →
      ∃ t, exec (.programRun p h b) s = .next t ∧ Completes p.toNat h 1 2 s t ∧ (t.part p.toNat).runs = x.runs) ∧
    (EntryReady p.toNat h 1 (fun bs => runBody bs == b) s → (b.srcPart = true → runMay p.toNat b s = true) → c.loaded = false →
      (∀ j ∈ x.runs, j.body.ctxB ≠ b.ctxB) →
      (if b.ctxB then x.ckp.restore.isSome = false ∧ (b.tgtv = false ∨ inRangeOf s p.toNat b.target.toNat = true) else standbyRefuses s p.toNat = false) →
      ∃ t, exec (.programRun p h b) s = .next t ∧ (t.queue p.toNat h.q.toNat).fetched = [] ∧
        (b.srcPart = false → (t.part p.toNat).runs = x.runs ++ [⟨workStarted p.toNat h 1 s, b, [], false, false⟩] ∧
          (freeTag s ≠ none → b.srca.toNat % 64 = 0 → ∃ tag, Out.mrd tag b.srca.toNat 256 ∈ t.out ∨ Out.mrd tag b.srca.toNat 256 ∈ t.host.held) ∧
          (freeTag s ≠ none → b.srca.toNat % 64 ≠ 0 → ∃ tag, Out.mrd tag (b.srca.toNat / 64 * 64) 320 ∈ t.out ∨
            Out.mrd tag (b.srca.toNat / 64 * 64) 320 ∈ t.host.held))) ∧
    (b.srcPart = true → runMay p.toNat b s = false → exec (.programRun p h b) s = .next s) ∧
    (∀ bb : Bool, x.runs.find? (fun j => j.body.ctxB == bb && j.ok) = none ∨ x.live = false → exec (.programStart p bb) s = .next s) ∧
    (∀ j, x.live = true → x.runs.find? (fun j => j.body.ctxB == false && j.ok) = some j → ∃ t, exec (.programStart p false) s = .next t ∧
      (t.part p.toNat).runs = x.runs.filter (fun j => j.body.ctxB) ∧
      let i := j.body.idx.toNat
      (t.part p.toNat).ctxF = { ctx0 with
        loaded := true, pc := i, lo := i, hi := i + leNat ((j.got.drop 8).take 4), idx := i, head := some j.work,
        hdr := j.got.take 256, digest := (t.part p.toNat).ctxF.digest }) ∧
    (∀ j, x.live = true → x.runs.find? (fun j => j.body.ctxB == true && j.ok) = some j → j.body.tgtv = false → x.ckp.restores = false →
      ∃ t, exec (.programStart p true) s = .next t ∧ (t.part p.toNat).ckp.bound = 0 ∧ (t.part p.toNat).ctxB.loaded = true ∧
        (t.part p.toNat).ctxB.pc = j.body.idx.toNat ∧ (t.part p.toNat).ctxB.head = some j.work ∧
        (x.ctxF.loaded = false → (t.seq p.toNat).ctxB = true))

/-- Token steps (R190–R193, R367, R368): a TOKEN_STEP of a context the partition does not have completes REFUSED; another
binds its context when BIND = 1 and waits, the SQ's head still at it; one of no rows completes at once. The preparation writes the entry into the first
line of its delivery slot. The completion of a step whose context no longer serves it is STALE; otherwise it is DONE, counts
the context's token, and the step's output is stored first. (The model's choices it rests on: log entries 96, 97.) -/
def Obligations.TokenSteps : Prop :=
  ∀ (s : State) (p : PartId) (h : EntryHead) (b : StepBody) (k : Half), s.Shaped →
    let x := s.part p.toNat
    let n := cbase s p.toNat + b.ctx.toNat
    let slot := mget none x.dlv k.toNat
    (EntryReady p.toNat h 2 (fun bs => stepBody bs == b) s → ccount s p.toNat ≤ b.ctx.toNat ∨ standbyRefuses s p.toNat = true → ∃ t, exec (.tokenStep p h b) s = .next t ∧
      Completes p.toNat h 2 2 s t ∧ (t.part p.toNat).steps = x.steps ∧ t.fills = s.fills) ∧
    (EntryReady p.toNat h 2 (fun bs => stepBody bs == b) s → b.ctx.toNat < ccount s p.toNat → standbyRefuses s p.toNat = false → b.rows ≠ 0 →
      ∃ t, exec (.tokenStep p h b) s = .next t ∧ (t.queue p.toNat h.q.toNat).sqhead = (s.queue p.toNat h.q.toNat).sqhead ∧
        stepHead t p.toNat h.q.toNat =
          some ⟨workStarted p.toNat h 2 s, { b with rows := if 256 < b.rows.toNat then 256 else b.rows }, true, false, 0, [], false⟩ ∧
        t.ctxRec n = if b.bind then { s.ctxRec n with fidx := b.fidx, none_ := b.none_, cv := b.cv, pinned := false, stale := false, active := true }
          else s.ctxRec n) ∧
    (EntryReady p.toNat h 2 (fun bs => stepBody bs == b) s → b.ctx.toNat < ccount s p.toNat → standbyRefuses s p.toNat = false → b.rows = 0 →
      ∃ t, exec (.tokenStep p h b) s = .next t ∧ Completes p.toNat h 2 0 s t ∧ (t.part p.toNat).steps = x.steps ∧
        (b.release = true → t.ctxRec n = ctxRec0)) ∧
    (∀ st, stepHead s p.toNat h.q.toNat = some st → st.asked = false → st.prepared = false → x.ctxF.loaded = true → x.live = true →
      x.dlvCount ≠ 0 → (s.ctxRec (cbase s p.toNat + st.body.ctx.toNat)).inflight = false → slotFree x (x.dlvNext % x.dlvCount) = true →
      ∃ t, exec (.tokenStepPreparation p h.q) s = .next t ∧ ((s.seq p.toNat).ctxB = false → (t.part p.toNat).dlvNext = x.dlvNext + 1) ∧
        (st.body.inlen ≠ 0 → hdrInsz x.ctxF.hdr ≠ 0 → st.input = [] → freeTag s ≠ none →
          ∃ tag l, Out.mrd tag (st.body.ina.toNat / 64 * 64) l ∈ t.out ∨ Out.mrd tag (st.body.ina.toNat / 64 * 64) l ∈ t.host.held) ∧
        (st.body.inlen = 0 → (s.seq p.toNat).hot = [] → (s.seq p.toNat).ctxB = false → ∀ i, i < 64 →
          rd8 (t.tile (rank0 x)).scratch (64 * slotLine x (x.dlvNext % x.dlvCount) 0 + i) = nth 0 (stepBytes st.work st.body) i)) ∧
    (∀ st, stepHead s p.toNat h.q.toNat = some st → st.asked = true ∨ st.prepared = true ∨ x.ctxF.loaded = false ∨ x.live = false ∨
      (s.ctxRec (cbase s p.toNat + st.body.ctx.toNat)).inflight = true → exec (.tokenStepPreparation p h.q) s = .next s) ∧
    (stepHead s p.toNat h.q.toNat = none → exec (.tokenStepPreparation p h.q) s = .next s) ∧
    (slot = none ∨ hostUp s = false ∨ (∃ d, slot = some d ∧ d.stored = false) → exec (.completionStore p k) s = .next s) ∧
    (∀ d, slot = some d → d.stored = true → hostUp s = true → (s.queue p.toNat h.q.toNat).en = true → (s.queue p.toNat h.q.toNat).cqs ≤ 16 →
      d.head = workStarted p.toNat h 2 s → d.body = b → b.release = false →
      (stepServes s p.toNat d = false → ∃ t, exec (.completionStore p k) s = .next t ∧ Completes p.toNat h 2 6 s t ∧
        mget none (t.part p.toNat).dlv k.toNat = none ∧ (t.ctxRec n).inflight = false ∧ (t.ctxRec n).pinned = false ∧
        (t.ctxRec n).tokens = (s.ctxRec n).tokens) ∧
      (stepServes s p.toNat d = true → (∀ l, (s.tile (rank0 x)).pois .scratch l = false) → ∃ t, exec (.completionStore p k) s = .next t ∧
        Completes p.toNat h 2 0 s t ∧ mget none (t.part p.toNat).dlv k.toNat = none ∧ (t.ctxRec n).inflight = false ∧
        (t.ctxRec n).tokens = (s.ctxRec n).tokens + 1))

/-- Copies and Recipes on request (R219, R225, R363, R368, R406): a DATA_MOVE waits with the lines its clamps leave it, one to the
host without a window with zeros; the first of those from the host asks for its bytes; its end completes it DONE, or POISON where
bytes could not be read; one to the host whose reads get no slot yet goes on later. An ATTEST
whose buffer is shorter than a Recipe completes REFUSED; another goes to the Trusted Controller, and completes when its
Recipe has been written. (The model's choices it rests on: log entries 94, 129, 130.) -/
def Obligations.MovesAndRecipes : Prop :=
  ∀ (s : State) (p : PartId) (h : EntryHead) (b : MoveBody) (haddr : DWord) (maxlen : Word) (nonce : List Byte), s.Shaped →
    let x := s.part p.toNat
    let n := if b.nlines = 0 then 1 else Nat.min 16777216 b.nlines.toNat
    let c := if b.toHost = false then writeClamp s p.toNat b.pline.toNat n
      else if windowEnd s p.toNat = 0 then (0, n, true) else readClamp s p.toNat b.pline.toNat n
    let next := x.moves.find? (fun m => m.toHost || decide (m.n ≤ m.done))
    (EntryReady p.toNat h 5 (fun bs => moveBody bs == b) s → ∃ t, exec (.dataMove p h b) s = .next t ∧
      (t.part p.toNat).moves = x.moves ++ [⟨workStarted p.toNat h 5 s, b.toHost, b.haddr.toNat / 64 * 64, c.1, c.2.1, 0, false⟩] ∧
      (b.toHost = false → c.2.1 ≠ 0 → (∀ m ∈ x.moves, m.toHost = true) → freeTag s ≠ none →
        ∃ tag l, Out.mrd tag (b.haddr.toNat / 64 * 64) l ∈ t.out ∨ Out.mrd tag (b.haddr.toNat / 64 * 64) l ∈ t.host.held)) ∧
    (next = none → exec (.dataMoveEnd p) s = .next s) ∧
    (∀ j, next = some j → (s.queue p.toNat h.q.toNat).en = true → (s.queue p.toNat h.q.toNat).cqs ≤ 16 → j.work = workStarted p.toNat h 5 s →
      (j.toHost = false → ∃ t, exec (.dataMoveEnd p) s = .next t ∧ Completes p.toNat h 5 (if j.pois then 5 else 0) s t) ∧
      (j.toHost = true → let r := moveOut p.toNat j (j.n - j.done) j.done s
        (r.2.2 = false → j.n ≤ r.2.1 → ∃ t, exec (.dataMoveEnd p) s = .next t ∧ Completes p.toNat h 5 0 s t) ∧
        (j.done < j.n → unitMay s 1 p.toNat [j.line + j.done] = false → ∃ t, exec (.dataMoveEnd p) s = .next t ∧
          (t.part p.toNat).moves = x.moves ∧ t.out = s.out))) ∧
    (EntryReady p.toNat h 10 (fun bs => attestBody bs == (haddr, maxlen, nonce)) s → maxlen.toNat < 720 → ∃ t, exec (.attest p h haddr maxlen nonce) s = .next t ∧
      Completes p.toNat h 10 2 s t ∧ t.tc = s.tc) ∧
    (EntryReady p.toNat h 10 (fun bs => attestBody bs == (haddr, maxlen, nonce)) s → 720 ≤ maxlen.toNat → ∃ t, exec (.attest p h haddr maxlen nonce) s = .next t ∧
      t.tc.work = s.tc.work ++ [.recipe (workStarted p.toNat h 10 s) haddr.toNat maxlen.toNat nonce]) ∧
    (∀ m rest, s.tc.work = .recipe (workStarted p.toNat h 10 s) haddr.toNat m nonce :: rest → (s.queue p.toNat h.q.toNat).en = true →
      (s.queue p.toNat h.q.toNat).cqs ≤ 16 → ∃ t, exec .recipeWritten s = .next t ∧ Completes p.toNat h 10 0 s t ∧
        t.tc.work = rest ∧ t.tc.rcpcnt = s.tc.rcpcnt + 1) ∧
    (∀ ctr rest, s.tc.work = .recipeDev ctr nonce :: rest → ∃ t, exec .recipeWritten s = .next t ∧
      (∃ body sig, Out.mgmt 0x130 0 ctr body sig ∈ t.out) ∧ t.tc.work = rest ∧ t.tc.rcpcnt = s.tc.rcpcnt + 1) ∧
    (s.tc.work = [] → exec .recipeWritten s = .next s)

/-! The Sample Ingest Unit. -/

/-- Feeds reach the SIU (R370, R371, R375, R376): a source that is no host address, storage port or window, or a feed that
needs an EPOCH before any, completes REFUSED; behind another feed it waits; an EPOCH starts the stream anew with its seed
and its number of records to a window, at most 2^26; a feed of frames or a dictionary asks for its bytes; an END with
nothing left to emit completes, with something left it closes the window and waits; a RESUME goes on from its stream offset.
(The model's choices it rests on: log entries 32, 94.) -/
def Obligations.FeedsAreTaken : Prop :=
  ∀ (s : State) (p : PartId) (h : EntryHead) (f : FeedSrc) (seed : DWord) (k : BitVec 5) (slot : Bool) (id : Word)
    (foff : DWord) (skip : Word), s.Shaped →
    let u := s.siu p.toNat
    let w := workStarted p.toNat h 6 s
    let most (m : Nat) := Nat.min m f.len.toNat
    let feed (op : SiuOp) (m : Nat) (begun : Bool) : SiuFeed :=
      ⟨w, op, f.src.toNat, f.port.toNat, f.srca.toNat, most m, begun, 0, most m, false, [], none⟩
    let bare (op : SiuOp) : SiuFeed := ⟨w, op, 0, 0, 0, 0, false, 0, 0, false, [], none⟩
    let asks (t : State) : Prop := freeTag s ≠ none → ∃ tag n, Out.mrd tag (f.srca.toNat / 64 * 64) n ∈ t.out ∨
      Out.mrd tag (f.srca.toNat / 64 * 64) n ∈ t.host.held
    let bad := f.src = 3 ∨ (f.src = 1 ∧ isStorage s f.port.toNat = false)
    let data := EntryReady p.toNat h 6 (fun bs => feedOp bs == 0 && feedBody bs == f) s
    let epoch := EntryReady p.toNat h 6 (fun bs => feedOp bs == 1 && entryBits bs 32 0 64 == seed.toNat && entryBits bs 10 0 5 == k.toNat) s
    let dict := EntryReady p.toNat h 6
      (fun bs => feedOp bs == 2 && feedBody bs == f && entryFlag bs 11 0 == slot && entryBits bs 12 0 32 == id.toNat) s
    let finish := EntryReady p.toNat h 6 (fun bs => feedOp bs == 3) s
    let resume := EntryReady p.toNat h 6
      (fun bs => feedOp bs == 4 && feedBody bs == f && entryBits bs 32 0 64 == foff.toNat && entryBits bs 40 0 32 == skip.toNat) s
    (bad → (data → ∃ t, exec (.siuFeedData p h f) s = .next t ∧ Completes p.toNat h 6 2 s t ∧ t.siu p.toNat = u) ∧
      (dict → ∃ t, exec (.siuFeedDict p h f slot id) s = .next t ∧ Completes p.toNat h 6 2 s t ∧ t.siu p.toNat = u) ∧
      (resume → ∃ t, exec (.siuFeedResume p h f foff skip) s = .next t ∧ Completes p.toNat h 6 2 s t ∧ t.siu p.toNat = u)) ∧
    (¬ bad → u.live = false → u.feeds = [] →
      (data → ∃ t, exec (.siuFeedData p h f) s = .next t ∧ Completes p.toNat h 6 2 s t ∧ t.siu p.toNat = u) ∧
      (resume → ∃ t, exec (.siuFeedResume p h f foff skip) s = .next t ∧ Completes p.toNat h 6 2 s t ∧ t.siu p.toNat = u)) ∧
    (finish → u.live = false → u.feeds = [] → ∃ t, exec (.siuFeedEnd p h) s = .next t ∧ Completes p.toNat h 6 2 s t ∧ t.siu p.toNat = u) ∧
    (∀ g rest, u.feeds = g :: rest → g.op = .data → g.begun = true → u.live = true → g.left ≠ 0 → g.pois = false → ¬ bad →
      (data → ∃ t, exec (.siuFeedData p h f) s = .next t ∧ t.siu p.toNat = { u with feeds := u.feeds ++ [feed .data (2 ^ 64) false] }) ∧
      (dict → ∃ t, exec (.siuFeedDict p h f slot id) s = .next t ∧
        t.siu p.toNat = { u with feeds := u.feeds ++ [feed (.dict slot id) (2 ^ 20) false] }) ∧
      (resume → ∃ t, exec (.siuFeedResume p h f foff skip) s = .next t ∧
        t.siu p.toNat = { u with feeds := u.feeds ++ [feed (.resume foff.toNat skip.toNat) (2 ^ 64) false] }) ∧
      (finish → ∃ t, exec (.siuFeedEnd p h) s = .next t ∧ (t.siu p.toNat).feeds = u.feeds ++ [bare .finish]) ∧
      (epoch → ∃ t, exec (.siuFeedEpoch p h seed k) s = .next t ∧ (t.siu p.toNat).feeds = u.feeds ++ [bare (.epoch seed k.toNat)])) ∧
    (epoch → u.feeds = [] → u.ends = [] → ∃ t, exec (.siuFeedEpoch p h seed k) s = .next t ∧ Completes p.toNat h 6 0 s t ∧
      let v := t.siu p.toNat
      v.live = true ∧ v.seed = seed ∧ v.k = Nat.min 26 k.toNat ∧ v.kept = 0 ∧ v.badcrc = 0 ∧ v.frames = 0 ∧ v.csum = 0 ∧ v.long = 0 ∧
        v.rposW = 0 ∧ v.nexti = 0 ∧ v.foff = 0 ∧ v.skip = 0 ∧ v.wins = [] ∧ v.prod = 0 ∧ v.cfg = u.cfg ∧ v.dicts = u.dicts ∧ 2 ≤ v.oring) ∧
    (u.feeds = [] → f.src = 0 → f.len ≠ 0 →
      (u.live = true → (data → ∃ t, exec (.siuFeedData p h f) s = .next t ∧ t.siu p.toNat = { u with feeds := [feed .data (2 ^ 64) true] } ∧ asks t) ∧
        (resume → ∃ t, exec (.siuFeedResume p h f foff skip) s = .next t ∧ (t.siu p.toNat).feeds = [feed (.resume foff.toNat skip.toNat) (2 ^ 64) true] ∧
          (t.siu p.toNat).foff = foff.toNat ∧ (t.siu p.toNat).skip = skip.toNat ∧ (t.siu p.toNat).off = foff.toNat ∧
          (t.siu p.toNat).passing = skip.toNat ∧ (t.siu p.toNat).wins = [] ∧ asks t)) ∧
      (dict → ∃ t, exec (.siuFeedDict p h f slot id) s = .next t ∧
        t.siu p.toNat = { u with feeds := [feed (.dict slot id) (2 ^ 20) true] } ∧ asks t)) ∧
    (u.feeds = [] → f.src = 0 → f.len = 0 →
      (u.live = true → data → ∃ t, exec (.siuFeedData p h f) s = .next t ∧ Completes p.toNat h 6 0 s t ∧ t.siu p.toNat = u) ∧
      (dict → ∃ t, exec (.siuFeedDict p h f slot id) s = .next t ∧ Completes p.toNat h 6 0 s t ∧
        mget none (t.siu p.toNat).dicts (if slot then 1 else 0) = some (id, []))) ∧
    (finish → u.feeds = [] → u.live = true →
      (u.wins = [] → u.ends = [] → ∃ t, exec (.siuFeedEnd p h) s = .next t ∧ Completes p.toNat h 6 0 s t ∧ t.siu p.toNat = u) ∧
      (u.wins ≠ [] → ∃ t, exec (.siuFeedEnd p h) s = .next t ∧
        t.siu p.toNat = { u with wins := u.wins.map (fun x => { x with closed := true }), ends := u.ends ++ [w] }))

/-- Frames, records and the ring (R225, R372–R377): the next whole frame of the feed that runs takes its bytes of the feed; a
skippable one is passed over; one whose window exceeds 8 MiB or whose dictionary is absent is dropped and counted; one that is none
drops the rest of its feed, and so does one that runs past its feed's end; a content checksum that differs is counted, and its
records stand. A record of good checksum is kept in the filling window, one of bad checksum is counted. The record that the
window's permutation names is written to the ring and the producer count rises by its lines; one longer than the ring is
passed over and counted; one for which the ring has no room waits until the consumer line has been read again; reads of the buffer
half and of the consumer line wait for their slots. (The model's choices it rests on: log entries 32, 126, 129.) -/
def Obligations.SamplesFlow : Prop :=
  ∀ (s : State) (p : PartId), s.Shaped →
    let u := s.siu p.toNat
    let live := (s.part p.toNat).live = true
    (u.feeds = [] ∨ ¬ live ∨ (∃ f rest, u.feeds = f :: rest ∧ f.begun = false) → exec (.siuFrameDecode p) s = .next s) ∧
    (∀ f rest, u.feeds = f :: rest → f.op = .data → f.begun = true → f.src ≠ 2 → f.pois = false → f.rest = none → f.left ≠ 0 → u.live = true →
      live →
      let z := zFrame f.buf
      (z.end_ = .more → f.got < f.len → ∃ t, exec (.siuFrameDecode p) s = .next t ∧ t.siu p.toNat = u.settlePos) ∧
      ((z.end_ = .more ∧ f.len ≤ f.got) ∨ (z.skippable = false ∧ z.dictId = 0 ∧ z.window ≤ 8388608 ∧ ∃ n, z.end_ = .bad n (some [])) →
        rest = [] → ∃ t, exec (.siuFrameDecode p) s = .next t ∧ (t.siu p.toNat).feeds = [] ∧ (t.siu p.toNat).kept = u.kept ∧
          (t.siu p.toNat).off = u.off + f.left ∧ (t.siu p.toNat).frames = Nat.min 0xFFFF (u.frames + 1)) ∧
      (∀ n plain, z.end_ = .done n plain → n < f.left →
        let v := { u with off := u.off + n, feeds := { f with left := f.left - n, buf := f.buf.drop n } :: rest }
        let content := zContent [] (f.buf.take n) plain true
        (z.skippable = true → ∃ t, exec (.siuFrameDecode p) s = .next t ∧ t.siu p.toNat = v.settlePos) ∧
        (z.skippable = false → (8388608 < z.window ∧ z.dictId = 0) ∨ (z.dictId ≠ 0 ∧ ∀ i d, mget none u.dicts i = some d → d.1.toNat ≠ z.dictId) →
          ∃ t, exec (.siuFrameDecode p) s = .next t ∧
            t.siu p.toNat = Siu.settlePos { v with passing := 0, frames := Nat.min 0xFFFF (u.frames + 1) }) ∧
        (∀ d pad crc : List Byte, z.skippable = false → z.window ≤ 8388608 → z.dictId = 0 → content.2 = true →
          content.1 = leBytes 4 d.length ++ crc ++ d ++ pad → d.length ≤ 16777216 → crc.length = 4 → pad.length = (d.length + 7) / 8 * 8 - d.length →
          u.passing = 0 → u.wins = [] →
          let csum := if zSumOk z (f.buf.take n) content.1 then u.csum else Nat.min 0xFFFF (u.csum + 1)
          (leNat crc ≠ crc32c d → ∃ t, exec (.siuFrameDecode p) s = .next t ∧
            t.siu p.toNat = { v with csum := csum, badcrc := Nat.min 0xFFFF (u.badcrc + 1) }) ∧
          (leNat crc = crc32c d → ∃ t, exec (.siuFrameDecode p) s = .next t ∧ (t.siu p.toNat).kept = u.kept + 1 ∧
            (t.siu p.toNat).badcrc = u.badcrc ∧ (t.siu p.toNat).frames = u.frames ∧ (t.siu p.toNat).csum = csum ∧
            let lines := (16 + d.length + 63) / 64
            let index := (2 ^ u.k + 7) / 8
            (t.siu p.toNat).wins = [⟨u.rposW, decide (u.k = 0),
              [⟨u.kept, u.wbase + u.rposW % 2 * u.whalf + index, min lines (u.whalf - index), d.length⟩], lines, u.off, 0⟩])))) ∧
    (u.wins = [] ∨ ¬ live ∨ (∃ w rest, u.wins = w :: rest ∧ w.closed = false) → exec (.siuRecordEmit p) s = .next s) ∧
    (∀ w rest r, u.wins = w :: rest → w.closed = true → live → u.nexti < 2 ^ u.k →
      w.recs[perm u.seed (BitVec.ofNat 64 w.w) u.k u.nexti]? = some r →
      let n := (16 + r.len + 63) / 64
      let reads := (upTo r.room).map (r.line + ·)
      (n < u.oring → u.prod % u.oring + n ≤ u.oring → u.prod + n ≤ u.oring + u.cons →
        (unitMay s 1 p.toNat reads = true → (siuData p.toNat r s).2.2 = false →
          ∃ t, exec (.siuRecordEmit p) s = .next t ∧ (t.siu p.toNat).prod = u.prod + n ∧ (t.siu p.toNat).long = u.long) ∧
        (unitMay s 1 p.toNat reads = false → exec (.siuRecordEmit p) s = .next s)) ∧
      (n < u.oring → u.prod % u.oring + n ≤ u.oring → u.oring + u.cons < u.prod + n →
        ∃ t, exec (.siuRecordEmit p) s = .next t ∧ t.siu p.toNat = { u with waits := true }) ∧
      (n < u.oring → u.oring < u.prod % u.oring + n → u.prod + (u.oring - u.prod % u.oring) ≤ u.oring + u.cons →
        ∃ t, exec (.siuRecordEmit p) s = .next t ∧ t.siu p.toNat = { u with prod := u.prod + (u.oring - u.prod % u.oring), waits := false }) ∧
      (u.oring ≤ n → 0 < u.oring → ∃ t, exec (.siuRecordEmit p) s = .next t ∧ (t.siu p.toNat).prod = u.prod ∧
        (t.siu p.toNat).long = Nat.min 0xFFFF (u.long + 1))) ∧
    (u.waits = false ∨ unitMay s 1 p.toNat [u.obase + 1] = false → exec (.siuConsumerReread p) s = .next s) ∧
    (u.waits = true → unitMay s 1 p.toNat [u.obase + 1] = true → (partRead 1 p.toNat (u.obase + 1) s).2.2 = false →
      ∃ t, exec (.siuConsumerReread p) s = .next t ∧
        t.siu p.toNat = { u with cons := leNat ((partRead 1 p.toNat (u.obase + 1) s).2.1.take 8), waits := false })

/-! Management, start-up, the sideband. -/

/-- The checks of a signed management command, in their order (R390, R396–R398; the order is log entry 35): another module's
serial number gives WRONGDEV, a bad signature or an anchor without the command's role BADSIG, a counter not above CMDCTR
REPLAY, and none of them changes anything but the answer; one that the mode does not accept is REFUSED; before Ready nothing
is answered. (The model's choices it rests on: log entries 35, 114.) -/
def Obligations.CommandsAreChecked : Prop :=
  ∀ (s : State) (env : Env) (p q : PartId) (mask : Word) (slab : SlabId) (ps : BitVec 11) (v : Byte) (hs : Bool) (port : PortId)
    (stream : Half) (addr : DWord) (nonce : List Byte) (slabs : List (SlabId × BitVec 11)) (names : List SlabId),
    ∀ x ∈ ([(0x101, 0, .grantGran env p mask slabs), (0x102, 0, .reclaimGran env p mask names), (0x103, 0, .moveGran env p q mask slabs),
        (0x104, 0, .grantSlab env p slab ps), (0x105, 0, .reclaimSlab env p slab), (0x106, 0, .moveSlab env p q slab ps),
        (0x107, 0, .grantShared env p v), (0x108, 0, .revokeShared env p v), (0x109, 0, .setShare env p v), (0x10A, 0, .dissolve env p),
        (0x110, 0, .resetPart env p), (0x120, 1, .crustLoad env v hs port stream addr), (0x121, 1, .crustRetire env v),
        (0x122, 1, .sharedRotate env v), (0x130, 2, .attestDev env nonce), (0x141, 3, .commit env), (0x142, 3, .moduleReset env)]
        : List (Nat × Nat × Instr)),
      let good := env.sigOk = true ∧ anchorOk s env.anchor.toNat x.2.1 = true
      (mgmtRuns s = false → exec x.2.2 s = .next s) ∧
      (mgmtRuns s = true → mgmtAllows s x.1 = false → exec x.2.2 s = .next (respond x.1 1 env.counter [] (mgmtSigned s) s)) ∧
      (mgmtRuns s = true → mgmtAllows s x.1 = true → mgmtSigned s = true →
        (env.serial ≠ s.tc.serial → exec x.2.2 s = .next (respond x.1 4 env.counter [] true s)) ∧
        (env.serial = s.tc.serial → ¬ good → exec x.2.2 s = .next (respond x.1 2 env.counter [] true s)) ∧
        (env.serial = s.tc.serial → good → env.counter ≤ s.tc.cmdctr → exec x.2.2 s = .next (respond x.1 3 env.counter [] true s)))

/-- What the Trusted Controller and the Management Processor do for the operator (R391, R394–R399): COMMIT raises the floors
to those that run and revokes the header's keys; ATTEST_DEV waits for its Recipe; FLASH_WRITE writes a copy that does not
run, and is refused at an offset that is no multiple of 256; ENROLL fills a blank slot or blows a slot's revoke fuse;
READ_REG answers with the registers' values for a count of 1 to 512; a connection is accepted while fewer than SESS sessions
are open; the work at the front ends with its verdict; a request of the MP that R394 does not name is refused (the codes are
log entry 41). (The model's choices it rests on: log entries 33, 36, 37, 41, 70.) -/
def Obligations.OperatorsCommands : Prop :=
  ∀ (s : State) (env : Env) (b erase : Bool) (off : Word) (data nonce cert : List Byte) (sigs ok certSig : Bool) (slot : BitVec 2)
    (roff : BitVec 24) (count : Half) (code : DWord),
    let base := if b then 0x04000000 else 0
    let enrolls := mgmtRuns s = true ∧ mgmtAllows s 0x150 = true ∧ env.serial = s.tc.serial ∧ keyCertValid s 2 cert certSig = true ∧
      env.sigOk = true ∧ s.tc.cmdctr.toNat < env.counter.toNat
    (MgmtPasses 0x141 3 env s → ∃ t, exec (.commit env) s = .next t ∧ MgmtAnswered 0x141 0 env t ∧ t.tc.cmdctr = env.counter ∧
      t.tc.fwfloor = max s.tc.fwfloor (leNat ((s.tc.fwHdr.drop 8).take 1)) ∧
      (s.tc.hasCfg = true → t.tc.cfgfloor = max s.tc.cfgfloor (secNum s.tc.cfg 16 1)) ∧
      t.tc.keyrevoke = s.tc.keyrevoke ||| BitVec.ofNat 32 (leNat ((s.tc.fwHdr.drop 16).take 4))) ∧
    (MgmtPasses 0x130 2 env s → ∃ t, exec (.attestDev env nonce) s = .next t ∧ t.out = s.out ∧
      t.tc.work = s.tc.work ++ [.recipeDev env.counter nonce]) ∧
    (MgmtPasses 0x140 3 env s → data.length ≤ 1048576 → off.toNat % 256 = 0 → off.toNat + data.length ≤ 0x04000000 → s.tc.fwCopy ≠ b →
      (s.tc.hasCfg = true → s.tc.cfgCopy ≠ b) → ∃ t, exec (.flashWrite env b erase off data sigs) s = .next t ∧ MgmtAnswered 0x140 0 env t ∧
        ∀ a, a < 0x08000000 → (flashBytes t a 1).head? =
          if base + off.toNat ≤ a ∧ a < base + off.toNat + data.length then data[a - (base + off.toNat)]?
          else if erase ∧ base ≤ a ∧ a < base + 0x04000000 then some 0xFF else (flashBytes s a 1).head?) ∧
    (MgmtPasses 0x140 3 env s → data.length ≤ 1048576 → off.toNat % 256 ≠ 0 ∨ 0x04000000 < off.toNat + data.length →
      ∃ t, exec (.flashWrite env b erase off data sigs) s = .next t ∧ MgmtAnswered 0x140 1 env t ∧
        ∀ a, a < 0x08000000 → flashBytes t a 1 = flashBytes s a 1) ∧
    (1049600 < 148 + data.length → ∃ t, exec (.flashWrite env b erase off data sigs) s = .next t ∧ t.tc.sessions = s.tc.sessions - 1 ∧
      t.out = s.out ∧ t.tc.flash = s.tc.flash) ∧
    (enrolls → s.tc.ophash.find? (fun e => e.1 == slot.toNat) = none → s.tc.oprevoke.getLsbD slot.toNat = false → nonce.length = 48 →
      ∃ t, exec (.enroll env slot false nonce cert certSig) s = .next t ∧ MgmtAnswered 0x150 0 env t ∧ mget [] t.tc.ophash slot.toNat = nonce ∧
        t.tc.oprevoke = s.tc.oprevoke) ∧
    (enrolls → mget [] s.tc.ophash slot.toNat ≠ [] ∨ s.tc.oprevoke.getLsbD slot.toNat = true →
      ∃ t, exec (.enroll env slot false nonce cert certSig) s = .next t ∧ MgmtAnswered 0x150 1 env t ∧ t.tc.ophash = s.tc.ophash) ∧
    (enrolls → ∃ t, exec (.enroll env slot true nonce cert certSig) s = .next t ∧ MgmtAnswered 0x150 0 env t ∧ t.tc.ophash = s.tc.ophash ∧
      t.tc.oprevoke = s.tc.oprevoke ||| (1#4 <<< slot.toNat)) ∧
    (mgmtRuns s = true → mgmtAllows s 0x150 = true → env.serial = s.tc.serial →
      certSig = false ∨ env.sigOk = false ∨ leNat (cert.take 4) ≠ 0x5452434B ∨ (nth 0 cert 4).toNat ≠ 2 ∨
        sha48 ((cert.drop 112).take 96) ≠ s.tc.roothash ∨ 32 ≤ leNat ((cert.drop 8).take 4) ∨
        s.tc.keyrevoke.getLsbD (leNat ((cert.drop 8).take 4)) = true →
      exec (.enroll env slot ok nonce cert certSig) s = .next (respond 0x150 2 env.counter [] true s)) ∧
    (mgmtRuns s = true → 1 ≤ count.toNat → count.toNat ≤ 512 → ∃ t body, exec (.readReg env.counter roff count) s = .next t ∧
      t.out = .mgmt 1 0 env.counter body [] :: s.out ∧ body.length = 8 * count.toNat ∧
      ∀ i, i < count.toNat → (body.drop (8 * i)).take 8 = leBytes 8 (winRead s (roff.toNat + 8 * i))) ∧
    (mgmtRuns s = true → count.toNat = 0 ∨ 512 < count.toNat → exec (.readReg env.counter roff count) s =
      .next { s with out := .mgmt 1 1 env.counter [] [] :: s.out }) ∧
    (mgmtRuns s = false → exec (.readReg env.counter roff count) s = .next s ∧ exec .tlsConnectionAccept s = .next s ∧
      exec (.mpRequest code off data) s = .next s) ∧
    (mgmtRuns s = true → s.tc.sessions < maxSessions s → ∃ t chain, exec .tlsConnectionAccept s = .next t ∧
      t = { s with tc := { s.tc with sessions := s.tc.sessions + 1 }, out := .tls s.tc.mgmtCert chain :: s.out } ∧
      chain = if s.tc.certOk then [identityCert s, caCert s] else [caCert s]) ∧
    (maxSessions s ≤ s.tc.sessions → exec .tlsConnectionAccept s = .next s) ∧
    (∀ v l rest, s.tc.work = .crustSig v :: rest → s.load v = some l → l.checked = ldSig →
      (ok = false → ∃ t, exec (.tcWorkComplete ok) s = .next t ∧ t.load v = none ∧ t.tc.work = rest ∧
        ∃ body sig, Out.mgmt 0x120 5 l.counter body sig ∈ t.out) ∧
      (ok = true → pkgOk s v l = true → (l.mine s.tc).isSome = true → ∃ t, exec (.tcWorkComplete ok) s = .next t ∧
        t.load v = some { l with checked := ldKey } ∧ t.tc.work = rest ++ [.crustKey v])) ∧
    (∀ v l rest, s.tc.work = .crustKey v :: rest → s.load v = some l → l.checked = ldKey →
      let unwrapped := crustKey s.tc (l.pkg.take 512) (l.entry ((l.mine s.tc).getD 0))
      (unwrapped = none → ∃ t, exec (.tcWorkComplete ok) s = .next t ∧ t.load v = none ∧ t.tc.work = rest ∧
        ∃ body sig, Out.mgmt 0x120 6 l.counter body sig ∈ t.out) ∧
      (∀ key, unwrapped = some key → key.take 32 ≠ (key.drop 32).take 32 → ∃ t id, exec (.tcWorkComplete ok) s = .next t ∧ t.tc.work = rest ∧
        t.load v = some { l with checked := ldKeyLoad, key := id } ∧ (t.keyReg (32 + crustKslot s v)).loading = some (false, id))) ∧
    (∀ d rest, s.tc.work = .mpSign d :: rest → ∃ t sig, exec (.tcWorkComplete ok) s = .next t ∧ t.tc.work = rest ∧ t.out = .mp 3 0 sig :: s.out) ∧
    (s.tc.work = [] → exec (.tcWorkComplete ok) s = .next s) ∧
    (mgmtRuns s = true →
      (code = 1 → ∃ t, exec (.mpRequest code off data) s = .next t ∧ t.tc = s.tc ∧
        t.out = .mp 1 0 (flashRead s off.toNat (min 4096 (leNat (data.take 4)))) :: s.out) ∧
      (code = 2 → 0x08040000 ≤ off.toNat → off.toNat + data.length ≤ 0x10000000 → ∃ t, exec (.mpRequest code off data) s = .next t ∧
        t.out = .mp 2 0 [] :: s.out ∧ flashBytes t off.toNat data.length = data) ∧
      (code = 3 → ∃ t, exec (.mpRequest code off data) s = .next t ∧ t.out = s.out ∧ t.tc.work = s.tc.work ++ [.mpSign data]) ∧
      (code.toNat = 0 ∨ 3 < code.toNat ∨ (code = 2 ∧ off.toNat < 0x08040000) → ∃ t, exec (.mpRequest code off data) s = .next t ∧
        t.tc = s.tc ∧ Out.mp code.toNat 2 [] ∈ t.out))

/-- Start and stop (R389–R393, R398, R461, R470–R474, R479): MEN with good input powers the module, unless an overvoltage
has been latched; a release of MRST_N starts it, into Recovery mode when no firmware copy is usable; Ready follows phase 8
in Normal and Provision mode, with the partitions, slabs and port roles of the section. A module reset, by the pin or by
command, and a loss of power keep the fuses, the flash and the repair record and nothing that partitions hold, and release
TWS_OUT. (The model's choices it rests on: log entries 20, 86, 87, 90.) -/
def Obligations.ModuleStartsAndStops : Prop :=
  ∀ (s : State) (env : Env) (slot : BitVec 3) (v : BootVerdict), s.Shaped →
    let keeps (t : State) : Prop := t.fuses = s.fuses ∧ t.tc.flash = s.tc.flash ∧ t.repairs = s.repairs ∧ t.aon = s.aon ∧
      t.parts = State.reset.parts ∧ t.tiles = State.reset.tiles ∧ t.imem = State.reset.imem ∧ t.hbm.cells = [] ∧ t.fills = fills0 ∧
      t.tc.ready = false ∧ t.mdl.mrstN = false ∧ t.mdl.twsOut = false
    (s.mdl.pgood = false → s.mdl.overv = false → exec .menAssert s = .next { s with aon := 0, mdl := { s.mdl with men := true, pgood := true } }) ∧
    (s.mdl.pgood = true ∨ s.mdl.overv = true → exec .menAssert s = .next { s with mdl := { s.mdl with men := true } }) ∧
    (∃ t, exec .menDeassert s = .next t ∧ keeps t ∧ t.mdl.pgood = false ∧ t.mdl.men = false ∧ t.mdl.overv = false ∧ t.out = s.out) ∧
    (∃ t, exec .vinUndervoltage s = .next t ∧ keeps t ∧ t.mdl.pgood = false ∧ t.mdl.men = s.mdl.men ∧ t.out = s.out) ∧
    (∃ t, exec .vinOvervoltage s = .next t ∧ keeps t ∧ t.mdl.pgood = false ∧ t.mdl.overv = true ∧ t.out = s.out) ∧
    (s.mdl.pgood = true → ∃ t, exec .mrstNAssert s = .next t ∧ keeps t ∧ t.mdl.pgood = true) ∧
    (s.mdl.pgood = false → exec .mrstNAssert s = .next s) ∧
    (MgmtPasses 0x142 3 env s → s.twin.detach = none → s.twin.sync = false → ∃ t, exec (.moduleReset env) s = .next t ∧
      MgmtAnswered 0x142 0 env t ∧ t.parts = State.reset.parts ∧ t.tc.ready = false ∧ t.mdl.mrstN = false ∧ t.fuses = s.fuses) ∧
    (s.mdl.pgood = false ∨ s.mdl.mrstN = true → exec (.mrstNRelease slot v) s = .next s) ∧
    (s.mdl.pgood = true → s.mdl.mrstN = false → (chooseFw s v).1 = none → ∃ t, exec (.mrstNRelease slot v) s = .next t ∧
      t.tc.mode = 2 ∧ t.tc.phase8 = s.tc.phase8 ∧ t.mdl.slotId = slot ∧ t.mdl.twsOut = true ∧ t.mdl.mrstN = true) ∧
    (∀ copy, s.mdl.pgood = true → s.mdl.mrstN = false → (chooseFw s v).1 = some copy → s.tc.mode = 0 → s.tc.hasCfg = false → v.trainFail = [] →
      recordedLost s = [] → ∃ t, exec (.mrstNRelease slot v) s = .next t ∧ t.tc.phase8 = true ∧ t.tc.fwCopy = copy ∧ t.tc.boots = s.tc.boots + 1 ∧
        t.mdl.slotId = slot ∧ t.mdl.twsOut = true ∧ ((t.tc.hasCfg = true ∧ t.tc.mode = 0) ∨ (t.tc.hasCfg = false ∧ t.tc.mode = 1))) ∧
    (s.tc.phase8 = false ∨ s.tc.ready = true ∨ 2 ≤ s.tc.mode.toNat → exec .ready s = .next s) ∧
    (s.tc.phase8 = true → s.tc.ready = false → s.tc.mode = 1 → ∃ t, exec .ready s = .next t ∧ t.tc.ready = true ∧ t.parts = s.parts ∧ t.hbm = s.hbm) ∧
    (s.tc.phase8 = true → s.tc.ready = false → s.tc.mode = 0 → ∃ t, exec .ready s = .next t ∧ t.tc.ready = true ∧
      (∀ n, n < 768 → t.slab n = slabOfWord (secSlab s.tc.cfg n) (s.slab n).avail) ∧
      (∀ p, p < 32 → secPart s.tc.cfg p 0 4 ≠ 0 → (t.part p).pstate = 1 ∧ (t.part p).granules.toNat = secPart s.tc.cfg p 0 4 ∧
        (t.keyReg p).k0.isSome = true ∧ (t.keyReg p).cur = false) ∧
      (∀ q, q < 7 → roleOf t q = secRole s.tc.cfg q % 8) ∧ t.twin.readyAt = s.aon.toNat)

/-- The I3C sideband (R480–R484): the module answers from MRST_N's release on, at the dynamic address it has been given;
STATUS shows mode, power state, causes and recovery state, and clears the causes but CAUSE0 and CAUSE6, as a write of
PWR_MOD does; an image comes in order, its first 640 bytes held until the end. (The model's choices it rests on: log entries
8, 89.) -/
def Obligations.Sideband : Prop :=
  ∀ (s : State) (a : BitVec 7) (len off : Word) (data : List Byte) (ok : Bool) (mask : BitVec 7),
    let on := s.mdl.pgood = true ∧ s.mdl.mrstN = true
    let here := on ∧ s.mdl.daddr ≠ none
    let rec_ (f : Module → Module) : Host.Outcome State Fault Refusal := .next (s.modMdl f)
    (on → s.mdl.daddr = none → exec (.setdasa a) s = rec_ (fun m => { m with daddr := some a }) ∧
      exec (.entdaa a) s = rec_ (fun m => { m with daddr := some a })) ∧
    (¬ on ∨ s.mdl.daddr ≠ none → exec (.setdasa a) s = .next s ∧ exec (.entdaa a) s = .next s) ∧
    (on → exec .rstdaa s = rec_ (fun m => { m with daddr := none }) ∧ exec .enec s = rec_ (fun m => { m with ibi := true }) ∧
      exec .disec s = rec_ (fun m => { m with ibi := false })) ∧
    (¬ on → exec .rstdaa s = .next s ∧ exec .enec s = .next s ∧ exec .disec s = .next s) ∧
    (here → (∃ t bs, exec .getpid s = .next t ∧ bs.length = 6 ∧ t = { s with out := .i3c bs :: s.out }) ∧
      (∃ t bs, exec .getbcr s = .next t ∧ bs.length = 1 ∧ t = { s with out := .i3c bs :: s.out }) ∧
      (∃ t bs, exec .getdcr s = .next t ∧ bs.length = 1 ∧ t = { s with out := .i3c bs :: s.out }) ∧
      (∃ t bs, exec .getstatus s = .next t ∧ bs.length = 2 ∧ t.out = .i3c bs :: s.out ∧ t.mdl = s.mdl) ∧
      (∃ t bs, exec .status s = .next t ∧ bs.length = 16 ∧ t.out = .i3c bs :: s.out ∧ nth 0 bs 0 = s.tc.mode.setWidth 8 ∧
        nth 0 bs 1 = s.pwr.state.setWidth 8 ∧ nth 0 bs 2 = s.mdl.cause.setWidth 8 ∧ nth 0 bs 3 = BitVec.ofNat 8 s.mdl.recState ∧
        t.mdl = { s.mdl with cause := s.mdl.cause &&& 0b1000001#7 })) ∧
    (¬ here → exec .getpid s = .next s ∧ exec .getbcr s = .next s ∧ exec .getdcr s = .next s ∧ exec .getstatus s = .next s ∧
      exec .status s = .next s ∧ exec (.recBegin len) s = .next s ∧ exec (.recData off data ok) s = .next s ∧ exec .recEnd s = .next s) ∧
    (exec (.pwrModCauseClear mask) s = rec_ (fun m => { m with cause := m.cause &&& ~~~(mask &&& 0b0111110#7) })) ∧
    (here → s.tc.mode ≠ 2 → exec (.recBegin len) s = rec_ (fun m => { m with recState := 7 }) ∧
      exec (.recData off data ok) s = rec_ (fun m => { m with recState := 7 }) ∧ exec .recEnd s = rec_ (fun m => { m with recState := 7 })) ∧
    (here → s.tc.mode = 2 →
      (1 ≤ len.toNat → len.toNat ≤ 67108864 → exec (.recBegin len) s =
        rec_ (fun m => { m with recState := 1, recLen := len.toNat, recGot := 0, recHdr := [] })) ∧
      (len = 0 ∨ 67108864 < len.toNat → exec (.recBegin len) s = rec_ (fun m => { m with recState := 7 })) ∧
      (s.mdl.recState = 1 → data ≠ [] → data.length ≤ 256 → off.toNat ≠ s.mdl.recGot →
        exec (.recData off data ok) s = rec_ (fun m => { m with recState := 4 })) ∧
      (s.mdl.recState = 1 → data ≠ [] → data.length ≤ 256 → off.toNat = s.mdl.recGot → s.mdl.recHdr.length + data.length < 640 →
        exec (.recData off data ok) s = rec_ (fun m => { m with recGot := off.toNat + data.length, recHdr := m.recHdr ++ data })) ∧
      (s.mdl.recState = 1 → data ≠ [] → data.length ≤ 256 → off.toNat = s.mdl.recGot → s.mdl.recHdr.length + data.length = 640 → ok = false →
        ∃ t, exec (.recData off data ok) s = .next t ∧ t.mdl.recState = 3 ∧ t.tc.flash = s.tc.flash) ∧
      (s.mdl.recState = 1 → data ≠ [] → data.length ≤ 256 → off.toNat = s.mdl.recGot → s.mdl.recHdr.length = 640 → 640 ≤ off.toNat →
        off.toNat + data.length ≤ 67108864 → ∃ t, exec (.recData off data ok) s = .next t ∧ t.mdl = { s.mdl with recGot := off.toNat + data.length } ∧
          flashBytes t (0x04000000 + off.toNat) data.length = data) ∧
      (s.mdl.recState = 1 → s.mdl.recGot ≠ s.mdl.recLen → exec .recEnd s = rec_ (fun m => { m with recState := 6 })) ∧
      (s.mdl.recState = 1 → s.mdl.recGot = s.mdl.recLen → s.mdl.recHdr.length < 640 → exec .recEnd s = rec_ (fun m => { m with recState := 3 })) ∧
      (s.mdl.recState = 1 → s.mdl.recGot = s.mdl.recLen → s.mdl.recHdr.length = 640 → ∃ t, exec .recEnd s = .next t ∧ t.mdl.recState = 2 ∧
        flashBytes t 0x04000000 640 = s.mdl.recHdr) ∧
      (s.mdl.recState ≠ 1 → exec (.recData off data ok) s = .next s ∧ exec .recEnd s = .next s))

/-! Power, clocks, the event log. -/

/-- Power states (R415–R425): a wake event turns an entry round and starts an exit; the permitted state is the deepest whose
conditions have held for their time, and the module leaves a deeper state or begins to enter a deeper one that it permits;
the entry's end accounts the residency, and in Chill takes every port down and empties the line caches; the exit's end
brings Run back, with what Chill loses cleared; PWR_WAKE takes 16 bits, with a clamp of the power unit for a SCALE above 5;
the host die may ask for the exit of L1. (The model's choices it rests on: log entries 61, 64, 65, 94.) -/
def Obligations.PowerStates : Prop :=
  ∀ (s : State) (p : PartId) (v : DWord), s.Shaped →
    let w := s.pwr
    let pm := permitted (noteEligible s)
    (inRun s = true → exec .wakeEvent s = .next (s.modPwr (fun w => { w with elig := [] }))) ∧
    (inRun s = false → exec .wakeEvent s = .next (s.modPwr (fun w => { w with change := some (0, false), elig := [] }))) ∧
    (∃ t, exec .permittedStateRecompute s = .next t ∧ t.pwr.permit.toNat = pm ∧ t.pwr.state = w.state ∧
      (w.change = none → t.pwr.change = if pm < w.state.toNat then some (0, false) else if w.state.toNat < pm then some (pm, true) else none) ∧
      (∀ x, w.change = some (x, true) → t.pwr.change = if pm < x then some (0, false) else some (x, true)) ∧
      (∀ x, w.change = some (x, false) → t.pwr.change = some (x, false)) ∧
      (w.change = none → 3 ≤ pm → w.state.toNat < 3 → hostUp s = true → Out.l1 true ∈ t.out)) ∧
    (w.change = none → w.state.toNat < w.permit.toNat → mayEnter s w.permit.toNat = true → ∃ t, exec .powerStateEntryBegin s = .next t ∧
      t.pwr = { w with change := some (w.permit.toNat, true) } ∧
      (3 ≤ w.permit.toNat → w.state.toNat < 3 → hostUp s = true → Out.l1 true ∈ t.out)) ∧
    (w.change ≠ none ∨ w.permit.toNat ≤ w.state.toNat ∨ mayEnter s w.permit.toNat = false → exec .powerStateEntryBegin s = .next s) ∧
    (∀ x, w.change = some (x, true) → 1 ≤ x → x ≤ 4 → w.state.toNat < x → ∃ t, exec .powerStateEntryEnd s = .next t ∧ t.pwr.state.toNat = x ∧
      t.pwr.since = s.aon.toNat ∧ mget 0 t.pwr.resEntries x = mget 0 w.resEntries x + 1 ∧
      mget 0 t.pwr.resTicks w.state.toNat = (mget 0 w.resTicks w.state.toNat + (s.aon.toNat - w.since)) % 2 ^ 48 ∧
      (3 ≤ x → hostUp s = true → t.host.l1 = true) ∧ (x = 4 → t.hbm.cache = [] ∧ ∀ q, q < 7 → (t.port q).state = 0) ∧
      (w.permit.toNat < x → t.pwr.change = some (0, false)) ∧ (w.permit.toNat = x → t.pwr.change = none)) ∧
    (w.change = none ∨ (∃ x, w.change = some (x, false)) → exec .powerStateEntryEnd s = .next s) ∧
    (∀ x, w.change = some (x, false) → ∃ t, exec .powerStateExitEnd s = .next t ∧ t.pwr.state = 0 ∧ t.host.l1 = false ∧ t.pwr.since = s.aon.toNat ∧
      (w.state = 4 → t.tiles = s.tiles.map Tile.cleared ∧ ∀ n, (t.part n).ctxF = ctx0 ∧ (t.part n).ctxB = ctx0 ∧ (t.part n).cvu = cvu0) ∧
      (w.state ≠ 4 → t.tiles = s.tiles ∧ t.imem = s.imem) ∧ (s.host.l1 = true → Out.l1 false ∈ t.out)) ∧
    (w.change = none ∨ (∃ x, w.change = some (x, true)) → exec .powerStateExitEnd s = .next s) ∧
    (∃ t, exec (.pwrWakeWrite p v) s = .next t ∧ (t.part p.toNat).wake = v.setWidth 16 &&& 0x9FFF ∧
      (t.part p.toNat).clampCount = ((clamps p.toNat 0xB (if 6 ≤ (v.toNat / 1024) % 8 then 1 else 0) s).part p.toNat).clampCount ∧
      t.pwr.change = if inRun s then none else some (0, false)) ∧
    (∃ t, exec .ucieL1ExitRequest s = .next t ∧ t.host.l1 = false ∧ (s.host.l1 = true → Out.l1 false ∈ t.out) ∧
      t.pwr.change = if inRun s then none else some (0, false))

/-- Clocks, the limiter, temperatures and telemetry (R412–R414, R426–R429, R435, R480): a trim changes nothing that a tick
counts; the loss of REFCLK and a parity failure are Device-fatal; the limiter lowers ACLK by 50 MHz while the power is above
its target and raises it by 50 MHz after 100 µs below 95%, each at its own rate, and holds ACLK at its floor with stalls;
its target stays between 500 W and PKGLIM; a die temperature of 100 °C throttles until it is below 97 °C and one of 110 °C
is Device-fatal; maxima are kept. (The model's choices it rests on: log entries 60, 62, 63, 85.) -/
def Obligations.ClocksAndLimits : Prop :=
  ∀ (s : State) (avg : Half) (watts : BitVec 12) (temps : List Byte) (m : Telemetry) (t60 : Byte) (unit : Byte),
    let w := s.pwr
    let hot := maxL ((temps.take 32).map (fun b => b.toNat))
    let above := w.target < avg.toNat
    (exec .aonTrim s = .next s) ∧
    (w.reflost = true → exec .refclkLoss s = .next s) ∧
    (w.reflost = false → ∃ t, exec .refclkLoss s = .next t ∧ t.pwr.reflost = true ∧ t.mdl.fatal = true ∧ t.mdl.cause.getLsbD 6 = true) ∧
    (∃ t, exec (.controlStoreParityFailure unit) s = .next t ∧ t.mdl.fatal = true ∧
      (unit.toNat ≤ 0xC → (mget [] s.log.bufs unit.toNat).length < 4 →
        (⟨4, unit.toNat, 0x44, 0xFF, unit.setWidth 64, s.aon⟩ : Report) ∈ mget [] t.log.bufs unit.toNat)) ∧
    (aclkRuns s = false → exec (.limiterSample avg) s = .next s) ∧
    (aclkRuns s = true → ∃ t, exec (.limiterSample avg) s = .next t ∧ t.pwr.target = w.target ∧ t.pwr.state = w.state ∧
      (above ∨ w.level ≠ 0 → 1050 ≤ w.aclk → w.lastStep = 0 ∨ w.lastStep + 31 ≤ s.aon.toNat → t.pwr.aclk = w.aclk - 50 ∧ t.pwr.lastStep = s.aon.toNat + 1) ∧
      (above → w.aclk < 1050 → t.pwr.aclk = w.aclk ∧ t.pwr.stall = true) ∧
      (avg.toNat < w.target → t.pwr.stall = false) ∧
      (¬ above → w.level = 0 → w.target * 95 ≤ avg.toNat * 100 → t.pwr.aclk = w.aclk ∧ t.pwr.below = 0) ∧
      (w.level = 0 → avg.toNat * 100 < w.target * 95 → w.below = 0 → t.pwr.below = s.aon.toNat + 1) ∧
      (w.level = 0 → avg.toNat * 100 < w.target * 95 → w.below ≠ 0 → w.below + 3199 ≤ s.aon.toNat → w.lastStep = 0 ∨ w.lastStep + 319 ≤ s.aon.toNat →
        t.pwr.aclk = if w.aclk + 50 ≤ aclkMax s then w.aclk + 50 else w.aclk)) ∧
    (500 ≤ pkgLim s → exec (.limiterTargetSet watts) s = .next (s.modPwr (fun w => { w with
      target := if watts.toNat < 500 then 500 else if pkgLim s < watts.toNat then pkgLim s else watts.toNat }))) ∧
    (∃ t, exec (.dieTempRead temps) s = .next t ∧ t.pwr.hotspot.toNat = hot ∧ t.pwr.peak.toNat = max w.peak.toNat hot ∧
      t.pwr.level = (if 110 ≤ hot then 2 else if 100 ≤ hot then 1 else if 97 ≤ hot ∧ w.level ≠ 0 then 1 else 0) ∧
      (100 ≤ hot → hot < 110 → w.level = 0 → t.pwr.thrcnt = w.thrcnt + 1 ∧ t.mdl.cause.getLsbD 3 = true) ∧
      (110 ≤ hot → w.level ≠ 2 → t.mdl.fatal = true) ∧ (hot < 110 → t.mdl.fatal = s.mdl.fatal)) ∧
    (∃ t, exec (.telemetryRefresh m) s = .next t ∧ t.pwr.vin = m.vin ∧ t.pwr.iin = m.iin ∧ t.pwr.pin = m.pin ∧ t.pwr.pkg = m.pkg ∧ t.pwr.host = m.host ∧
      t.pwr.pinMax.toNat = max w.pinMax.toNat m.pin.toNat ∧ t.pwr.pkgMax.toNat = max w.pkgMax.toNat m.pkg.toNat ∧
      t.pwr.hostMax.toNat = max w.hostMax.toNat m.host.toNat ∧ (∀ g, g < 32 → mget 0 t.pwr.temps g = nth 0 m.temps g) ∧
      (vinBad w.vinHist = false → vinBad ((m.vin.toNat :: w.vinHist).take 10) = true → t.mdl.cause.getLsbD 1 = true) ∧
      (hostOver (hostLim s) w.hostHist = false → hostOver (hostLim s) ((m.host.toNat :: w.hostHist).take 10) = true → t.mdl.cause.getLsbD 5 = true)) ∧
    (s.host.siteOn = true → ∃ t, exec .hostSiteSwitchOff s = .next t ∧ t.host.siteOn = false ∧ t.host.mods = 0 ∧ t.mdl.cause.getLsbD 5 = true) ∧
    (s.host.siteOn = false → exec .hostSiteSwitchOff s = .next s) ∧
    (∃ t, exec (.lidTempRead t60) s = .next t ∧ t.mdl.lidt = t60 ∧ t.mdl.lidpeak.toNat = max s.mdl.lidpeak.toNat t60.toNat ∧
      (60 ≤ t60.toNat → s.mdl.lidt.toNat < 60 → t.mdl.cause.getLsbD 2 = true) ∧
      (t60.toNat < 60 ∨ 60 ≤ s.mdl.lidt.toNat → t.mdl.cause = s.mdl.cause))

/-- The event log (R434–R439, R464): the unit that round robin serves hands over its oldest report; one that equals its
class's most recent record only counts there; another takes the entry at EVT_WR with the next SEQ, or, when the general area
is full, the next of the fatal reserve if its class is 3 or 4, and is otherwise counted in its class's overflow summary. A
recorded report of class 3 notifies its partition, one of class 4 drives ALERT_N. (The model's choices it rests on: log
entries 68, 69.) -/
def Obligations.EventsAreLogged : Prop :=
  ∀ (s : State) (rd : BitVec 11),
    let l := s.log
    (nextBuf l = none → exec .eventLogIntake s = .next s) ∧
    (∀ k r rest, nextBuf l = some k → mget [] l.bufs k = r :: rest → l.wr.toNat < 1984 → ∃ t, exec .eventLogIntake s = .next t ∧
      mget [] t.log.bufs k = rest ∧ t.log.turn = k ∧ t.log.rd = l.rd ∧
      (∀ i e, coalesceAt l r = some i → mget none l.recs i = some e → t.log.seq = l.seq ∧ t.log.wr = l.wr ∧
        mget none t.log.recs i = some { e with count := min 65535 (e.count + 1), last := r.tick.setWidth 48 }) ∧
      (coalesceAt l r = none → (l.wr.toNat + 1) % 1984 ≠ l.rd.toNat → t.log.seq = l.seq + 1 ∧ t.log.wr.toNat = (l.wr.toNat + 1) % 1984 ∧
        mget none t.log.recs l.wr.toNat = some (newRec l r false) ∧ mget none t.log.recent r.cls = some l.wr.toNat) ∧
      (coalesceAt l r = none → (l.wr.toNat + 1) % 1984 = l.rd.toNat → 3 ≤ r.cls → l.fused < 64 → t.log.seq = l.seq + 1 ∧ t.log.wr = l.wr ∧
        t.log.fused = l.fused + 1 ∧ mget none t.log.recs (1984 + l.fused) = some (newRec l r true)) ∧
      (coalesceAt l r = none → (l.wr.toNat + 1) % 1984 = l.rd.toNat → r.cls < 3 ∨ 64 ≤ l.fused → t.log.seq = l.seq ∧ t.log.wr = l.wr ∧
        t.log.recs = l.recs ∧ (mget (0, 0) t.log.ovf r.cls).1 = min 0xFFFFFFFF ((mget (0, 0) l.ovf r.cls).1 + 1) ∧ t.out = s.out) ∧
      (r.cls = 3 → coalesceAt l r = none → (l.wr.toNat + 1) % 1984 ≠ l.rd.toNat → (s.part r.part.toNat).pstate ≠ 4 →
        let n := Out.ntf 4 r.part.toNat (s.part r.part.toNat).gen (BitVec.ofNat 64 (eventArg l.wr.toNat r (s.part r.part.toNat).gen))
        n ∈ t.out ∨ n ∈ t.host.held) ∧
      (r.cls = 4 → coalesceAt l r ≠ none ∨ (l.wr.toNat + 1) % 1984 ≠ l.rd.toNat ∨ l.fused < 64 → t.mdl.cause.getLsbD 0 = true)) ∧
    (∃ t, exec (.evtRdAdvance rd) s = .next t ∧ t.log = { l with rd := BitVec.ofNat 11 (rd.toNat % 1984) }) ∧
    (exec .evtCtlFrclr s = .next (s.modLog (fun l => { l with fused := 0 })))

/-! The twin. -/

/-- Records that arrive on TP (R282, R454–R462). A HEARTBEAT is noted, and brings back a TP that had failed. ATTACH of
another configuration unpairs, or is passed over by a STANDBY; that of a module which serves makes this one STANDBY, or
unpairs two that both serve; that of another makes a serving module resynchronise, and otherwise one of the two serves.
HANDOVER and FAIL make a SYNCED STANDBY serve alone and tell the partitions. A STANDBY applies mirror records and counts
them; SYNCDONE makes it SYNCED; a CKPT unit goes to its own target. A record that TP does not accept has no effect. `calm`
says that nothing else waits for the acknowledgement. (The model's choices it rests on: log entries 51, 52, 53, 54, 56, 58.)
-/
def Obligations.TwinRecordsArrive : Prop :=
  ∀ (s u : State) (f : Frame), s.Shaped →
    let kind := f.tag.toNat % 256
    let p := f.step.toNat % 32
    let b := f.payload
    let calm (x : State) : Prop := (∀ m, (x.bucket m).kind = 0 → (x.bucket m).acked = false) ∧ x.fills.stages = [] ∧ x.twin.detach = none ∧
      x.twin.stale = 0 ∧ x.twin.resync = false
    let taken : Prop := rxAccept 6 0xD f s = (u, true) ∧ twinRuns u = true ∧ calm u
    let mirror : Prop := taken ∧ f.vc = 1 ∧ u.twin.role = 2
    let twinOf (t : State) (g : Twin → Twin) : Prop := t.twin = g u.twin
    let alone (t : State) : Prop := t.twin.role = 1 ∧ t.twin.paired = false ∧ t.twin.sync = false
    (portUp s 6 = false → calm s → ∀ c ∈ [Instr.heartbeat f, .attach f, .handover f, .fail f, .syncdone f, .fdesc f, .fimg f, .twinCtx f,
      .prog f, .preset f, .ckpt f], exec c s = .next s) ∧
    (taken → f.vc = 0 → kind = 1 →
      (u.twin.tpFail = false → ∃ t, exec (.heartbeat f) s = .next t ∧ twinOf t (fun w => { w with lastRx := u.aon.toNat })) ∧
      (u.twin.tpFail = true → portUp u 6 = true → ∃ t, exec (.heartbeat f) s = .next t ∧
        twinOf t (fun w => { w with lastRx := u.aon.toNat, tpFail := false }) ∧
        ∃ e ∈ vcFrames t 6 0, e.1 = 0xD ∧ e.2.tag = 2 ∧ e.2.payload.take 48 = attachDigest u)) ∧
    (taken → f.vc = 0 → kind = 2 → u.twin.tpFail = false → ∃ t, exec (.attach f) s = .next t ∧
      (b.take 48 ≠ attachDigest u → t.twin.role = u.twin.role ∧ t.twin.paired = (u.twin.role == 2 && u.twin.paired)) ∧
      (b.take 48 = attachDigest u →
        let peer := (nth 0 b 48).toNat % 4
        (u.twin.role = 1 → peer = 1 → t.twin.role = 1 ∧ t.twin.paired = false ∧ t.twin.sync = false) ∧
        (u.twin.role = 1 → peer ≠ 1 → t.twin.role = 1 ∧ t.twin.paired = true ∧ (t.twin.sync = true ∨ t.twin.resync = true)) ∧
        (u.twin.role ≠ 1 → peer = 1 → t.twin.role = 2 ∧ t.twin.paired = true ∧ t.twin.sync = false) ∧
        (u.twin.role = 2 → peer ≠ 1 → t.twin.role = 2) ∧
        (u.twin.role = 0 ∨ u.twin.role = 3 → peer ≠ 1 → (t.twin.role = 1 ∨ t.twin.role = 2) ∧ t.twin.paired = true))) ∧
    (taken → f.vc = 0 → u.twin.tpFail = false → ∀ c, (c = Instr.handover f ∧ kind = 3) ∨ (c = .fail f ∧ kind = 4) →
      (u.twin.role ≠ 2 → ∃ t, exec c s = .next t ∧ twinOf t (fun w => { w with lastRx := u.aon.toNat })) ∧
      (u.twin.role = 2 → u.twin.sync = true → ∃ t, exec c s = .next t ∧ alone t ∧
        t.twin.failovers = min 0xFFFF (u.twin.failovers + 1) ∧ ∀ n, n < 32 → mirroredNow u n = true → (u.part n).pstate ≠ 4 → ∃ g a, Out.ntf 3 n g a ∈ t.out ∨ Out.ntf 3 n g a ∈ t.host.held) ∧
      (u.twin.role = 2 → u.twin.sync = false → ∃ t, exec c s = .next t ∧ alone t ∧ t.twin.refused = min 0xFFFF (u.twin.refused + 1) ∧
        ∀ n, (t.part n).ctxF = (u.part n).ctxF)) ∧
    (taken → f.vc = 0 → u.twin.tpFail = false → kind = 5 →
      (u.twin.role = 2 → u.twin.paired = true → ∃ t, exec (.syncdone f) s = .next t ∧
        twinOf t (fun w => { w with lastRx := u.aon.toNat, sync := true, resyncs := min 0xFFFF (w.resyncs + 1) })) ∧
      (u.twin.role ≠ 2 ∨ u.twin.paired = false → ∃ t, exec (.syncdone f) s = .next t ∧ twinOf t (fun w => { w with lastRx := u.aon.toNat }))) ∧
    (mirror → kind = 0x10 → ∃ t, exec (.fdesc f) s = .next t ∧ t.twin.applied = u.twin.applied + 1 ∧
      ∀ i, t.desc i = if i = leNat (b.take 8) ∧ inRangeOf u p i = true then descOf (b.drop 8) else u.desc i) ∧
    (mirror → kind = 0x11 → ∃ t, exec (.fimg f) s = .next t ∧ t.twin.applied = u.twin.applied + 1 ∧
      let i := leNat (b.take 2)
      let line := leNat ((b.drop 2).take 6)
      (inRangeOf u p i = false → t.hbm = u.hbm) ∧
      (inRangeOf u p i = true → line + (b.length - 8) / 64 ≤ (u.desc i).wlen →
        t.hbm = (partWriteN p ((u.desc i).wloc + line) ((b.drop 8).take (64 * ((b.length - 8) / 64))) u).hbm)) ∧
    (mirror → kind = 0x12 → b.length / 40 = 1 → ∃ t, exec (.twinCtx f) s = .next t ∧ t.twin.applied = u.twin.applied + 1 ∧
      ∀ c, t.ctxRec c = if c = cbase u p + leNat (b.take 8) ∧ leNat (b.take 8) < ccount u p then ctxOf ((b.drop 8).take 32) else u.ctxRec c) ∧
    (mirror → kind = 0x13 → ∃ t, exec (.prog f) s = .next t ∧ t.twin.applied = u.twin.applied + 1 ∧
      mget (0, []) t.twin.progs p = (leNat (b.take 8),
        (if f.offset = 0 then [] else (mget (0, []) u.twin.progs p).2.take (960 * f.offset.toNat)) ++ (b.drop 8).take 960)) ∧
    (mirror → kind = 0x14 → ∃ t, exec (.preset f) s = .next t ∧ t.twin.applied = u.twin.applied + 1 ∧ mget (0, []) t.twin.progs p = (0, []) ∧
      ∀ c, c < ccount u p → t.ctxRec (cbase u p + c) = ctxRec0) ∧
    (taken → f.vc = 2 → kind = 0x20 → u.twin.paired = true → b.length = 1024 →
      let n := f.offset.toNat % 2 ^ 26
      let slot := f.offset.toNat / 2 ^ 26 % 2
      let k := (u.part p).ckp
      let o := Out.mwr p (u.part p).gen (k.hbase + slot * k.hslot * 1024 + 1024 * n) (b.take 256)
      ∃ t, exec (.ckpt f) s = .next t ∧ (ckTgt u = 2 → o ∈ t.out ∨ o ∈ t.host.held) ∧
        (ckTgt u = 1 → ∃ e ∈ vcFrames t (ckPort u) 0, e.1 = 0xA ∧ e.2.payload = b ∧ e.2.tag.toNat = ckStream u % 65536))

/-- The twin without a record (R330, R453–R461, R479): a heartbeat leaves while the twin runs and TP is up; its peer unheard
for 10 ms, a module whose twin sense is released takes it for gone, another takes TP for failed; a module that no ATTACH has
settled serves alone, or is HELD when it has TWROLE 2 and its twin sense is asserted; a HELD one serves after 10 ms
released; a detachment's steps complete after 20 ms and the module resets; the drain of a reset's mirror ends, its mirror
stale; twin sense is noted with its time. (The model's choices it rests on: log entries 55, 95.) -/
def Obligations.TwinTimers : Prop :=
  ∀ (s : State) (p : PartId) (asserted : Bool), s.Shaped →
    let w := s.twin
    let calm := (∀ m, (s.bucket m).kind = 0 → (s.bucket m).acked = false) ∧ s.fills.stages = [] ∧ w.detach = none ∧ w.stale = 0 ∧ w.resync = false
    let lost := twinRuns s = true ∧ w.paired = true ∧ w.lastRx + 320000 ≤ s.aon.toNat
    let waited := twinRuns s = true ∧ w.role = 0 ∧ w.readyAt + 32000000 ≤ s.aon.toNat
    (twinRuns s = true → portUp s 6 = true → ∃ t, exec .heartbeatSend s = .next t ∧ t.twin = { w with beats := w.beats + 1 } ∧
      ∃ g, (vcFrames t 6 0).length = (vcFrames s 6 0).length + 1 ∧ (vcFrames t 6 0).getLast? = some (0xD, g) ∧ g.tag = 1 ∧ nth 0 g.payload 0 = w.role.setWidth 8 ∧
        nth 0 g.payload 1 = (if w.sync then 1 else 0) ∧ leNat ((g.payload.drop 4).take 8) = w.beats % 2 ^ 64) ∧
    (twinRuns s = false ∨ portUp s 6 = false → exec .heartbeatSend s = .next s) ∧
    (calm → ¬ lost → exec .heartbeatLoss s = .next s) ∧
    (calm → lost → w.sense = false → w.role = 1 → ∃ t, exec .heartbeatLoss s = .next t ∧ t.twin = { w with paired := false, sync := false, resync := false }) ∧
    (calm → lost → w.sense = false → w.role = 2 → ∃ t, exec .heartbeatLoss s = .next t ∧ t.twin.role = 1 ∧ t.twin.paired = false ∧
      t.twin.failovers = if w.sync then min 0xFFFF (w.failovers + 1) else w.failovers) ∧
    (calm → lost → w.sense = true → w.tpFail = false → ∃ t, exec .heartbeatLoss s = .next t ∧
      t.twin = { w with tpFail := true, sync := false, resync := false, paired := w.role == 2, stales := min 0xFFFF (w.stales + 1) }) ∧
    (calm → lost → w.sense = true → w.tpFail = true → exec .heartbeatLoss s = .next s) ∧
    (¬ waited → exec .attachWaitExpiry s = .next s) ∧
    (waited → twRole s = 1 ∨ w.sense = false → ∃ t, exec .attachWaitExpiry s = .next t ∧ t.twin = { w with role := 1, paired := false, sync := false, resync := false, tpFail := false }) ∧
    (waited → twRole s ≠ 1 → w.sense = true → ∃ t, exec .attachWaitExpiry s = .next t ∧ t.twin = { w with role := 3 }) ∧
    (∀ x, w.released = some x → w.role = 3 → x + 320000 ≤ s.aon.toNat → ∃ t, exec .heldSenseTimeout s = .next t ∧
      t.twin = { w with role := 1, paired := false, sync := false, resync := false, tpFail := false }) ∧
    (w.released = none ∨ w.role ≠ 3 ∨ (∃ x, w.released = some x ∧ s.aon.toNat < x + 320000) → exec .heldSenseTimeout s = .next s) ∧
    (w.detach = none ∨ (∃ c x, w.detach = some (c, x) ∧ s.aon.toNat < x + 640000) → exec .detachDrainTimeout s = .next s) ∧
    (∀ c x, w.detach = some (c, x) → x + 640000 ≤ s.aon.toNat → w.stale = 0 → w.resync = false → ∃ t, exec .detachDrainTimeout s = .next t ∧
      (∀ n, n < 32 → (t.part n).dlv = []) ∧
      ((∀ n, (s.part n).dlv = []) → mirrorDrained s = true → t.tc.ready = false ∧ t.mdl.mrstN = false ∧
        ∃ body sig, Out.mgmt 0x142 0 c body sig ∈ t.out)) ∧
    (∀ r, (s.part p.toNat).reset = some r → r.mirror = false → ∃ t, exec (.mirrorDrainTimeout p) s = .next t ∧
      (t.part p.toNat).reset = some { r with mirror := true } ∧ t.twin = { w with stale := w.stale ||| (1#32 <<< p.toNat) }) ∧
    ((s.part p.toNat).reset = none ∨ (∃ r, (s.part p.toNat).reset = some r ∧ r.mirror = true) → exec (.mirrorDrainTimeout p) s = .next s) ∧
    (∃ t, exec (.twsInChange asserted) s = .next t ∧ t.twin = { w with sense := asserted, released :=
      if asserted then none else if w.sense = true ∨ w.released = none then some s.aon.toNat else w.released })

/-! Rules stated whole, and reset. -/

/-- R50, for every slot whose FMT is reserved: nothing is loaded, no plane changes, and the clamp counter of R343 rises by
1. -/
def Obligations.ReservedFormatLoadsNothing : Prop :=
  ∀ (s : State) (p : PartId) (a : ArrId) (sl : ArrSlot), s.quiet p.toNat = true → sl.flip = false → 13 ≤ sl.fmt.toNat →
    ∃ t, exec (.arrLoad p a sl) s = .next t ∧ t.tiles = s.tiles ∧ (t.seq p.toNat).loaders = (s.seq p.toNat).loaders ∧
      (t.part p.toNat).ctx.recS = (s.part p.toNat).ctx.recS ∧
      (t.part p.toNat).clampCount.toNat = min 0xFFFFFFFF ((s.part p.toNat).clampCount.toNat + 1)

/-- R391: no command but COMMIT moves a floor or blows a KEYREVOKE bit; a COMMIT raises the floors to the versions that run
and blows the bits that the running header names; until then a copy that was valid stays so, and one below a floor is not.
-/
def Obligations.FloorsRiseAtCommit : Prop :=
  ∀ (s t : State) (c : Instr), exec c s = .next t →
    ((∀ env, c ≠ .commit env) → t.tc.fwfloor = s.tc.fwfloor ∧ t.tc.cfgfloor = s.tc.cfgfloor ∧ t.tc.keyrevoke = s.tc.keyrevoke ∧
      ∀ b sigs, fwHeader t b = fwHeader s b → fwValid t b sigs = fwValid s b sigs) ∧
    (∀ env, c = .commit env → MgmtPasses 0x141 3 env s →
      t.tc.fwfloor = max s.tc.fwfloor (leNat ((s.tc.fwHdr.drop 8).take 1)) ∧ t.tc.cfgfloor = max s.tc.cfgfloor (secNum s.tc.cfg 16 1) ∧
      t.tc.keyrevoke = s.tc.keyrevoke ||| BitVec.ofNat 32 (leNat ((s.tc.fwHdr.drop 16).take 4))) ∧
    (∀ b sigs, fwSvn t b < t.tc.fwfloor → fwValid t b sigs = false) ∧
    (∀ section_ sig, secNum section_ 16 1 < t.tc.cfgfloor → cfgAccepted t section_ sig = false)

/-- Right after reset (R56, R142, R173, R183, R270, R326, R341, R343, R355, R434): the module is in Run, nothing waits and
nothing is stored, every partition is undefined with generation 0 and no clamp counted, every queue pair is disabled with
SQS = CQS = 1 and PHASE 1, every port is DOWN, every descriptor is Empty, no line is spared; ARR_STRIDE0–15 read 1,
SEQ_RACTL has EN = 1 and LIMIT = 8,192 in both contexts; and the numbers of partitions, tiles and granules are those of R13.
(The model's choices it rests on: log entries 20, 44, 45.) -/
def Obligations.ResetState : Prop :=
  State.reset.Shaped ∧ State.reset.pending = [] ∧ inRun State.reset = true ∧ State.reset.hbm.cells = [] ∧ State.reset.log.seq = 0 ∧
    (∀ p q, p < 32 →
      let x := State.reset.part p
      let u := State.reset.queue p q
      x.pstate = 0 ∧ x.gen = 0 ∧ x.granules = 0 ∧ x.clampCount = 0 ∧ x.frozen = false ∧ x.ctxF.loaded = false ∧ x.ctxB.loaded = false ∧
        x.ctxF.ractl = ractlWrite 1 ∧ x.ctxB.ractl = ractlWrite 1 ∧ u.en = false ∧ u.sqs = 1 ∧ u.cqs = 1 ∧ u.phase = true ∧ u.tail = 0) ∧
    (∀ p i, p < 32 → i < 16 → regRead State.reset p (0x1210 + i) = some 1) ∧
    (∀ i, (State.reset.desc i).state = 0 ∧ (State.reset.desc i).gen = 0 ∧ (State.reset.desc i).pins = 0) ∧
    (∀ q, (State.reset.port q).state = 0) ∧ (∀ n, (State.reset.slab n).valid = false) ∧
    (∀ c i, i < 4 → (State.reset.chan c).spares[i]? = some 0x3F)

/-- R264, for every line and unit that writes it: with the slot's current epoch empty the write is discarded and the writing
partition's clamp counter rises by 1; a read of a line whose epoch is empty fails the metadata check, and delivers poison.
-/
def Obligations.LinesOfAnEmptyEpoch : Prop :=
  ∀ (s : State) (p : PartId) (dev : Nat) (bytes : List Byte) (pois scrub : Bool), s.Shaped →
    let e := s.slab (slabOf dev)
    let k := s.keyReg (slotOf e)
    let t := writeLine p.toNat dev bytes pois s
    (e.shared = false → k.curKey = none → t.hbm = s.hbm ∧
      (t.part p.toNat).clampCount.toNat = min 0xFFFFFFFF ((s.part p.toNat).clampCount.toNat + 1)) ∧
    (∀ m, e.valid = true → mget none s.glazeSlabs (slabOf dev) = none → mget none s.hbm.lines dev = some m → mget [] s.hbm.flaws dev = [] →
      k.key (mdEpoch m.md) = none → metaOk s dev m.md = false ∧ (readLine dev [] scrub s).2 = (List.replicate 64 0, true))
end

