-- ==== Sys2Proof/Laws/EraseBase.lean ====
section
/-!
SUPPORT. What the shared operations may change: a state with those parts blanked is the same before and after.
-/

namespace Sys2Proof.Machine

theorem forEach_erase {α : Type} (φ : Foot) (l : List α) (f : α → State → State) (h : ∀ a s, (f a s).erase φ = s.erase φ)
    (s : State) : (forEach l f s).erase φ = s.erase φ := by
  unfold forEach
  induction l generalizing s with
  | nil => rfl
  | cons a l ih => simp [ih, h]

theorem foldl_erase {α : Type} (φ : Foot) (l : List α) (f : State → α → State) (h : ∀ s a, (f s a).erase φ = s.erase φ)
    (s : State) : (l.foldl f s).erase φ = s.erase φ := by
  induction l generalizing s with
  | nil => rfl
  | cons a l ih => simp [ih, h]

theorem foldl_fst_erase {α β : Type} (φ : Foot) (l : List α) (f : State × β → α → State × β)
    (h : ∀ a e, (f a e).1.erase φ = a.1.erase φ) (a : State × β) : (l.foldl f a).1.erase φ = a.1.erase φ := by
  induction l generalizing a with
  | nil => rfl
  | cons e l ih => simp [ih, h]

@[simp] theorem State_modPart_erase (φ : Foot) (p : Nat) (f : Part → Part) (s : State) (hparts : φ.parts = true) :
    (State.modPart p f s).erase φ = s.erase φ := by
  simp [State.modPart, State.erase, blankIf, hparts]

@[simp] theorem State_modTile_erase (φ : Foot) (t : Nat) (f : Tile → Tile) (s : State) (htiles : φ.tiles = true) :
    (State.modTile t f s).erase φ = s.erase φ := by
  simp [State.modTile, State.erase, blankIf, htiles]

@[simp] theorem State_modImem_erase (φ : Foot) (g : Nat) (f : Mem → Mem) (s : State) (himem : φ.imem = true) :
    (State.modImem g f s).erase φ = s.erase φ := by
  simp [State.modImem, State.erase, blankIf, himem]

@[simp] theorem State_modLog_erase (φ : Foot) (f : EvLog → EvLog) (s : State) (hlog : φ.log = true) :
    (State.modLog f s).erase φ = s.erase φ := by
  simp [State.modLog, State.erase, blankIf, hlog]

@[simp] theorem State_modRepairs_erase (φ : Foot) (f : List RepairEnt → List RepairEnt) (s : State)
    (hrepairs : φ.repairs = true) : (State.modRepairs f s).erase φ = s.erase φ := by
  simp [State.modRepairs, State.erase, blankIf, hrepairs]

@[simp] theorem State_modGlazeSlabs_erase (φ : Foot) (f : Map (Option GlazeJob) → Map (Option GlazeJob)) (s : State)
    (hglazeSlabs : φ.glazeSlabs = true) : (State.modGlazeSlabs f s).erase φ = s.erase φ := by
  simp [State.modGlazeSlabs, State.erase, blankIf, hglazeSlabs]

@[simp] theorem State_modGlazeGrans_erase (φ : Foot) (f : Map (Option GlazeGran) → Map (Option GlazeGran)) (s : State)
    (hglazeGrans : φ.glazeGrans = true) : (State.modGlazeGrans f s).erase φ = s.erase φ := by
  simp [State.modGlazeGrans, State.erase, blankIf, hglazeGrans]

@[simp] theorem State_setGlazeKey_erase (φ : Foot) (k : Option Nat) (s : State) (hglazeKey : φ.glazeKey = true) :
    (State.setGlazeKey k s).erase φ = s.erase φ := by
  simp [State.setGlazeKey, State.erase, blankIf, hglazeKey]

@[simp] theorem State_modActs_erase (φ : Foot) (f : List Act → List Act) (s : State) (hacts : φ.acts = true) :
    (State.modActs f s).erase φ = s.erase φ := by
  simp [State.modActs, State.erase, blankIf, hacts]

@[simp] theorem State_modFills_erase (φ : Foot) (f : Fills → Fills) (s : State) (hfills : φ.fills = true) :
    (State.modFills f s).erase φ = s.erase φ := by
  simp [State.modFills, State.erase, blankIf, hfills]

@[simp] theorem State_modHost_erase (φ : Foot) (f : HostLink → HostLink) (s : State) (hhost : φ.host = true) :
    (State.modHost f s).erase φ = s.erase φ := by
  simp [State.modHost, State.erase, blankIf, hhost]

@[simp] theorem State_modPcl_erase (φ : Foot) (f : Pcl → Pcl) (s : State) (hpcl : φ.pcl = true) :
    (State.modPcl f s).erase φ = s.erase φ := by
  simp [State.modPcl, State.erase, blankIf, hpcl]

/-- A change of the Trusted Controller that leaves the fuses. -/
@[simp] theorem State_modTc_erase (φ : Foot) (f : Tc → Tc) (s : State) (htc : φ.tc = true)
    (h : ∀ x : Tc, (f x).roothash = x.roothash ∧ (f x).unique = x.unique ∧ (f x).ophash = x.ophash ∧ (f x).oprevoke = x.oprevoke ∧ (f x).keyrevoke = x.keyrevoke ∧
      (f x).fwfloor = x.fwfloor ∧ (f x).cfgfloor = x.cfgfloor ∧ (f x).serial = x.serial) :
    (s.modTc f).erase φ = s.erase φ := by
  obtain ⟨i, j, a, b, c, d, e, g⟩ := h s.tc
  simp [State.modTc, State.erase, blankIf, Tc.onlyFuses, htc, i, j, a, b, c, d, e, g]

/-- A change of the Trusted Controller, fuses and all. -/
theorem modTc_erase_fuses (φ : Foot) (f : Tc → Tc) (s : State) (htc : φ.tc = true) (hfuses : φ.fuses = true) :
    (s.modTc f).erase φ = s.erase φ := by
  simp [State.modTc, State.erase, blankIf, htc, hfuses]

@[simp] theorem State_modPwr_erase (φ : Foot) (f : Pwr → Pwr) (s : State) (hpwr : φ.pwr = true) :
    (State.modPwr f s).erase φ = s.erase φ := by
  simp [State.modPwr, State.erase, blankIf, hpwr]

@[simp] theorem State_modTwin_erase (φ : Foot) (f : Twin → Twin) (s : State) (htwin : φ.twin = true) :
    (State.modTwin f s).erase φ = s.erase φ := by
  simp [State.modTwin, State.erase, blankIf, htwin]

@[simp] theorem State_modMdl_erase (φ : Foot) (f : Module → Module) (s : State) (hmdl : φ.mdl = true) :
    (State.modMdl f s).erase φ = s.erase φ := by
  simp [State.modMdl, State.erase, blankIf, hmdl]

@[simp] theorem State_setEvPage_erase (φ : Foot) (v : BitVec 4) (s : State) (hevPage : φ.evPage = true) :
    (State.setEvPage v s).erase φ = s.erase φ := by
  simp [State.setEvPage, State.erase, blankIf, hevPage]

@[simp] theorem State_setFleet_erase (φ : Foot) (v : Word) (s : State) (hfleet : φ.fleet = true) :
    (State.setFleet v s).erase φ = s.erase φ := by
  simp [State.setFleet, State.erase, blankIf, hfleet]

@[simp] theorem State_modObs_erase (φ : Foot) (f : Nat × Nat → Nat × Nat) (s : State) (hobs : φ.obs = true) :
    (State.modObs f s).erase φ = s.erase φ := by
  simp [State.modObs, State.erase, blankIf, hobs]

@[simp] theorem State_setAon_erase (φ : Foot) (v : DWord) (s : State) (haon : φ.aon = true) :
    (State.setAon v s).erase φ = s.erase φ := by
  simp [State.setAon, State.erase, blankIf, haon]

@[simp] theorem State_modFree_erase (φ : Foot) (s : State) (hfree : φ.free = true) :
    (State.modFree s).erase φ = s.erase φ := by
  simp [State.modFree, State.erase, blankIf, hfree]

@[simp] theorem State_modSeq_erase (φ : Foot) (p : Nat) (f : Seq → Seq) (s : State) (hparts : φ.parts = true) :
    (State.modSeq p f s).erase φ = s.erase φ := by
  simp [State.modSeq, hparts]

@[simp] theorem State_modCtx_erase (φ : Foot) (p : Nat) (b : Bool) (f : Ctx → Ctx) (s : State) (hparts : φ.parts = true) :
    (State.modCtx p b f s).erase φ = s.erase φ := by
  simp [State.modCtx, hparts]

@[simp] theorem clamp_erase (φ : Foot) (p src : Nat) (s : State) (hparts : φ.parts = true) :
    (clamp p src s).erase φ = s.erase φ := by
  simp [clamp, hparts]

@[simp] theorem clampCycle_erase (φ : Foot) (p : Nat) (open_ : Bool) (s : State) (hparts : φ.parts = true) :
    (clampCycle p open_ s).erase φ = s.erase φ := by
  simp [clampCycle, hparts]

@[simp] theorem clampIf_erase (φ : Foot) (b : Bool) (p src : Nat) (s : State) (hparts : φ.parts = true) :
    (clampIf b p src s).erase φ = s.erase φ := by
  simp [clampIf, apply_ite (State.erase φ), hparts]

@[simp] theorem fresh_erase (φ : Foot) (s : State) (hfree : φ.free = true) : (fresh s).2.erase φ = s.erase φ := by
  simp [fresh, hfree]

@[simp] theorem report_erase (φ : Foot) (cls src code part arg : Nat) (s : State) (hlog : φ.log = true) :
    (report cls src code part arg s).erase φ = s.erase φ := by
  simp [report, apply_ite (State.erase φ), hlog]

@[simp] theorem regWrite_erase (φ : Foot) (p : Nat) (b : Bool) (a v : Nat) (s : State) (hparts : φ.parts = true)
    (htiles : φ.tiles = true) : (regWrite p b a v s).erase φ = s.erase φ := by
  unfold regWrite
  (repeat' split) <;> simp_all [apply_ite (State.erase φ), forEach_erase]

@[simp] theorem useReg_erase (φ : Foot) (p a : Nat) (s : State) (hparts : φ.parts = true) :
    (useReg p a s).erase φ = s.erase φ := by
  simp [useReg, hparts]

@[simp] theorem State_modQueue_erase (φ : Foot) (p q : Nat) (f : Queue → Queue) (s : State) (hparts : φ.parts = true) :
    (State.modQueue p q f s).erase φ = s.erase φ := by
  simp [State.modQueue, hparts]

@[simp] theorem State_modPort_erase (φ : Foot) (q : Nat) (f : Port → Port) (s : State) (hpcl : φ.pcl = true) :
    (State.modPort q f s).erase φ = s.erase φ := by
  simp [State.modPort, hpcl]

@[simp] theorem State_modVc_erase (φ : Foot) (q v : Nat) (f : Vc → Vc) (s : State) (hpcl : φ.pcl = true) :
    (State.modVc q v f s).erase φ = s.erase φ := by
  simp [State.modVc, hpcl]

@[simp] theorem State_modBucket_erase (φ : Foot) (n : Nat) (f : Bucket → Bucket) (s : State) (hpcl : φ.pcl = true) :
    (State.modBucket n f s).erase φ = s.erase φ := by
  simp [State.modBucket, hpcl]

@[simp] theorem emit_erase (φ : Foot) (o : Out) (s : State) (hout : φ.out = true) : (emit o s).erase φ = s.erase φ := by
  simp [emit, State.erase, blankIf, hout]

@[simp] theorem sendOut_erase (φ : Foot) (o : Out) (s : State) (hparts : φ.parts = true) (hhost : φ.host = true)
    (hout : φ.out = true) : (sendOut o s).erase φ = s.erase φ := by
  unfold sendOut
  split <;> simp [hparts, hhost, hout]

@[simp] theorem sendCpl_erase (φ : Foot) (w : Work) (status count : Nat) (result : List Byte) (s : State)
    (hparts : φ.parts = true) (hhost : φ.host = true) (hout : φ.out = true) :
    (sendCpl w status count result s).erase φ = s.erase φ := by
  simp only [sendCpl]
  (repeat' split) <;> simp_all

@[simp] theorem sendHeld_erase (φ : Foot) (s : State) (o : Out) (hparts : φ.parts = true) (hhost : φ.host = true)
    (hout : φ.out = true) : (sendHeld s o).erase φ = s.erase φ := by
  unfold sendHeld
  (repeat' split) <;> simp_all

@[simp] theorem drainHeld_erase (φ : Foot) (s : State) (hparts : φ.parts = true) (hhost : φ.host = true) (hout : φ.out = true)
    : (drainHeld s).erase φ = s.erase φ := by
  simp [drainHeld, apply_ite (State.erase φ), foldl_erase, hparts, hhost, hout]

@[simp] theorem hostSend_erase (φ : Foot) (o : Out) (s : State) (hparts : φ.parts = true) (hhost : φ.host = true)
    (hout : φ.out = true) : (hostSend o s).erase φ = s.erase φ := by
  simp [hostSend, hparts, hhost, hout]

@[simp] theorem hostStore_erase (φ : Foot) (p : Nat) (gen : Half) (addr : Nat) (bs : List Byte) (s : State)
    (hparts : φ.parts = true) (hhost : φ.host = true) (hout : φ.out = true) :
    (hostStore p gen addr bs s).erase φ = s.erase φ := by
  simp [hostStore, forEach_erase, hparts, hhost, hout]

@[simp] theorem notify_erase (φ : Foot) (kind p arg : Nat) (s : State) (hparts : φ.parts = true) (hhost : φ.host = true)
    (hout : φ.out = true) : (notify kind p arg s).erase φ = s.erase φ := by
  simp [notify, apply_ite (State.erase φ), hparts, hhost, hout]

@[simp] theorem complete_erase (φ : Foot) (w : Work) (status count : Nat) (result : List Byte) (s : State)
    (hparts : φ.parts = true) (hhost : φ.host = true) (hout : φ.out = true) :
    (complete w status count result s).erase φ = s.erase φ := by
  simp [complete, apply_ite (State.erase φ), hparts, hhost, hout]

@[simp] theorem respond_erase (φ : Foot) (op status : Nat) (counter : DWord) (body : List Byte) (sig : Bool) (s : State)
    (hout : φ.out = true) : (respond op status counter body sig s).erase φ = s.erase φ := by
  simp [respond, hout]

@[simp] theorem refuse_erase (φ : Foot) (w : Work) (src : Nat) (s : State) (hparts : φ.parts = true) (hhost : φ.host = true)
    (hout : φ.out = true) : (refuse w src s).erase φ = s.erase φ := by
  simp [refuse, hparts, hhost, hout]

@[simp] theorem headOn_erase (φ : Foot) (w : Work) (s : State) (hparts : φ.parts = true) :
    (headOn w s).erase φ = s.erase φ := by
  simp [headOn, hparts]

@[simp] theorem headBack_erase (φ : Foot) (w : Work) (s : State) (hparts : φ.parts = true) :
    (headBack w s).erase φ = s.erase φ := by
  simp [headBack, hparts]

@[simp] theorem dropBad_erase (φ : Foot) (p q n : Nat) (s : State) (hparts : φ.parts = true) (hhost : φ.host = true)
    (hout : φ.out = true) : (dropBad p q n s).erase φ = s.erase φ := by
  induction n generalizing s with
  | zero => rfl
  | succ n ih => unfold dropBad; (repeat' split) <;> simp [ih, hparts, hhost, hout]

@[simp] theorem queueSettle_erase (φ : Foot) (p q : Nat) (s : State) (hparts : φ.parts = true) (hhost : φ.host = true)
    (hout : φ.out = true) : (queueSettle p q s).erase φ = s.erase φ := by
  simp [queueSettle, hparts, hhost, hout]

@[simp] theorem takeEntry_erase (φ : Foot) (p q : Nat) (s : State) (hparts : φ.parts = true) :
    (takeEntry p q s).erase φ = s.erase φ := by
  simp [takeEntry, hparts]

@[simp] theorem reachHead_erase (φ : Foot) (p : Nat) (h : EntryHead) (typ : Nat) (is : List Byte → Bool)
    (f : Work → State → State) (s : State) (hf : ∀ a0 s, (f a0 s).erase φ = s.erase φ) (hparts : φ.parts = true)
    (hhost : φ.host = true) (hout : φ.out = true) : (reachHead p h typ is f s).erase φ = s.erase φ := by
  simp [reachHead, apply_ite (State.erase φ), hf, hparts, hhost, hout]

@[simp] theorem startEntry_erase (φ : Foot) (p : Nat) (h : EntryHead) (typ : Nat) (is : List Byte → Bool)
    (f : Work → State → State) (s : State) (hf : ∀ a0 s, (f a0 s).erase φ = s.erase φ) (hparts : φ.parts = true)
    (hhost : φ.host = true) (hout : φ.out = true) : (startEntry p h typ is f s).erase φ = s.erase φ := by
  simp [startEntry, hf, hparts, hhost, hout]

@[simp] theorem wakeUp_erase (φ : Foot) (s : State) (hpwr : φ.pwr = true) : (wakeUp s).erase φ = s.erase φ := by
  simp [wakeUp, apply_ite (State.erase φ), hpwr]

@[simp] theorem setCause_erase (φ : Foot) (i : Nat) (s : State) (hmdl : φ.mdl = true) (hout : φ.out = true) :
    (setCause i s).erase φ = s.erase φ := by
  simp [setCause, apply_ite (State.erase φ), hmdl, hout]

@[simp] theorem portAwake_erase (φ : Foot) (q : Nat) (s : State) (hpcl : φ.pcl = true) :
    (portAwake q s).erase φ = s.erase φ := by
  simp [portAwake, hpcl]

@[simp] theorem sendFlit_erase (φ : Foot) (q typ body : Nat) (s : State) (hpcl : φ.pcl = true) (hout : φ.out = true) :
    (sendFlit q typ body s).erase φ = s.erase φ := by
  simp [sendFlit, apply_ite (State.erase φ), hpcl, hout]

@[simp] theorem vcPump_erase (φ : Foot) (q v n : Nat) (s : State) (hpcl : φ.pcl = true) (hout : φ.out = true) :
    (vcPump q v n s).erase φ = s.erase φ := by
  induction n generalizing s with
  | zero => rfl
  | succ n ih => unfold vcPump; simp only; (repeat' split) <;> simp [ih, hpcl, hout]

@[simp] theorem sendFrame_erase (φ : Foot) (q typ : Nat) (f : Frame) (s : State) (hpcl : φ.pcl = true) (hout : φ.out = true) :
    (sendFrame q typ f s).erase φ = s.erase φ := by
  simp [sendFrame, hpcl, hout]

@[simp] theorem sendTwin_erase (φ : Foot) (kind vc p index : Nat) (payload : List Byte) (s : State) (hpcl : φ.pcl = true)
    (hout : φ.out = true) : (sendTwin kind vc p index payload s).erase φ = s.erase φ := by
  simp [sendTwin, hpcl, hout]

@[simp] theorem unready_erase (φ : Foot) (q job : Nat) (s : State) (hpcl : φ.pcl = true) :
    (unready q job s).erase φ = s.erase φ := by
  simp [unready, hpcl]

@[simp] theorem sendHalts_erase (φ : Foot) (p reason : Nat) (reset : Bool) (s : State) (hpcl : φ.pcl = true)
    (hout : φ.out = true) : (sendHalts p reason reset s).erase φ = s.erase φ := by
  simp (maxDischargeDepth := 6) [sendHalts, apply_ite (State.erase φ), forEach_erase, hpcl, hout]

@[simp] theorem modCtxRec_erase (φ : Foot) (p c : Nat) (f : CtxRec → CtxRec) (s : State) (hfills : φ.fills = true)
    (hpcl : φ.pcl = true) (hout : φ.out = true) : (modCtxRec p c f s).erase φ = s.erase φ := by
  simp [modCtxRec, apply_ite (State.erase φ), hfills, hpcl, hout]

@[simp] theorem faultRun_erase (φ : Foot) (p : Nat) (b : Bool) (s : State) (hparts : φ.parts = true) (hhost : φ.host = true)
    (hout : φ.out = true) : (faultRun p b s).erase φ = s.erase φ := by
  simp only [faultRun]
  (repeat' split) <;> simp_all

@[simp] theorem faultSteps_erase (φ : Foot) (p : Nat) (s : State) (hparts : φ.parts = true) (hfills : φ.fills = true)
    (hhost : φ.host = true) (hpcl : φ.pcl = true) (hout : φ.out = true) : (faultSteps p s).erase φ = s.erase φ := by
  simp [faultSteps, forEach_erase, hparts, hfills, hhost, hpcl, hout]

@[simp] theorem abandonCheckpoints_erase (φ : Foot) (p status cause : Nat) (s : State) (hparts : φ.parts = true)
    (hlog : φ.log = true) (hhost : φ.host = true) (hout : φ.out = true) :
    (abandonCheckpoints p status cause s).erase φ = s.erase φ := by
  simp (maxDischargeDepth := 6) [abandonCheckpoints, forEach_erase, hparts, hlog, hhost, hout]

@[simp] theorem haltPart_erase (φ : Foot) (p reason : Nat) (s : State) (hparts : φ.parts = true) (hlog : φ.log = true)
    (hfills : φ.fills = true) (hhost : φ.host = true) (hpcl : φ.pcl = true) (hobs : φ.obs = true) (hout : φ.out = true) :
    (haltPart p reason s).erase φ = s.erase φ := by
  simp [haltPart, apply_ite (State.erase φ), forEach_erase, hparts, hlog, hfills, hhost, hpcl, hobs, hout]

@[simp] theorem partFault_erase (φ : Foot) (p src code arg : Nat) (s : State) (hparts : φ.parts = true) (hlog : φ.log = true)
    (hfills : φ.fills = true) (hhost : φ.host = true) (hpcl : φ.pcl = true) (hpwr : φ.pwr = true) (hobs : φ.obs = true)
    (hout : φ.out = true) : (partFault p src code arg s).erase φ = s.erase φ := by
  simp [partFault, apply_ite (State.erase φ), hparts, hlog, hfills, hhost, hpcl, hpwr, hobs, hout]

@[simp] theorem downPort_erase (φ : Foot) (q : Nat) (trains : Bool) (s : State) (hpcl : φ.pcl = true) :
    (downPort q trains s).erase φ = s.erase φ := by
  simp [downPort, apply_ite (State.erase φ), hpcl]

@[simp] theorem deviceFault_erase (φ : Foot) (src code arg : Nat) (s : State) (hparts : φ.parts = true) (hlog : φ.log = true)
    (hfills : φ.fills = true) (hhost : φ.host = true) (hpcl : φ.pcl = true) (hpwr : φ.pwr = true) (hmdl : φ.mdl = true)
    (hobs : φ.obs = true) (hout : φ.out = true) : (deviceFault src code arg s).erase φ = s.erase φ := by
  simp [deviceFault, apply_ite (State.erase φ), forEach_erase, hparts, hlog, hfills, hhost, hpcl, hpwr, hmdl, hobs, hout]

@[simp] theorem cqPush_erase (φ : Foot) (p size : Nat) (a : CqAct) (s : State) (hparts : φ.parts = true) :
    (cqPush p size a s).erase φ = s.erase φ := by
  simp [cqPush, hparts]

@[simp] theorem consumeAt_erase (φ : Foot) (p gid unit : Nat) (s : State) (hparts : φ.parts = true) (hlog : φ.log = true)
    (hfills : φ.fills = true) (hhost : φ.host = true) (hpcl : φ.pcl = true) (hpwr : φ.pwr = true) (hobs : φ.obs = true)
    (hout : φ.out = true) : (consumeAt p gid unit s).erase φ = s.erase φ := by
  unfold consumeAt
  split <;> simp [hparts, hlog, hfills, hhost, hpcl, hpwr, hobs, hout]

@[simp] theorem setArrFlag_erase (φ : Foot) (p gid t a : Nat) (f : Word) (s : State) (hparts : φ.parts = true)
    (htiles : φ.tiles = true) : (setArrFlag p gid t a f s).erase φ = s.erase φ := by
  unfold setArrFlag
  (repeat' split) <;> simp_all

@[simp] theorem setVecFlag_erase (φ : Foot) (p gid t : Nat) (f : BitVec 4) (s : State) (hparts : φ.parts = true)
    (htiles : φ.tiles = true) : (setVecFlag p gid t f s).erase φ = s.erase φ := by
  unfold setVecFlag
  (repeat' split) <;> simp_all

@[simp] theorem addKept_erase (φ : Foot) (p n : Nat) (s : State) (hparts : φ.parts = true) :
    (addKept p n s).erase φ = s.erase φ := by
  simp [addKept, hparts]

@[simp] theorem setUpdFlag_erase (φ : Foot) (p gid t : Nat) (f : BitVec 4) (kept : Nat) (s : State) (hparts : φ.parts = true)
    (htiles : φ.tiles = true) : (setUpdFlag p gid t f kept s).erase φ = s.erase φ := by
  unfold setUpdFlag
  (repeat' split) <;> simp_all

@[simp] theorem keepFlag_erase (φ : Foot) (p : Nat) (h : HeldFlag) (s : State) (hparts : φ.parts = true)
    (htiles : φ.tiles = true) : (keepFlag p h s).erase φ = s.erase φ := by
  unfold keepFlag
  split <;> simp [hparts, htiles]

@[simp] theorem recodeClamp_erase (φ : Foot) (p old new : Nat) (s : State) (hparts : φ.parts = true) :
    (recodeClamp p old new s).erase φ = s.erase φ := by
  simp [recodeClamp, hparts]

@[simp] theorem countHit_erase (φ : Foot) (p : Nat) (k : TMem) (t l r : Nat) (s : State) (hparts : φ.parts = true) :
    (countHit p k t l r s).erase φ = s.erase φ := by
  simp only [countHit]
  (repeat' split) <;> simp_all

@[simp] theorem writeTile_erase (φ : Foot) (p gid : Nat) (k : TMem) (t byte : Nat) (bs : List (Bool × Byte)) (rank : Nat)
    (pois : Bool) (s : State) (hparts : φ.parts = true) (htiles : φ.tiles = true) :
    (writeTile p gid k t byte bs rank pois s).erase φ = s.erase φ := by
  simp [writeTile, hparts, htiles]
  rw [foldl_erase]
  (try simp [apply_ite (State.erase φ), forEach_erase, foldl_erase, hparts, htiles])
  intros
  (repeat' split) <;> simp_all

@[simp] theorem launch_erase (φ : Foot) (p at_ : Nat) (w : Write) (s : State) (hparts : φ.parts = true) :
    (launch p at_ w s).erase φ = s.erase φ := by
  simp [launch, hparts]

@[simp] theorem landMover_erase (φ : Foot) (p gid : Nat) (k : TMem) (ts : List TileId) (byte : Nat) (bs : List Byte)
    (pois : Bool) (tok : BitVec 4) (m : BitVec 1) (s : State) (hparts : φ.parts = true) (htiles : φ.tiles = true) :
    (landMover p gid k ts byte bs pois tok m s).erase φ = s.erase φ := by
  simp [landMover, forEach_erase, hparts, htiles]

@[simp] theorem snapPatch_erase (φ : Foot) (p gid : Nat) (f : Snap → Snap) (s : State) (hparts : φ.parts = true) :
    (snapPatch p gid f s).erase φ = s.erase φ := by
  simp [snapPatch, hparts]

@[simp] theorem land_erase (φ : Foot) (p : Nat) (l : Landing) (s : State) (hparts : φ.parts = true) (htiles : φ.tiles = true)
    (hlog : φ.log = true) (hfills : φ.fills = true) (hhost : φ.host = true) (hpcl : φ.pcl = true) (hpwr : φ.pwr = true)
    (hobs : φ.obs = true) (hout : φ.out = true) : (land p l s).erase φ = s.erase φ := by
  unfold land
  split <;> simp [apply_ite (State.erase φ), forEach_erase, hparts, htiles, hlog, hfills, hhost, hpcl, hpwr, hobs, hout]

@[simp] theorem landAt_erase (φ : Foot) (p : Nat) (l : Landing) (s : State) (hparts : φ.parts = true)
    (htiles : φ.tiles = true) (hlog : φ.log = true) (hfills : φ.fills = true) (hhost : φ.host = true) (hpcl : φ.pcl = true)
    (hpwr : φ.pwr = true) (hobs : φ.obs = true) (hout : φ.out = true) : (landAt p l s).erase φ = s.erase φ := by
  simp [landAt, apply_ite (State.erase φ), hparts, htiles, hlog, hfills, hhost, hpcl, hpwr, hobs, hout]

@[simp] theorem advanceIf_erase (φ : Foot) (go : Landing → Bool) (p c : Nat) (s : State) (hparts : φ.parts = true)
    (htiles : φ.tiles = true) (hlog : φ.log = true) (hfills : φ.fills = true) (hhost : φ.host = true) (hpcl : φ.pcl = true)
    (hpwr : φ.pwr = true) (hobs : φ.obs = true) (hout : φ.out = true) : (advanceIf go p c s).erase φ = s.erase φ := by
  simp [advanceIf, forEach_erase, hparts, htiles, hlog, hfills, hhost, hpcl, hpwr, hobs, hout]

@[simp] theorem advance_erase (φ : Foot) (p c : Nat) (s : State) (hparts : φ.parts = true) (htiles : φ.tiles = true)
    (hlog : φ.log = true) (hfills : φ.fills = true) (hhost : φ.host = true) (hpcl : φ.pcl = true) (hpwr : φ.pwr = true)
    (hobs : φ.obs = true) (hout : φ.out = true) : (advance p c s).erase φ = s.erase φ := by
  simp [advance, hparts, htiles, hlog, hfills, hhost, hpcl, hpwr, hobs, hout]

@[simp] theorem advanceHold_erase (φ : Foot) (p c : Nat) (s : State) (hparts : φ.parts = true) (htiles : φ.tiles = true)
    (hlog : φ.log = true) (hfills : φ.fills = true) (hhost : φ.host = true) (hpcl : φ.pcl = true) (hpwr : φ.pwr = true)
    (hobs : φ.obs = true) (hout : φ.out = true) : (advanceHold p c s).erase φ = s.erase φ := by
  simp [advanceHold, hparts, htiles, hlog, hfills, hhost, hpcl, hpwr, hobs, hout]

@[simp] theorem leavePlanes_erase (φ : Foot) (p : Nat) (s : State) (hparts : φ.parts = true) (htiles : φ.tiles = true)
    (hlog : φ.log = true) (hfills : φ.fills = true) (hhost : φ.host = true) (hpcl : φ.pcl = true) (hpwr : φ.pwr = true)
    (hobs : φ.obs = true) (hout : φ.out = true) : (leavePlanes p s).erase φ = s.erase φ := by
  simp [leavePlanes, forEach_erase, hparts, htiles, hlog, hfills, hhost, hpcl, hpwr, hobs, hout]

@[simp] theorem startLoad_erase (φ : Foot) (p a : Nat) (r : LoadRec) (u : Nat) (staged : Bool) (s : State)
    (hparts : φ.parts = true) : (startLoad p a r u staged s).erase φ = s.erase φ := by
  simp [startLoad, apply_ite (State.erase φ), forEach_erase, hparts]

@[simp] theorem openLease_erase (φ : Foot) (p a n : Nat) (s : State) (hparts : φ.parts = true) :
    (openLease p a n s).erase φ = s.erase φ := by
  simp [openLease, hparts]

@[simp] theorem loadLease_erase (φ : Foot) (p a : Nat) (s : State) (hparts : φ.parts = true) :
    (loadLease p a s).erase φ = s.erase φ := by
  simp only [loadLease]
  (repeat' split) <;> simp_all

@[simp] theorem leaseOnLoad_erase (φ : Foot) (p a : Nat) (s : State) (hparts : φ.parts = true) :
    (leaseOnLoad p a s).erase φ = s.erase φ := by
  simp only [leaseOnLoad]
  (repeat' split) <;> simp_all

@[simp] theorem countFlip_erase (φ : Foot) (p a k : Nat) (s : State) (hparts : φ.parts = true) :
    (countFlip p a k s).erase φ = s.erase φ := by
  simp only [countFlip]
  (repeat' split) <;> simp_all

@[simp] theorem leaseOnFlip_erase (φ : Foot) (p a : Nat) (s : State) (hparts : φ.parts = true) :
    (leaseOnFlip p a s).erase φ = s.erase φ := by
  simp only [leaseOnFlip]
  (repeat' split) <;> simp_all

end Sys2Proof.Machine
end

