-- ==== Sys2Proof/Laws/EraseTile.lean ====
section
/-!
SUPPORT. What the units of a tile may change: a state with those parts blanked is the same before and after.
-/

namespace Sys2Proof.Machine

@[simp] theorem macTile_erase (φ : Foot) (p t : Nat) (sls : List (Nat × ArrSlot)) (k H : Nat) (s : State)
    (hparts : φ.parts = true) (hlog : φ.log = true) (hfills : φ.fills = true) (hhost : φ.host = true) (hpcl : φ.pcl = true)
    (hpwr : φ.pwr = true) (hobs : φ.obs = true) (hout : φ.out = true) : (macTile p t sls k H s).erase φ = s.erase φ := by
  unfold macTile
  (repeat' split) <;> simp (maxDischargeDepth := 6) [apply_ite (State.erase φ), forEach_erase, hparts, hlog, hfills, hhost,
      hpcl, hpwr, hobs, hout]

@[simp] theorem accTile_erase (φ : Foot) (p t : Nat) (e : Nat × ArrSlot) (k : Nat) (s : State) (hparts : φ.parts = true) :
    (accTile p t e k s).erase φ = s.erase φ := by
  simp [accTile, apply_ite (State.erase φ), hparts]

@[simp] theorem arrCycle_erase (φ : Foot) (p : Nat) (sls : List (Nat × ArrSlot)) (k H : Nat) (s : State)
    (hparts : φ.parts = true) (hlog : φ.log = true) (hfills : φ.fills = true) (hhost : φ.host = true) (hpcl : φ.pcl = true)
    (hpwr : φ.pwr = true) (hobs : φ.obs = true) (hout : φ.out = true) : (arrCycle p sls k H s).erase φ = s.erase φ := by
  simp (maxDischargeDepth := 6) [arrCycle, forEach_erase, hparts, hlog, hfills, hhost, hpcl, hpwr, hobs, hout]

@[simp] theorem arrFclr_erase (φ : Foot) (p a : Nat) (s : State) (htiles : φ.tiles = true) :
    (arrFclr p a s).erase φ = s.erase φ := by
  simp [arrFclr, forEach_erase, htiles]

@[simp] theorem arrLoad_erase (φ : Foot) (p a : Nat) (sl : ArrSlot) (s : State) (hparts : φ.parts = true) :
    (arrLoad p a sl s).erase φ = s.erase φ := by
  simp [arrLoad, apply_ite (State.erase φ), hparts]

@[simp] theorem swapPlanes_erase (φ : Foot) (p a : Nat) (s : State) (hparts : φ.parts = true) (htiles : φ.tiles = true) :
    (swapPlanes p a s).erase φ = s.erase φ := by
  simp [swapPlanes, forEach_erase, hparts, htiles]

@[simp] theorem flipArrays_erase (φ : Foot) (p : Nat) (as : List Nat) (s : State) (hparts : φ.parts = true)
    (htiles : φ.tiles = true) : (flipArrays p as s).erase φ = s.erase φ := by
  simp [flipArrays, forEach_erase, hparts, htiles]

@[simp] theorem arrClamps_erase (φ : Foot) (p : Nat) (sls : List (Nat × ArrSlot)) (s : State) (hparts : φ.parts = true) :
    (arrClamps p sls s).erase φ = s.erase φ := by
  unfold arrClamps
  split <;> simp [apply_ite (State.erase φ), forEach_erase, hparts]

@[simp] theorem arrOnce_erase (φ : Foot) (p : Nat) (sls : List (Nat × ArrSlot)) (s : State) (hparts : φ.parts = true)
    (htiles : φ.tiles = true) : (arrOnce p sls s).erase φ = s.erase φ := by
  simp [arrOnce, apply_ite (State.erase φ), forEach_erase, hparts, htiles]

@[simp] theorem launchMem_erase (φ : Foot) (p at_ : Nat) (k : TMem) (t a : Nat) (bs : List (Bool × Byte)) (rank : Nat)
    (s : State) (hparts : φ.parts = true) : (launchMem p at_ k t a bs rank s).erase φ = s.erase φ := by
  simp [launchMem, apply_ite (State.erase φ), hparts]

@[simp] theorem writeVec_erase (φ : Foot) (p t : Nat) (q : Part) (sl : VecSlot) (at_ v : Nat) (xs : List Word)
    (lp : List Bool) (toSp toLb : Bool) (s : State) (hparts : φ.parts = true) :
    (writeVec p t q sl at_ v xs lp toSp toLb s).1.erase φ = s.erase φ := by
  unfold writeVec
  split <;> simp [apply_ite (State.erase φ), hparts]

@[simp] theorem State_setTally_erase (φ : Foot) (t n : Nat) (ty : Tally) (s : State) (htiles : φ.tiles = true) :
    (State.setTally t n ty s).erase φ = s.erase φ := by
  simp [State.setTally, htiles]

@[simp] theorem runTile_erase (φ : Foot) (p t : Nat) (sl : VecSlot) (sc : Nat → DWord) (v H : Nat) (s : State)
    (hparts : φ.parts = true) (htiles : φ.tiles = true) (hlog : φ.log = true) (hfills : φ.fills = true)
    (hhost : φ.host = true) (hpcl : φ.pcl = true) (hpwr : φ.pwr = true) (hobs : φ.obs = true) (hout : φ.out = true) :
    (runTile p t sl sc v H s).erase φ = s.erase φ := by
  unfold runTile
  extract_lets q tl c st k ts expand s1 ty me lp0 lp hd b a L0 lead s2 r L ty2 lat toSp toLb lastSt
    f first w wr lat2 prevAcc isLast g lpw w1 fl1 s9 w0
  have h1 : s1.erase φ = s.erase φ := by simp only [s1]; split <;> simp [hparts, hlog, hfills, hhost, hpcl, hpwr, hobs, hout]
  have h2 : s2.erase φ = s.erase φ := by simp only [s2]; split <;> simp [h1, hparts, hlog, hfills, hhost, hpcl, hpwr, hobs,
      hout]
  have h0 : w0.1.erase φ = s2.erase φ := by simp [w0, hparts]
  have hw : w1.1.erase φ = s2.erase φ := by simp [w1, hparts]
  have h9 : s9.erase φ = w1.1.erase φ := by simp only [s9]; split <;> simp [htiles]
  clear_value s9 w1 s2 s1 r L ty2 lead L0 b a hd lp me ty w0 lastSt
  cases lastSt with
  | none => simp [h0, h2, hparts]
  | some ls =>
    dsimp -zeta only
    extract_lets x els pend total up n enc bytes fl s3 s4 s5 sample v2 sq fl0 at_ ins merged fl2 lanes s6
      ins2 vr m ws fl3 ty3 s7 off s8
    have hv : v2.1.erase φ = s2.erase φ := by simp only [v2]; split <;> simp [hparts]
    have h3 : s3.erase φ = s2.erase φ := by simp [s3, htiles]
    have h4 : s4.erase φ = s3.erase φ := by simp only [s4]; split <;> simp [hparts]
    have h5 : s5.erase φ = s4.erase φ := by simp only [s5]; split <;> simp [hparts]
    have h6 : s6.erase φ = v2.1.erase φ := by simp [s6, htiles]
    have h7 : s7.erase φ = v2.1.erase φ := by simp [s7, htiles]
    have h8 : s8.erase φ = s7.erase φ := by simp only [s8]; split <;> simp [hparts]
    clear_value s3 s4 s5 s6 s7 s8 v2
    (repeat' split) <;> simp [h9, h8, h7, h6, h5, h4, h3, h2, hv, hw, hparts]

@[simp] theorem vloadTile_erase (φ : Foot) (p t : Nat) (sl : VecSlot) (v : Nat) (s : State) (hparts : φ.parts = true)
    (hlog : φ.log = true) (hfills : φ.fills = true) (hhost : φ.host = true) (hpcl : φ.pcl = true) (hpwr : φ.pwr = true)
    (hobs : φ.obs = true) (hout : φ.out = true) : (vloadTile p t sl v s).erase φ = s.erase φ := by
  simp [vloadTile, apply_ite (State.erase φ), hparts, hlog, hfills, hhost, hpcl, hpwr, hobs, hout]

@[simp] theorem vecTclr_erase (φ : Foot) (p n : Nat) (s : State) (htiles : φ.tiles = true) :
    (vecTclr p n s).erase φ = s.erase φ := by
  simp [vecTclr, forEach_erase, htiles]

@[simp] theorem vecTdrain_erase (φ : Foot) (p : Nat) (sl : VecSlot) (s : State) (hparts : φ.parts = true) :
    (vecTdrain p sl s).erase φ = s.erase φ := by
  simp [vecTdrain, forEach_erase, hparts]

@[simp] theorem vecMload_erase (φ : Foot) (p : Nat) (sl : VecSlot) (s : State) (hparts : φ.parts = true) (hlog : φ.log = true)
    (hfills : φ.fills = true) (hhost : φ.host = true) (hpcl : φ.pcl = true) (hpwr : φ.pwr = true) (hobs : φ.obs = true)
    (hout : φ.out = true) : (vecMload p sl s).erase φ = s.erase φ := by
  simp [vecMload, apply_ite (State.erase φ), forEach_erase, hparts, hlog, hfills, hhost, hpcl, hpwr, hobs, hout]

@[simp] theorem vecClamps_erase (φ : Foot) (p : Nat) (sl : VecSlot) (s : State) (hparts : φ.parts = true) :
    (vecClamps p sl s).erase φ = s.erase φ := by
  simp only [vecClamps]
  (repeat' split) <;> simp_all [forEach_erase]

@[simp] theorem vecOnce_erase (φ : Foot) (p : Nat) (sl : VecSlot) (s : State) (hparts : φ.parts = true)
    (htiles : φ.tiles = true) (hlog : φ.log = true) (hfills : φ.fills = true) (hhost : φ.host = true) (hpcl : φ.pcl = true)
    (hpwr : φ.pwr = true) (hobs : φ.obs = true) (hout : φ.out = true) : (vecOnce p sl s).erase φ = s.erase φ := by
  unfold vecOnce
  split <;> simp [hparts, htiles, hlog, hfills, hhost, hpcl, hpwr, hobs, hout]

@[simp] theorem vecCycle_erase (φ : Foot) (p : Nat) (sl : VecSlot) (sc : Nat → DWord) (k H : Nat) (s : State)
    (hparts : φ.parts = true) (htiles : φ.tiles = true) (hlog : φ.log = true) (hfills : φ.fills = true)
    (hhost : φ.host = true) (hpcl : φ.pcl = true) (hpwr : φ.pwr = true) (hobs : φ.obs = true) (hout : φ.out = true) :
    (vecCycle p sl sc k H s).erase φ = s.erase φ := by
  unfold vecCycle
  (repeat' split) <;> simp_all [forEach_erase]

@[simp] theorem updTile_erase (φ : Foot) (p t : Nat) (sl : UpdSlot) (sc : Nat → DWord) (c H : Nat) (s : State)
    (hparts : φ.parts = true) (hlog : φ.log = true) (hfills : φ.fills = true) (hhost : φ.host = true) (hpcl : φ.pcl = true)
    (hpwr : φ.pwr = true) (hobs : φ.obs = true) (hout : φ.out = true) : (updTile p t sl sc c H s).erase φ = s.erase φ := by
  simp only [updTile]
  (repeat' split) <;> simp_all

@[simp] theorem updClamps_erase (φ : Foot) (p : Nat) (sl : UpdSlot) (s : State) (hparts : φ.parts = true) :
    (updClamps p sl s).erase φ = s.erase φ := by
  simp [updClamps, apply_ite (State.erase φ), hparts]

@[simp] theorem updFclrAll_erase (φ : Foot) (p : Nat) (s : State) (htiles : φ.tiles = true) :
    (updFclrAll p s).erase φ = s.erase φ := by
  simp [updFclrAll, forEach_erase, htiles]

@[simp] theorem updCycle_erase (φ : Foot) (p : Nat) (sl : UpdSlot) (sc : Nat → DWord) (k H : Nat) (s : State)
    (hparts : φ.parts = true) (hlog : φ.log = true) (hfills : φ.fills = true) (hhost : φ.host = true) (hpcl : φ.pcl = true)
    (hpwr : φ.pwr = true) (hobs : φ.obs = true) (hout : φ.out = true) : (updCycle p sl sc k H s).erase φ = s.erase φ := by
  simp [updCycle, apply_ite (State.erase φ), forEach_erase, hparts, hlog, hfills, hhost, hpcl, hpwr, hobs, hout]

@[simp] theorem crossLink_erase (φ : Foot) (p k n f : Nat) (s : State) (hfree : φ.free = true) (hparts : φ.parts = true) :
    (crossLink p k n f s).2.erase φ = s.erase φ := by
  induction n generalizing f s with
  | zero => rfl
  | succ n ih => unfold crossLink; dsimp only; (repeat' split) <;> simp [ih, hfree, hparts]

@[simp] theorem crossLinks_erase (φ : Foot) (p : Nat) (done_ ks : List Nat) (f : Nat) (s : State) (hfree : φ.free = true)
    (hparts : φ.parts = true) : (crossLinks p done_ ks f s).2.erase φ = s.erase φ := by
  induction ks generalizing f s with
  | nil => rfl
  | cons k ks ih => unfold crossLinks; split <;> simp [ih, hfree, hparts]

@[simp] theorem meshTime_erase (φ : Foot) (p c : Nat) (routes : List (List Nat)) (s : State) (hfree : φ.free = true)
    (hparts : φ.parts = true) : (meshTime p c routes s).2.erase φ = s.erase φ := by
  unfold meshTime
  extract_lets s1 r
  have h1 : s1.erase φ = s.erase φ := by simp [s1, hparts]
  have h : ∀ (l : List (List Nat)) (a : Nat × List Nat × State),
      (l.foldl (fun (acc : Nat × List Nat × State) ks =>
        let x := crossLinks p acc.2.1 ks (c / 2) acc.2.2
        (Nat.max acc.1 x.1, acc.2.1 ++ ks, x.2)) a).2.2.erase φ = a.2.2.erase φ := by
    intro l
    induction l with
    | nil => intro a; rfl
    | cons k l ih => intro a; simp [ih, hfree, hparts]
  simp [r, h, h1]

@[simp] theorem movTile_erase (φ : Foot) (p t : Nat) (m : BitVec 1) (sl : MovSlot) (k : Nat) (s : State)
    (hfree : φ.free = true) (hparts : φ.parts = true) : (movTile p t m sl k s).erase φ = s.erase φ := by
  simp only [movTile]
  (repeat' split) <;> simp_all

@[simp] theorem movClamps_erase (φ : Foot) (p : Nat) (sls : List MovSlot) (s : State) (hparts : φ.parts = true) :
    (movClamps p sls s).erase φ = s.erase φ := by
  simp [movClamps, forEach_erase, hparts]

@[simp] theorem movCycle_erase (φ : Foot) (p : Nat) (m : BitVec 1) (sl : MovSlot) (k : Nat) (s : State)
    (hfree : φ.free = true) (hparts : φ.parts = true) : (movCycle p m sl k s).erase φ = s.erase φ := by
  simp [movCycle, apply_ite (State.erase φ), forEach_erase, hfree, hparts]

@[simp] theorem moverArrive_erase (φ : Foot) (p n : Nat) (s : State) (hparts : φ.parts = true) (htiles : φ.tiles = true)
    (hlog : φ.log = true) (hfills : φ.fills = true) (hhost : φ.host = true) (hpcl : φ.pcl = true) (hpwr : φ.pwr = true)
    (hobs : φ.obs = true) (hout : φ.out = true) : (moverArrive p n s).erase φ = s.erase φ := by
  unfold moverArrive
  split <;> simp [hparts, htiles, hlog, hfills, hhost, hpcl, hpwr, hobs, hout]

@[simp] theorem cvuInterrupt_erase (φ : Foot) (p : Nat) (halt : Bool) (s : State) (hparts : φ.parts = true)
    (hlog : φ.log = true) (hfills : φ.fills = true) (hhost : φ.host = true) (hpcl : φ.pcl = true) (hpwr : φ.pwr = true)
    (hobs : φ.obs = true) (hout : φ.out = true) : (cvuInterrupt p halt s).erase φ = s.erase φ := by
  simp [cvuInterrupt, apply_ite (State.erase φ), hparts, hlog, hfills, hhost, hpcl, hpwr, hobs, hout]

@[simp] theorem cvuCtl_erase (φ : Foot) (p alg : Nat) (init check halt : Bool) (s : State) (hparts : φ.parts = true)
    (hlog : φ.log = true) (hfills : φ.fills = true) (hhost : φ.host = true) (hpcl : φ.pcl = true) (hpwr : φ.pwr = true)
    (hobs : φ.obs = true) (hout : φ.out = true) : (cvuCtl p alg init check halt s).erase φ = s.erase φ := by
  simp [cvuCtl, apply_ite (State.erase φ), hparts, hlog, hfills, hhost, hpcl, hpwr, hobs, hout]

@[simp] theorem cvuWrite_erase (φ : Foot) (p a v : Nat) (s : State) (hparts : φ.parts = true) (hlog : φ.log = true)
    (hfills : φ.fills = true) (hhost : φ.host = true) (hpcl : φ.pcl = true) (hpwr : φ.pwr = true) (hobs : φ.obs = true)
    (hout : φ.out = true) : (cvuWrite p a v s).erase φ = s.erase φ := by
  simp [cvuWrite, apply_ite (State.erase φ), hparts, hlog, hfills, hhost, hpcl, hpwr, hobs, hout]

@[simp] theorem cvuFeed_erase (φ : Foot) (p : Nat) (bs : List Byte) (s : State) (hparts : φ.parts = true) :
    (cvuFeed p bs s).erase φ = s.erase φ := by
  simp [cvuFeed, hparts]

@[simp] theorem sclResult_erase (φ : Foot) (p lat : Nat) (skip : Option SReg) (d : SReg) (v : DWord) (s : State)
    (hparts : φ.parts = true) : (sclResult p lat skip d v s).erase φ = s.erase φ := by
  simp [sclResult, apply_ite (State.erase φ), hparts]

@[simp] theorem sclRrd_erase (φ : Foot) (p : Nat) (skip : Option SReg) (d : SReg) (a : Nat) (s : State)
    (hparts : φ.parts = true) : (sclRrd p skip d a s).erase φ = s.erase φ := by
  simp only [sclRrd]
  (repeat' split) <;> simp_all

@[simp] theorem sclRwr_erase (φ : Foot) (p a : Nat) (v : DWord) (s : State) (hparts : φ.parts = true) (hlog : φ.log = true)
    (hfills : φ.fills = true) (hhost : φ.host = true) (hpcl : φ.pcl = true) (hpwr : φ.pwr = true) (hobs : φ.obs = true)
    (hout : φ.out = true) : (sclRwr p a v s).erase φ = s.erase φ := by
  simp [sclRwr, apply_ite (State.erase φ), hparts, hlog, hfills, hhost, hpcl, hpwr, hobs, hout]

@[simp] theorem sclSld_erase (φ : Foot) (p n : Nat) (skip : Option SReg) (d : SReg) (imm : BitVec 40) (s : State)
    (hparts : φ.parts = true) : (sclSld p n skip d imm s).erase φ = s.erase φ := by
  simp [sclSld, forEach_erase, hparts]

@[simp] theorem releaseStore_erase (φ : Foot) (p slot : Nat) (s : State) (hparts : φ.parts = true) :
    (releaseStore p slot s).erase φ = s.erase φ := by
  simp [releaseStore, hparts]

@[simp] theorem sclSst_erase (φ : Foot) (p : Nat) (v : DWord) (imm : BitVec 40) (s : State) (hparts : φ.parts = true) :
    (sclSst p v imm s).erase φ = s.erase φ := by
  simp only [sclSst]
  (repeat' split) <;> simp_all

@[simp] theorem sclCvuf_erase (φ : Foot) (p : Nat) (v : DWord) (size : Nat) (s : State) (hparts : φ.parts = true) :
    (sclCvuf p v size s).erase φ = s.erase φ := by
  simp [sclCvuf, apply_ite (State.erase φ), hparts]

@[simp] theorem sclSlot_erase (φ : Foot) (p : Nat) (sl : SclSlot) (skip : Option SReg) (s : State) (hparts : φ.parts = true)
    (hlog : φ.log = true) (hfills : φ.fills = true) (hhost : φ.host = true) (hpcl : φ.pcl = true) (hpwr : φ.pwr = true)
    (hobs : φ.obs = true) (hout : φ.out = true) : (sclSlot p sl skip s).erase φ = s.erase φ := by
  simp only [sclSlot]
  (repeat' split) <;> simp_all

end Sys2Proof.Machine
end

