-- ==== Sys2Proof/Laws/EraseHbm.lean ====
section
/-!
SUPPORT. What the memory system may change: a state with those parts blanked is the same before and after.
-/

namespace Sys2Proof.Machine

@[simp] theorem State_modHbm_erase (φ : Foot) (f : Hbm → Hbm) (s : State) (hhbm : φ.hbm = true) :
    (State.modHbm f s).erase φ = s.erase φ := by
  simp [State.modHbm, State.erase, blankIf, hhbm]

@[simp] theorem State_modChan_erase (φ : Foot) (c : Nat) (f : Chan → Chan) (s : State) (hhbm : φ.hbm = true) :
    (State.modChan c f s).erase φ = s.erase φ := by
  simp [State.modChan, hhbm]

@[simp] theorem State_modKey_erase (φ : Foot) (k : Nat) (f : KeyReg → KeyReg) (s : State) (hhbm : φ.hbm = true) :
    (State.modKey k f s).erase φ = s.erase φ := by
  simp [State.modKey, hhbm]

@[simp] theorem State_modArb_erase (φ : Foot) (k : Nat) (f : PcArb → PcArb) (s : State) (hhbm : φ.hbm = true) :
    (State.modArb k f s).erase φ = s.erase φ := by
  simp [State.modArb, hhbm]

@[simp] theorem storeLine_erase (φ : Foot) (dev : Nat) (l : Line) (s : State) (hhbm : φ.hbm = true) :
    (storeLine dev l s).erase φ = s.erase φ := by
  simp [storeLine, hhbm]

@[simp] theorem writeLine_erase (φ : Foot) (p dev : Nat) (bytes : List Byte) (pois : Bool) (s : State)
    (hparts : φ.parts = true) (hhbm : φ.hbm = true) : (writeLine p dev bytes pois s).erase φ = s.erase φ := by
  simp only [writeLine]
  (repeat' split) <;> simp_all

@[simp] theorem queueWb_erase (φ : Foot) (dev : Nat) (l : Line) (pois : Bool) (s : State) (hhbm : φ.hbm = true) :
    (queueWb dev l pois s).erase φ = s.erase φ := by
  simp [queueWb, hhbm]

@[simp] theorem recordRepair_erase (φ : Foot) (r : RepairEnt) (s : State) (hlog : φ.log = true) (hrepairs : φ.repairs = true)
    : (recordRepair r s).erase φ = s.erase φ := by
  simp [recordRepair, apply_ite (State.erase φ), hlog, hrepairs]

@[simp] theorem loseChan_erase (φ : Foot) (c : Nat) (s : State) (hparts : φ.parts = true) (hlog : φ.log = true)
    (hhbm : φ.hbm = true) (hrepairs : φ.repairs = true) (hfills : φ.fills = true) (hhost : φ.host = true)
    (hpcl : φ.pcl = true) (hpwr : φ.pwr = true) (hmdl : φ.mdl = true) (hobs : φ.obs = true) (hout : φ.out = true) :
    (loseChan c s).erase φ = s.erase φ := by
  simp [loseChan, apply_ite (State.erase φ), hparts, hlog, hhbm, hrepairs, hfills, hhost, hpcl, hpwr, hmdl, hobs, hout]

@[simp] theorem suspectPin_erase (φ : Foot) (c pc pin : Nat) (s : State) (hparts : φ.parts = true) (hlog : φ.log = true)
    (hhbm : φ.hbm = true) (hrepairs : φ.repairs = true) (hfills : φ.fills = true) (hhost : φ.host = true)
    (hpcl : φ.pcl = true) (hpwr : φ.pwr = true) (hmdl : φ.mdl = true) (hobs : φ.obs = true) (hout : φ.out = true) :
    (suspectPin c pc pin s).erase φ = s.erase φ := by
  simp [suspectPin, apply_ite (State.erase φ), hparts, hlog, hhbm, hrepairs, hfills, hhost, hpcl, hpwr, hmdl, hobs, hout]

@[simp] theorem pinError_erase (φ : Foot) (c pc pin dev : Nat) (s : State) (hparts : φ.parts = true) (hlog : φ.log = true)
    (hhbm : φ.hbm = true) (hrepairs : φ.repairs = true) (hfills : φ.fills = true) (hhost : φ.host = true)
    (hpcl : φ.pcl = true) (hpwr : φ.pwr = true) (hmdl : φ.mdl = true) (hobs : φ.obs = true) (hout : φ.out = true) :
    (pinError c pc pin dev s).erase φ = s.erase φ := by
  simp [pinError, apply_ite (State.erase φ), hparts, hlog, hhbm, hrepairs, hfills, hhost, hpcl, hpwr, hmdl, hobs, hout]

@[simp] theorem markRow_erase (φ : Foot) (row : Nat) (s : State) (hlog : φ.log = true) (hhbm : φ.hbm = true)
    (hrepairs : φ.repairs = true) : (markRow row s).erase φ = s.erase φ := by
  simp [markRow, apply_ite (State.erase φ), hlog, hhbm, hrepairs]

@[simp] theorem evLine_erase (φ : Foot) (code cls dev : Nat) (s : State) (hlog : φ.log = true) :
    (evLine code cls dev s).erase φ = s.erase φ := by
  simp [evLine, hlog]

@[simp] theorem correctLine_scrubCount_erase (φ : Foot) (row dev : Nat) (s : State) (hlog : φ.log = true)
    (hhbm : φ.hbm = true) (hrepairs : φ.repairs = true) : (correctLine.scrubCount row dev s).erase φ = s.erase φ := by
  simp [correctLine.scrubCount, apply_ite (State.erase φ), hlog, hhbm, hrepairs]

@[simp] theorem correctLine_erase (φ : Foot) (dev c pc susp n : Nat) (syms : List SymErr) (l : Line) (scrub : Bool)
    (s : State) (hparts : φ.parts = true) (hlog : φ.log = true) (hhbm : φ.hbm = true) (hrepairs : φ.repairs = true)
    (hfills : φ.fills = true) (hhost : φ.host = true) (hpcl : φ.pcl = true) (hpwr : φ.pwr = true) (hmdl : φ.mdl = true)
    (hobs : φ.obs = true) (hout : φ.out = true) : (correctLine dev c pc susp n syms l scrub s).erase φ = s.erase φ := by
  simp [correctLine, apply_ite (State.erase φ), forEach_erase, hparts, hlog, hhbm, hrepairs, hfills, hhost, hpcl, hpwr, hmdl,
      hobs, hout]

@[simp] theorem judgeLine_erase (φ : Foot) (dev : Nat) (l : Line) (scrub : Bool) (s : State) (hparts : φ.parts = true)
    (hlog : φ.log = true) (hhbm : φ.hbm = true) (hrepairs : φ.repairs = true) (hfills : φ.fills = true)
    (hhost : φ.host = true) (hpcl : φ.pcl = true) (hpwr : φ.pwr = true) (hmdl : φ.mdl = true) (hobs : φ.obs = true)
    (hout : φ.out = true) : (judgeLine dev l scrub s).1.erase φ = s.erase φ := by
  unfold judgeLine
  (repeat' split) <;> simp_all

@[simp] theorem decodeLine_erase (φ : Foot) (dev : Nat) (errs : List SymErr) (scrub : Bool) (s : State)
    (hparts : φ.parts = true) (hlog : φ.log = true) (hhbm : φ.hbm = true) (hrepairs : φ.repairs = true)
    (hfills : φ.fills = true) (hhost : φ.host = true) (hpcl : φ.pcl = true) (hpwr : φ.pwr = true) (hmdl : φ.mdl = true)
    (hobs : φ.obs = true) (hout : φ.out = true) : (decodeLine dev errs scrub s).1.erase φ = s.erase φ := by
  simp only [decodeLine]
  (repeat' split) <;> simp_all

@[simp] theorem readLine_erase (φ : Foot) (dev : Nat) (errs : List SymErr) (scrub : Bool) (s : State)
    (hparts : φ.parts = true) (hlog : φ.log = true) (hhbm : φ.hbm = true) (hrepairs : φ.repairs = true)
    (hfills : φ.fills = true) (hhost : φ.host = true) (hpcl : φ.pcl = true) (hpwr : φ.pwr = true) (hmdl : φ.mdl = true)
    (hobs : φ.obs = true) (hout : φ.out = true) : (readLine dev errs scrub s).1.erase φ = s.erase φ := by
  have h : (decodeLine dev errs scrub s).1.erase φ = s.erase φ := by simp [hparts, hlog, hhbm, hrepairs, hfills, hhost, hpcl,
      hpwr, hmdl, hobs, hout]
  unfold readLine
  split <;> rename_i e <;> rw [e] at h <;> simp_all

@[simp] theorem newKey_erase (φ : Foot) (s : State) (hhbm : φ.hbm = true) : (newKey s).2.erase φ = s.erase φ := by
  simp [newKey, hhbm]

@[simp] theorem noteSlot_erase (φ : Foot) (k cls p : Nat) (s : State) (hhbm : φ.hbm = true) :
    (noteSlot k cls p s).erase φ = s.erase φ := by
  simp [noteSlot, hhbm]

@[simp] theorem partRead_erase (φ : Foot) (cls p line : Nat) (s : State) (hparts : φ.parts = true) (hlog : φ.log = true)
    (hhbm : φ.hbm = true) (hrepairs : φ.repairs = true) (hfills : φ.fills = true) (hhost : φ.host = true)
    (hpcl : φ.pcl = true) (hpwr : φ.pwr = true) (hmdl : φ.mdl = true) (hobs : φ.obs = true) (hout : φ.out = true) :
    (partRead cls p line s).1.erase φ = s.erase φ := by
  unfold partRead
  split <;> simp [hparts, hlog, hhbm, hrepairs, hfills, hhost, hpcl, hpwr, hmdl, hobs, hout]

@[simp] theorem partWrite_erase (φ : Foot) (p line : Nat) (bytes : List Byte) (pois : Bool) (s : State)
    (hparts : φ.parts = true) (hhbm : φ.hbm = true) : (partWrite p line bytes pois s).erase φ = s.erase φ := by
  unfold partWrite
  split <;> simp [hparts, hhbm]

@[simp] theorem partReadN_erase (φ : Foot) (cls p line n : Nat) (s : State) (hparts : φ.parts = true) (hlog : φ.log = true)
    (hhbm : φ.hbm = true) (hrepairs : φ.repairs = true) (hfills : φ.fills = true) (hhost : φ.host = true)
    (hpcl : φ.pcl = true) (hpwr : φ.pwr = true) (hmdl : φ.mdl = true) (hobs : φ.obs = true) (hout : φ.out = true) :
    (partReadN cls p line n s).1.erase φ = s.erase φ := by
  induction n generalizing line s with
  | zero => rfl
  | succ n ih => simp [partReadN, ih, hparts, hlog, hhbm, hrepairs, hfills, hhost, hpcl, hpwr, hmdl, hobs, hout]

@[simp] theorem partWriteN_erase (φ : Foot) (p line : Nat) (bs : List Byte) (s : State) (hparts : φ.parts = true)
    (hhbm : φ.hbm = true) : (partWriteN p line bs s).erase φ = s.erase φ := by
  simp [partWriteN, foldl_erase, hparts, hhbm]

@[simp] theorem openReq_erase (φ : Foot) (p : Nat) (tok : Byte) (n : Nat) (s : State) (hparts : φ.parts = true) :
    (openReq p tok n s).2.erase φ = s.erase φ := by
  simp [openReq, hparts]

@[simp] theorem crumbFill_erase (φ : Foot) (st : Nat) (s : State) (hhbm : φ.hbm = true) :
    (crumbFill st s).erase φ = s.erase φ := by
  simp only [crumbFill]
  (repeat' split) <;> simp_all

@[simp] theorem addLine_erase (φ : Foot) (p : Nat) (l : LineReq) (s : State) (hparts : φ.parts = true) (hhbm : φ.hbm = true) :
    (addLine p l s).erase φ = s.erase φ := by
  simp [addLine, apply_ite (State.erase φ), hparts, hhbm]

@[simp] theorem memReadReq_erase (φ : Foot) (p cls : Nat) (sl : MemSlot) (s : State) (hparts : φ.parts = true)
    (hhbm : φ.hbm = true) : (memReadReq p cls sl s).erase φ = s.erase φ := by
  simp [memReadReq, forEach_erase, hparts, hhbm]

@[simp] theorem sendWrite_erase (φ : Foot) (p req gid : Nat) (lines : List (Nat × List Byte × Bool)) (s : State)
    (hparts : φ.parts = true) (hhbm : φ.hbm = true) : (sendWrite p req gid lines s).erase φ = s.erase φ := by
  apply forEach_erase
  intros
  (repeat' split) <;> simp [hparts, hhbm]

@[simp] theorem memWriteReq_erase (φ : Foot) (p : Nat) (sl : MemSlot) (s : State) (hparts : φ.parts = true)
    (hhbm : φ.hbm = true) : (memWriteReq p sl s).erase φ = s.erase φ := by
  simp [memWriteReq, apply_ite (State.erase φ), hparts, hhbm]

@[simp] theorem memCrumbReq_erase (φ : Foot) (p : Nat) (sl : MemSlot) (s : State) (hparts : φ.parts = true) :
    (memCrumbReq p sl s).erase φ = s.erase φ := by
  simp [memCrumbReq, hparts]

@[simp] theorem memSlot_erase (φ : Foot) (p : Nat) (sl : MemSlot) (s : State) (hparts : φ.parts = true) (hhbm : φ.hbm = true)
    : (memSlot p sl s).erase φ = s.erase φ := by
  simp [memSlot, apply_ite (State.erase φ), hparts, hhbm]

@[simp] theorem crumbIssue_erase (φ : Foot) (p t : Nat) (s : State) (hparts : φ.parts = true) (hhbm : φ.hbm = true) :
    (crumbIssue p t s).erase φ = s.erase φ := by
  simp only [crumbIssue]
  (repeat' split) <;> simp_all

@[simp] theorem dropLine_erase (φ : Foot) (p : Nat) (l : LineReq) (s : State) (hparts : φ.parts = true) :
    (dropLine p l s).erase φ = s.erase φ := by
  simp [dropLine, hparts]

@[simp] theorem lineArrive_erase (φ : Foot) (p : Nat) (l : LineReq) (bytes : List Byte) (pois : Bool) (s : State)
    (hparts : φ.parts = true) (htiles : φ.tiles = true) : (lineArrive p l bytes pois s).erase φ = s.erase φ := by
  simp [lineArrive, forEach_erase, hparts, htiles]

@[simp] theorem writeAccept_erase (φ : Foot) (p n : Nat) (s : State) (hparts : φ.parts = true) (hhbm : φ.hbm = true) :
    (writeAccept p n s).erase φ = s.erase φ := by
  simp only [writeAccept]
  (repeat' split) <;> simp_all

@[simp] theorem crumbAlloc_erase (φ : Foot) (p dev : Nat) (l : Line) (s : State) (hhbm : φ.hbm = true) :
    (crumbAlloc p dev l s).erase φ = s.erase φ := by
  simp only [crumbAlloc]
  (repeat' split) <;> simp_all

@[simp] theorem giveLine_erase (φ : Foot) (p : Nat) (l : LineReq) (r : List Byte × Bool) (s : State) (hparts : φ.parts = true)
    : (giveLine p l r s).erase φ = s.erase φ := by
  simp [giveLine, hparts]

@[simp] theorem serveRead_erase (φ : Foot) (p : Nat) (l : LineReq) (errs : List SymErr) (s : State) (hparts : φ.parts = true)
    (hlog : φ.log = true) (hhbm : φ.hbm = true) (hrepairs : φ.repairs = true) (hfills : φ.fills = true)
    (hhost : φ.host = true) (hpcl : φ.pcl = true) (hpwr : φ.pwr = true) (hmdl : φ.mdl = true) (hobs : φ.obs = true)
    (hout : φ.out = true) : (serveRead p l errs s).erase φ = s.erase φ := by
  unfold serveRead
  extract_lets s1 r
  have h1 : s1.erase φ = s.erase φ := by simp [s1, hhbm]
  have h : (decodeLine l.dev errs false s1).1.erase φ = s1.erase φ := by simp [hparts, hlog, hhbm, hrepairs, hfills, hhost,
      hpcl, hpwr, hmdl, hobs, hout]
  clear_value s1
  split
  · simp [r, h1, hparts, hlog, hhbm, hrepairs, hfills, hhost, hpcl, hpwr, hmdl, hobs, hout]
  · split <;> rename_i e <;> rw [e] at h <;> simp_all

@[simp] theorem grantRead_erase (φ : Foot) (k cls p : Nat) (errs : List SymErr) (s : State) (hparts : φ.parts = true)
    (hlog : φ.log = true) (hhbm : φ.hbm = true) (hrepairs : φ.repairs = true) (hfills : φ.fills = true)
    (hhost : φ.host = true) (hpcl : φ.pcl = true) (hpwr : φ.pwr = true) (hmdl : φ.mdl = true) (hobs : φ.obs = true)
    (hout : φ.out = true) : (grantRead k cls p errs s).erase φ = s.erase φ := by
  unfold grantRead
  split <;> simp [hparts, hlog, hhbm, hrepairs, hfills, hhost, hpcl, hpwr, hmdl, hobs, hout]

@[simp] theorem grantWrite_erase (φ : Foot) (k : Nat) (s : State) (hhbm : φ.hbm = true) :
    (grantWrite k s).erase φ = s.erase φ := by
  simp only [grantWrite]
  (repeat' split) <;> simp_all

@[simp] theorem settleBacklog_erase (φ : Foot) (c : Nat) (s : State) (hhbm : φ.hbm = true) :
    (settleBacklog c s).erase φ = s.erase φ := by
  simp [settleBacklog, apply_ite (State.erase φ), hhbm]

@[simp] theorem slotGrant_erase (φ : Foot) (c pc : Nat) (errs : List SymErr) (s : State) (hparts : φ.parts = true)
    (hlog : φ.log = true) (hhbm : φ.hbm = true) (hrepairs : φ.repairs = true) (hfills : φ.fills = true)
    (hhost : φ.host = true) (hpcl : φ.pcl = true) (hpwr : φ.pwr = true) (hmdl : φ.mdl = true) (hobs : φ.obs = true)
    (hout : φ.out = true) : (slotGrant c pc errs s).erase φ = s.erase φ := by
  simp only [slotGrant]
  (repeat' split) <;> simp_all

@[simp] theorem batchForm_erase (φ : Foot) (c pc : Nat) (s : State) (hhbm : φ.hbm = true) :
    (batchForm c pc s).erase φ = s.erase φ := by
  simp [batchForm, hhbm]

@[simp] theorem crumbLookup_erase (φ : Foot) (st p : Nat) (l : LineReq) (errs : List SymErr) (s : State)
    (hparts : φ.parts = true) (hlog : φ.log = true) (hhbm : φ.hbm = true) (hrepairs : φ.repairs = true)
    (hfills : φ.fills = true) (hhost : φ.host = true) (hpcl : φ.pcl = true) (hpwr : φ.pwr = true) (hmdl : φ.mdl = true)
    (hobs : φ.obs = true) (hout : φ.out = true) : (crumbLookup st p l errs s).erase φ = s.erase φ := by
  simp only [crumbLookup]
  (repeat' split) <;> simp_all

@[simp] theorem crumbAccess_erase (φ : Foot) (st : Nat) (errs : List SymErr) (s : State) (hparts : φ.parts = true)
    (hlog : φ.log = true) (hhbm : φ.hbm = true) (hrepairs : φ.repairs = true) (hfills : φ.fills = true)
    (hhost : φ.host = true) (hpcl : φ.pcl = true) (hpwr : φ.pwr = true) (hmdl : φ.mdl = true) (hobs : φ.obs = true)
    (hout : φ.out = true) : (crumbAccess st errs s).erase φ = s.erase φ := by
  simp only [crumbAccess]
  (repeat' split) <;> simp_all

@[simp] theorem c3Take_erase (φ : Foot) (dev : Nat) (s : State) (hhbm : φ.hbm = true) :
    (c3Take dev s).erase φ = s.erase φ := by
  simp [c3Take, hhbm]

@[simp] theorem serveWb_erase (φ : Foot) (w : WriteBack) (s : State) (hhbm : φ.hbm = true) :
    (serveWb w s).erase φ = s.erase φ := by
  simp [serveWb, hhbm]

@[simp] theorem writeBack_erase (φ : Foot) (st : Nat) (s : State) (hhbm : φ.hbm = true) :
    (writeBack st s).erase φ = s.erase φ := by
  unfold writeBack
  split <;> simp [hhbm]

@[simp] theorem State_modRowRep_erase (φ : Foot) (st : Nat) (f : RowRep → RowRep) (s : State) (hhbm : φ.hbm = true) :
    (State.modRowRep st f s).erase φ = s.erase φ := by
  simp [State.modRowRep, hhbm]

@[simp] theorem copyLine_erase (φ : Foot) (dev : Nat) (s : State) (hparts : φ.parts = true) (hlog : φ.log = true)
    (hhbm : φ.hbm = true) (hrepairs : φ.repairs = true) (hfills : φ.fills = true) (hhost : φ.host = true)
    (hpcl : φ.pcl = true) (hpwr : φ.pwr = true) (hmdl : φ.mdl = true) (hobs : φ.obs = true) (hout : φ.out = true) :
    (copyLine dev s).erase φ = s.erase φ := by
  simp only [copyLine]
  (repeat' split) <;> simp_all

@[simp] theorem rowCopy_erase (φ : Foot) (st : Nat) (s : State) (hparts : φ.parts = true) (hlog : φ.log = true)
    (hhbm : φ.hbm = true) (hrepairs : φ.repairs = true) (hfills : φ.fills = true) (hhost : φ.host = true)
    (hpcl : φ.pcl = true) (hpwr : φ.pwr = true) (hmdl : φ.mdl = true) (hobs : φ.obs = true) (hout : φ.out = true) :
    (rowCopy st s).erase φ = s.erase φ := by
  simp only [rowCopy]
  (repeat' split) <;> simp_all [forEach_erase]

@[simp] theorem rowCopyEnd_erase (φ : Foot) (st : Nat) (s : State) (hlog : φ.log = true) (hhbm : φ.hbm = true)
    (hrepairs : φ.repairs = true) : (rowCopyEnd st s).erase φ = s.erase φ := by
  unfold rowCopyEnd
  split <;> simp [apply_ite (State.erase φ), hlog, hhbm, hrepairs]

@[simp] theorem scrubSettle_erase (φ : Foot) (s : State) (hhbm : φ.hbm = true) : (scrubSettle s).erase φ = s.erase φ := by
  simp only [scrubSettle]
  (repeat' split) <;> simp_all

@[simp] theorem scrubRead_erase (φ : Foot) (errs : List SymErr) (s : State) (hparts : φ.parts = true) (hlog : φ.log = true)
    (hhbm : φ.hbm = true) (hrepairs : φ.repairs = true) (hfills : φ.fills = true) (hhost : φ.host = true)
    (hpcl : φ.pcl = true) (hpwr : φ.pwr = true) (hmdl : φ.mdl = true) (hobs : φ.obs = true) (hout : φ.out = true) :
    (scrubRead errs s).erase φ = s.erase φ := by
  simp only [scrubRead]
  (repeat' split) <;> simp_all

@[simp] theorem State_modTherm_erase (φ : Foot) (st : Nat) (f : Therm → Therm) (s : State) (hhbm : φ.hbm = true) :
    (State.modTherm st f s).erase φ = s.erase φ := by
  simp [State.modTherm, hhbm]

@[simp] theorem tempReadout_erase (φ : Foot) (st : Nat) (t : Byte) (s : State) (hparts : φ.parts = true) (hlog : φ.log = true)
    (hhbm : φ.hbm = true) (hfills : φ.fills = true) (hhost : φ.host = true) (hpcl : φ.pcl = true) (hpwr : φ.pwr = true)
    (hmdl : φ.mdl = true) (hobs : φ.obs = true) (hout : φ.out = true) : (tempReadout st t s).erase φ = s.erase φ := by
  simp [tempReadout, apply_ite (State.erase φ), hparts, hlog, hhbm, hfills, hhost, hpcl, hpwr, hmdl, hobs, hout]

@[simp] theorem levelApply_erase (φ : Foot) (st : Nat) (s : State) (hhbm : φ.hbm = true) (hmdl : φ.mdl = true)
    (hout : φ.out = true) : (levelApply st s).erase φ = s.erase φ := by
  simp only [levelApply]
  (repeat' split) <;> simp_all

@[simp] theorem startHold_erase (φ : Foot) (c : Nat) (h : Hold) (s : State) (hhbm : φ.hbm = true) :
    (startHold c h s).erase φ = s.erase φ := by
  simp [startHold, hhbm]

@[simp] theorem retrain_erase (φ : Foot) (c : Nat) (s : State) (hhbm : φ.hbm = true) : (retrain c s).erase φ = s.erase φ := by
  simp [retrain, apply_ite (State.erase φ), hhbm]

@[simp] theorem laneRepair_erase (φ : Foot) (c pc : Nat) (s : State) (hhbm : φ.hbm = true) :
    (laneRepair c pc s).erase φ = s.erase φ := by
  simp [laneRepair, apply_ite (State.erase φ), hhbm]

@[simp] theorem holdEnd_erase (φ : Foot) (c : Nat) (ok : Bool) (hclk : BitVec 12) (s : State) (hparts : φ.parts = true)
    (hlog : φ.log = true) (hhbm : φ.hbm = true) (hrepairs : φ.repairs = true) (hfills : φ.fills = true)
    (hhost : φ.host = true) (hpcl : φ.pcl = true) (hpwr : φ.pwr = true) (hmdl : φ.mdl = true) (hobs : φ.obs = true)
    (hout : φ.out = true) : (holdEnd c ok hclk s).erase φ = s.erase φ := by
  simp only [holdEnd]
  (repeat' split) <;> simp_all

@[simp] theorem beginRotate_erase (φ : Foot) (k : Nat) (heads : List Work) (mgmt : List DWord) (s : State)
    (hhbm : φ.hbm = true) : (beginRotate k heads mgmt s).erase φ = s.erase φ := by
  simp [beginRotate, hhbm]

@[simp] theorem keyRotate_erase (φ : Foot) (k : Nat) (heads : List Work) (mgmt : List DWord) (s : State)
    (hparts : φ.parts = true) (hhbm : φ.hbm = true) : (keyRotate k heads mgmt s).erase φ = s.erase φ := by
  simp [keyRotate, apply_ite (State.erase φ), hparts, hhbm]

@[simp] theorem keyLoaded_erase (φ : Foot) (k : Nat) (s : State) (hhbm : φ.hbm = true) :
    (keyLoaded k s).erase φ = s.erase φ := by
  unfold keyLoaded
  split <;> simp [hhbm]

@[simp] theorem epochFlip_erase (φ : Foot) (k : Nat) (s : State) (hhbm : φ.hbm = true) :
    (epochFlip k s).erase φ = s.erase φ := by
  simp [epochFlip, apply_ite (State.erase φ), hhbm]

@[simp] theorem sweepEnd_erase (φ : Foot) (k : Nat) (s : State) (hparts : φ.parts = true) (hhbm : φ.hbm = true)
    (hhost : φ.host = true) (hout : φ.out = true) : (sweepEnd k s).erase φ = s.erase φ := by
  simp [sweepEnd, forEach_erase, hparts, hhbm, hhost, hout]

@[simp] theorem sweepVisit_erase (φ : Foot) (k dev : Nat) (errs : List SymErr) (s : State) (hparts : φ.parts = true)
    (hlog : φ.log = true) (hhbm : φ.hbm = true) (hrepairs : φ.repairs = true) (hfills : φ.fills = true)
    (hhost : φ.host = true) (hpcl : φ.pcl = true) (hpwr : φ.pwr = true) (hmdl : φ.mdl = true) (hobs : φ.obs = true)
    (hout : φ.out = true) : (sweepVisit k dev errs s).erase φ = s.erase φ := by
  have h : (decodeLine dev errs false (c3Take dev s)).1.erase φ = s.erase φ := by simp [hparts, hlog, hhbm, hrepairs, hfills,
      hhost, hpcl, hpwr, hmdl, hobs, hout]
  unfold sweepVisit
  split
  · rename_i e; rw [e] at h; exact h
  · rename_i e
    rw [e] at h
    dsimp only at h ⊢
    (repeat' split) <;> simp [h, hparts, hlog, hhbm, hrepairs, hfills, hhost, hpcl, hpwr, hmdl, hobs, hout]

@[simp] theorem sweepLine_erase (φ : Foot) (k : Nat) (errs : List SymErr) (s : State) (hparts : φ.parts = true)
    (hlog : φ.log = true) (hhbm : φ.hbm = true) (hrepairs : φ.repairs = true) (hfills : φ.fills = true)
    (hhost : φ.host = true) (hpcl : φ.pcl = true) (hpwr : φ.pwr = true) (hmdl : φ.mdl = true) (hobs : φ.obs = true)
    (hout : φ.out = true) : (sweepLine k errs s).erase φ = s.erase φ := by
  simp only [sweepLine]
  (repeat' split) <;> simp_all

@[simp] theorem rotateDeferred_erase (φ : Foot) (k : Nat) (s : State) (hhbm : φ.hbm = true) :
    (rotateDeferred k s).erase φ = s.erase φ := by
  simp [rotateDeferred, apply_ite (State.erase φ), hhbm]

@[simp] theorem State_modSlab_erase (φ : Foot) (n : Nat) (f : Slab → Slab) (s : State) (hhbm : φ.hbm = true) :
    (State.modSlab n f s).erase φ = s.erase φ := by
  simp [State.modSlab, hhbm]

@[simp] theorem destroyKeys_erase (φ : Foot) (k : Nat) (s : State) (hhbm : φ.hbm = true) :
    (destroyKeys k s).erase φ = s.erase φ := by
  simp [destroyKeys, hhbm]

@[simp] theorem startGlaze_erase (φ : Foot) (n : Nat) (dest : Option (PartId × BitVec 11)) (diss : Option Nat) (s : State)
    (hhbm : φ.hbm = true) (hglazeSlabs : φ.glazeSlabs = true) (hglazeKey : φ.glazeKey = true) :
    (startGlaze n dest diss s).erase φ = s.erase φ := by
  simp [startGlaze, apply_ite (State.erase φ), hhbm, hglazeSlabs, hglazeKey]

@[simp] theorem glazeLine_erase (φ : Foot) (n : Nat) (s : State) (hhbm : φ.hbm = true) (hglazeSlabs : φ.glazeSlabs = true) :
    (glazeLine n s).erase φ = s.erase φ := by
  unfold glazeLine
  (repeat' split) <;> simp_all [apply_ite (State.erase φ)]

@[simp] theorem glazeEnd_erase (φ : Foot) (n : Nat) (s : State) (hparts : φ.parts = true) (hhbm : φ.hbm = true)
    (hglazeSlabs : φ.glazeSlabs = true) (hglazeKey : φ.glazeKey = true) : (glazeEnd n s).erase φ = s.erase φ := by
  unfold glazeEnd
  (repeat' split) <;> simp_all [apply_ite (State.erase φ)]

@[simp] theorem hostRead_erase (φ : Foot) (r : Req) (addr len : Nat) (s : State) (hparts : φ.parts = true)
    (hhost : φ.host = true) (hout : φ.out = true) : (hostRead r addr len s).erase φ = s.erase φ := by
  unfold hostRead; split <;> simp [hparts, hhost, hout]

@[simp] theorem nextRead_erase (φ : Foot) (s : State) (hparts : φ.parts = true) (hhost : φ.host = true) (hout : φ.out = true)
    : (nextRead s).erase φ = s.erase φ := by
  unfold nextRead; split <;> simp [hparts, hhost, hout]

@[simp] theorem dropReads_erase (φ : Foot) (f : Req → Bool) (s : State) (hhost : φ.host = true) (hpcl : φ.pcl = true) :
    (dropReads f s).erase φ = s.erase φ := by
  simp [dropReads, hhost, hpcl]

@[simp] theorem storageRead_erase (φ : Foot) (r : Req) (port stream unit count skip : Nat) (s : State) (hpcl : φ.pcl = true)
    (hout : φ.out = true) : (storageRead r port stream unit count skip s).erase φ = s.erase φ := by
  simp [storageRead, hpcl, hout]

@[simp] theorem storageWrite_erase (φ : Foot) (port stream unit : Nat) (data : List Byte) (s : State) (hpcl : φ.pcl = true)
    (hout : φ.out = true) : (storageWrite port stream unit data s).erase φ = s.erase φ := by
  simp [storageWrite, hpcl, hout]

@[simp] theorem fetchFrom_erase (φ : Foot) (r : Req) (src port srca off len : Nat) (s : State) (hparts : φ.parts = true)
    (hhost : φ.host = true) (hpcl : φ.pcl = true) (hout : φ.out = true) :
    (fetchFrom r src port srca off len s).erase φ = s.erase φ := by
  simp [fetchFrom, apply_ite (State.erase φ), hparts, hhost, hpcl, hout]

end Sys2Proof.Machine
end

