-- ==== Sys2Proof/Laws/EraseFill.lean ====
section
/-!
SUPPORT. What fillings, checkpoints and programs may change: a state with those parts blanked is the same before and after.
-/

namespace Sys2Proof.Machine

@[simp] theorem State_modCrust_erase (φ : Foot) (v : Nat) (f : Crust → Crust) (s : State) (hfills : φ.fills = true) :
    (State.modCrust v f s).erase φ = s.erase φ := by
  simp [State.modCrust, hfills]

@[simp] theorem State_setStage_erase (φ : Foot) (i : Nat) (j : Option StageJob) (s : State) (hfills : φ.fills = true)
    (hhost : φ.host = true) (hpcl : φ.pcl = true) : (State.setStage i j s).erase φ = s.erase φ := by
  simp [State.setStage, apply_ite (State.erase φ), hfills, hhost, hpcl]

@[simp] theorem modDesc_erase (φ : Foot) (i : Nat) (f : Desc → Desc) (s : State) (hfills : φ.fills = true)
    (hpcl : φ.pcl = true) (hout : φ.out = true) : (modDesc i f s).erase φ = s.erase φ := by
  simp [modDesc, apply_ite (State.erase φ), hfills, hpcl, hout]

@[simp] theorem endStage_erase (φ : Foot) (i status : Nat) (result : List Byte) (s : State) (hparts : φ.parts = true)
    (hfills : φ.fills = true) (hhost : φ.host = true) (hpcl : φ.pcl = true) (hout : φ.out = true) :
    (endStage i status result s).erase φ = s.erase φ := by
  unfold endStage
  split <;> simp [hparts, hfills, hhost, hpcl, hout]

@[simp] theorem freeDesc_erase (φ : Foot) (i : Nat) (post : Bool) (s : State) (hparts : φ.parts = true)
    (hfills : φ.fills = true) (hhost : φ.host = true) (hpcl : φ.pcl = true) (hout : φ.out = true) :
    (freeDesc i post s).erase φ = s.erase φ := by
  simp [freeDesc, apply_ite (State.erase φ), hparts, hfills, hhost, hpcl, hout]

@[simp] theorem evictForce_erase (φ : Foot) (i : Nat) (s : State) (hparts : φ.parts = true) (hfills : φ.fills = true)
    (hhost : φ.host = true) (hpcl : φ.pcl = true) (hout : φ.out = true) : (evictForce i s).erase φ = s.erase φ := by
  simp [evictForce, apply_ite (State.erase φ), hparts, hfills, hhost, hpcl, hout]

@[simp] theorem evictPlain_erase (φ : Foot) (i : Nat) (s : State) (hparts : φ.parts = true) (hfills : φ.fills = true)
    (hhost : φ.host = true) (hpcl : φ.pcl = true) (hout : φ.out = true) : (evictPlain i s).2.erase φ = s.erase φ := by
  simp only [evictPlain]
  (repeat' split) <;> simp_all

@[simp] theorem fillingEvict_erase (φ : Foot) (p : Nat) (w : Work) (i : Nat) (force : Bool) (s : State)
    (hparts : φ.parts = true) (hfills : φ.fills = true) (hhost : φ.host = true) (hpcl : φ.pcl = true) (hout : φ.out = true) :
    (fillingEvict p w i force s).erase φ = s.erase φ := by
  simp [fillingEvict, apply_ite (State.erase φ), hparts, hfills, hhost, hpcl, hout]

@[simp] theorem stageAsk_erase (φ : Foot) (i : Nat) (s : State) (hparts : φ.parts = true) (hhost : φ.host = true)
    (hpcl : φ.pcl = true) (hout : φ.out = true) : (stageAsk i s).erase φ = s.erase φ := by
  unfold stageAsk
  split <;> simp [apply_ite (State.erase φ), hparts, hhost, hpcl, hout]

@[simp] theorem stageHeader_erase (φ : Foot) (i : Nat) (h : List Byte) (pois : Bool) (s : State) (hparts : φ.parts = true)
    (hfills : φ.fills = true) (hhost : φ.host = true) (hpcl : φ.pcl = true) (hout : φ.out = true) :
    (stageHeader i h pois s).erase φ = s.erase φ := by
  unfold stageHeader
  split <;> simp [apply_ite (State.erase φ), forEach_erase, hparts, hfills, hhost, hpcl, hout]

@[simp] theorem mirrorImage_erase (φ : Foot) (p i line : Nat) (bs : List Byte) (s : State) (hpcl : φ.pcl = true)
    (hout : φ.out = true) : (mirrorImage p i line bs s).erase φ = s.erase φ := by
  simp [mirrorImage, apply_ite (State.erase φ), forEach_erase, hpcl, hout]

@[simp] theorem stageBytes_erase (φ : Foot) (i : Nat) (bs : List Byte) (bad : Nat) (s : State) (hparts : φ.parts = true)
    (hhbm : φ.hbm = true) (hfills : φ.fills = true) (hhost : φ.host = true) (hpcl : φ.pcl = true) (hout : φ.out = true) :
    (stageBytes i bs bad s).erase φ = s.erase φ := by
  unfold stageBytes
  (repeat' split) <;> simp_all [foldl_erase]

@[simp] theorem stageBegin_erase (φ : Foot) (i : Nat) (s : State) (hparts : φ.parts = true) (hlog : φ.log = true)
    (hhbm : φ.hbm = true) (hrepairs : φ.repairs = true) (hfills : φ.fills = true) (hhost : φ.host = true)
    (hpcl : φ.pcl = true) (hpwr : φ.pwr = true) (hmdl : φ.mdl = true) (hobs : φ.obs = true) (hout : φ.out = true) :
    (stageBegin i s).erase φ = s.erase φ := by
  unfold stageBegin
  split <;> simp [apply_ite (State.erase φ), hparts, hlog, hhbm, hrepairs, hfills, hhost, hpcl, hpwr, hmdl, hobs, hout]

@[simp] theorem fillingStage_erase (φ : Foot) (p : Nat) (w : Work) (b : StageBody) (s : State) (hparts : φ.parts = true)
    (hlog : φ.log = true) (hhbm : φ.hbm = true) (hrepairs : φ.repairs = true) (hfills : φ.fills = true)
    (hhost : φ.host = true) (hpcl : φ.pcl = true) (hpwr : φ.pwr = true) (hmdl : φ.mdl = true) (hobs : φ.obs = true)
    (hout : φ.out = true) : (fillingStage p w b s).erase φ = s.erase φ := by
  simp [fillingStage, apply_ite (State.erase φ), hparts, hlog, hhbm, hrepairs, hfills, hhost, hpcl, hpwr, hmdl, hobs, hout]

@[simp] theorem stageLocal_erase (φ : Foot) (i : Nat) (j : StageJob) (s : State) (hparts : φ.parts = true)
    (hlog : φ.log = true) (hhbm : φ.hbm = true) (hrepairs : φ.repairs = true) (hfills : φ.fills = true)
    (hhost : φ.host = true) (hpcl : φ.pcl = true) (hpwr : φ.pwr = true) (hmdl : φ.mdl = true) (hobs : φ.obs = true)
    (hout : φ.out = true) : (stageLocal i j s).1.erase φ = s.erase φ := by
  simp [stageLocal, hparts, hlog, hhbm, hrepairs, hfills, hhost, hpcl, hpwr, hmdl, hobs, hout]

@[simp] theorem stagePoison_erase (φ : Foot) (i : Nat) (s : State) (hparts : φ.parts = true) (hlog : φ.log = true)
    (hhbm : φ.hbm = true) (hrepairs : φ.repairs = true) (hfills : φ.fills = true) (hhost : φ.host = true)
    (hpcl : φ.pcl = true) (hpwr : φ.pwr = true) (hmdl : φ.mdl = true) (hobs : φ.obs = true) (hout : φ.out = true) :
    (stagePoison i s).erase φ = s.erase φ := by
  unfold stagePoison
  (repeat' split) <;> simp_all [apply_ite (State.erase φ)]

@[simp] theorem stageEnd_erase (φ : Foot) (i : Nat) (s : State) (hparts : φ.parts = true) (hlog : φ.log = true)
    (hhbm : φ.hbm = true) (hrepairs : φ.repairs = true) (hfills : φ.fills = true) (hhost : φ.host = true)
    (hpcl : φ.pcl = true) (hpwr : φ.pwr = true) (hmdl : φ.mdl = true) (hobs : φ.obs = true) (hout : φ.out = true) :
    (stageEnd i s).erase φ = s.erase φ := by
  unfold stageEnd
  (repeat' split) <;> simp_all [apply_ite (State.erase φ)]

@[simp] theorem stageAcked_erase (φ : Foot) (s : State) (hparts : φ.parts = true) (hfills : φ.fills = true)
    (hhost : φ.host = true) (hpcl : φ.pcl = true) (hout : φ.out = true) : (stageAcked s).erase φ = s.erase φ := by
  simp [stageAcked]
  rw [forEach_erase]
  (try simp)
  intros
  (repeat' split) <;> simp_all

@[simp] theorem unpin_erase (φ : Foot) (i : Nat) (s : State) (hparts : φ.parts = true) (hfills : φ.fills = true)
    (hhost : φ.host = true) (hpcl : φ.pcl = true) (hout : φ.out = true) : (unpin i s).erase φ = s.erase φ := by
  simp [unpin, apply_ite (State.erase φ), hparts, hfills, hhost, hpcl, hout]

@[simp] theorem pinRelease_erase (φ : Foot) (p c : Nat) (s : State) (hparts : φ.parts = true) (hfills : φ.fills = true)
    (hhost : φ.host = true) (hpcl : φ.pcl = true) (hout : φ.out = true) : (pinRelease p c s).erase φ = s.erase φ := by
  simp [pinRelease, apply_ite (State.erase φ), hparts, hfills, hhost, hpcl, hout]

@[simp] theorem ctxRelease_erase (φ : Foot) (p c : Nat) (s : State) (hparts : φ.parts = true) (hfills : φ.fills = true)
    (hhost : φ.host = true) (hpcl : φ.pcl = true) (hout : φ.out = true) : (ctxRelease p c s).erase φ = s.erase φ := by
  simp [ctxRelease, hparts, hfills, hhost, hpcl, hout]

@[simp] theorem staleWalk_erase (φ : Foot) (s : State) (hfills : φ.fills = true) : (staleWalk s).erase φ = s.erase φ := by
  simp [staleWalk, apply_ite (State.erase φ), hfills]

@[simp] theorem staleWalkEnd_erase (φ : Foot) (s : State) (hfills : φ.fills = true) :
    (staleWalkEnd s).erase φ = s.erase φ := by
  simp [staleWalkEnd, hfills]

@[simp] theorem trainBegin_erase (φ : Foot) (p i : Nat) (s : State) (hparts : φ.parts = true) (hfills : φ.fills = true)
    (hpcl : φ.pcl = true) (hout : φ.out = true) : (trainBegin p i s).2.erase φ = s.erase φ := by
  simp only [trainBegin]
  (repeat' split) <;> simp_all

@[simp] theorem trainEnd_erase (φ : Foot) (t : Option (FillId × Half)) (s : State) (hparts : φ.parts = true)
    (hfills : φ.fills = true) (hhost : φ.host = true) (hpcl : φ.pcl = true) (hout : φ.out = true) :
    (trainEnd t s).erase φ = s.erase φ := by
  unfold trainEnd
  split <;> simp [apply_ite (State.erase φ), hparts, hfills, hhost, hpcl, hout]

@[simp] theorem fillReset_erase (φ : Foot) (p : Nat) (s : State) (hparts : φ.parts = true) (hfills : φ.fills = true)
    (hhost : φ.host = true) (hpcl : φ.pcl = true) (hout : φ.out = true) : (fillReset p s).erase φ = s.erase φ := by
  simp [fillReset, apply_ite (State.erase φ), forEach_erase, hparts, hfills, hhost, hpcl, hout]

@[simp] theorem evictSlab_erase (φ : Foot) (p pslot : Nat) (s : State) (hparts : φ.parts = true) (hfills : φ.fills = true)
    (hhost : φ.host = true) (hpcl : φ.pcl = true) (hout : φ.out = true) : (evictSlab p pslot s).erase φ = s.erase φ := by
  simp [evictSlab, forEach_erase, hparts, hfills, hhost, hpcl, hout]

@[simp] theorem crustRelease_erase (φ : Foot) (v : Nat) (s : State) (hhbm : φ.hbm = true) (hglazeSlabs : φ.glazeSlabs = true)
    (hglazeKey : φ.glazeKey = true) (hfills : φ.fills = true) : (crustRelease v s).erase φ = s.erase φ := by
  simp [crustRelease, forEach_erase, hhbm, hglazeSlabs, hglazeKey, hfills]

@[simp] theorem crustAbsent_erase (φ : Foot) (v : Nat) (s : State) (hhbm : φ.hbm = true) (hglazeSlabs : φ.glazeSlabs = true)
    (hglazeKey : φ.glazeKey = true) (hfills : φ.fills = true) : (crustAbsent v s).erase φ = s.erase φ := by
  simp [crustAbsent, apply_ite (State.erase φ), hhbm, hglazeSlabs, hglazeKey, hfills]

@[simp] theorem closeBatch_erase (φ : Foot) (p : Nat) (s : State) (hparts : φ.parts = true) :
    (closeBatch p s).erase φ = s.erase φ := by
  simp [closeBatch, hparts]

@[simp] theorem writeLines_erase (φ : Foot) (p t line : Nat) (bs : List Byte) (rank : Nat) (s : State)
    (hparts : φ.parts = true) (htiles : φ.tiles = true) : (writeLines p t line bs rank s).erase φ = s.erase φ := by
  simp [writeLines, foldl_erase, hparts, htiles]

@[simp] theorem orderWritten_erase (φ : Foot) (p : Nat) (s : State) (hparts : φ.parts = true) (htiles : φ.tiles = true) :
    (orderWritten p s).erase φ = s.erase φ := by
  simp only [orderWritten]
  (repeat' split) <;> simp_all [forEach_erase]

@[simp] theorem unitCopyStart_erase (φ : Foot) (p : Nat) (s : State) (hparts : φ.parts = true) :
    (unitCopyStart p s).erase φ = s.erase φ := by
  simp only [unitCopyStart]
  (repeat' split) <;> simp_all

@[simp] theorem sliceLines_erase (φ : Foot) (p r : Nat) (d : Desc) (layer len : Nat) (s : State) (hparts : φ.parts = true)
    (hlog : φ.log = true) (hhbm : φ.hbm = true) (hrepairs : φ.repairs = true) (hfills : φ.fills = true)
    (hhost : φ.host = true) (hpcl : φ.pcl = true) (hpwr : φ.pwr = true) (hmdl : φ.mdl = true) (hobs : φ.obs = true)
    (hout : φ.out = true) : (sliceLines p r d layer len s).1.erase φ = s.erase φ := by
  unfold sliceLines
  dsimp only
  rw [foldl_fst_erase]
  · simp [hparts]
  · intros
    simp [hparts, hlog, hhbm, hrepairs, hfills, hhost, hpcl, hpwr, hmdl, hobs, hout]

@[simp] theorem unitCopyEnd_erase (φ : Foot) (p : Nat) (s : State) (hparts : φ.parts = true) (htiles : φ.tiles = true)
    (hlog : φ.log = true) (hhbm : φ.hbm = true) (hrepairs : φ.repairs = true) (hfills : φ.fills = true)
    (hhost : φ.host = true) (hpcl : φ.pcl = true) (hpwr : φ.pwr = true) (hmdl : φ.mdl = true) (hobs : φ.obs = true)
    (hout : φ.out = true) : (unitCopyEnd p s).erase φ = s.erase φ := by
  unfold unitCopyEnd
  extract_lets q
  split
  · extract_lets j layer
    split
    · rfl
    · extract_lets d len short s1 r s2 s3
      have h1 : s1.erase φ = s.erase φ := by simp [s1, hparts]
      have hr : r.1.erase φ = s1.erase φ := by
        simp only [r]
        rw [foldl_fst_erase]
        intros
        simp only [writeLines_erase, hparts, htiles]
        split <;> simp [hparts, hlog, hhbm, hrepairs, hfills, hhost, hpcl, hpwr, hmdl, hobs, hout]
      have h2 : s2.erase φ = r.1.erase φ := by simp only [s2]; split <;> simp [hparts, hlog, hfills, hhost, hpcl, hout]
      split
      · rfl
      · simp [forEach_erase, s3, h2, hr, h1, hparts]
  · rfl

@[simp] theorem bufferRelease_erase (φ : Foot) (p : Nat) (s : State) (hparts : φ.parts = true) :
    (bufferRelease p s).erase φ = s.erase φ := by
  simp [bufferRelease, apply_ite (State.erase φ), hparts]

@[simp] theorem State_modCkp_erase (φ : Foot) (p : Nat) (f : Ckp → Ckp) (s : State) (hparts : φ.parts = true) :
    (State.modCkp p f s).erase φ = s.erase φ := by
  simp [State.modCkp, hparts]

@[simp] theorem readPlan_erase (φ : Foot) (p : Nat) (s : State) (hparts : φ.parts = true) (hlog : φ.log = true)
    (hhbm : φ.hbm = true) (hrepairs : φ.repairs = true) (hfills : φ.fills = true) (hhost : φ.host = true)
    (hpcl : φ.pcl = true) (hpwr : φ.pwr = true) (hmdl : φ.mdl = true) (hobs : φ.obs = true) (hout : φ.out = true) :
    (readPlan p s).2.erase φ = s.erase φ := by
  simp only [readPlan]
  (repeat' split) <;> simp_all

@[simp] theorem ckFail_erase (φ : Foot) (p cause : Nat) (works : List Work) (s : State) (hparts : φ.parts = true)
    (hlog : φ.log = true) (hhost : φ.host = true) (hout : φ.out = true) : (ckFail p cause works s).erase φ = s.erase φ := by
  simp [ckFail, apply_ite (State.erase φ), forEach_erase, hparts, hlog, hhost, hout]

@[simp] theorem settleDrain_erase (φ : Foot) (p : Nat) (s : State) (hparts : φ.parts = true) :
    (settleDrain p s).erase φ = s.erase φ := by
  simp [settleDrain, hparts]

@[simp] theorem ckDrop_erase (φ : Foot) (p : Nat) (s : State) (hparts : φ.parts = true) :
    (ckDrop p s).erase φ = s.erase φ := by
  simp [ckDrop, hparts]

@[simp] theorem ckCapture_erase (φ : Foot) (p : Nat) (ctl : List Byte) (s : State) (hparts : φ.parts = true)
    (hlog : φ.log = true) (hhbm : φ.hbm = true) (hrepairs : φ.repairs = true) (hfills : φ.fills = true)
    (hhost : φ.host = true) (hpcl : φ.pcl = true) (hpwr : φ.pwr = true) (hmdl : φ.mdl = true) (hobs : φ.obs = true)
    (hout : φ.out = true) : (ckCapture p ctl s).erase φ = s.erase φ := by
  unfold ckCapture
  extract_lets k works s1
  have h1 : s1.erase φ = s.erase φ := by simp [s1, hparts]
  clear_value s1
  have h : (readPlan p s1).2.erase φ = s1.erase φ := by simp [hparts, hlog, hhbm, hrepairs, hfills, hhost, hpcl, hpwr, hmdl,
      hobs, hout]
  split
  · rename_i e; rw [e] at h; simp [h1, h, hparts, hlog, hhost, hout]
  · rename_i e; rw [e] at h
    dsimp -zeta only at h ⊢
    extract_lets q bufs capLines mem capR s2 secs limit
    have h2 : s2.erase φ = s.erase φ := by simp [s2, forEach_erase, h1, h, hparts]
    clear_value s2
    split <;> simp [h2, hparts, hlog, hhost, hout]

@[simp] theorem boundary_erase (φ : Foot) (p : Nat) (ctl : List Byte) (s : State) (hparts : φ.parts = true)
    (hlog : φ.log = true) (hhbm : φ.hbm = true) (hrepairs : φ.repairs = true) (hfills : φ.fills = true)
    (hhost : φ.host = true) (hpcl : φ.pcl = true) (hpwr : φ.pwr = true) (hmdl : φ.mdl = true) (hobs : φ.obs = true)
    (hout : φ.out = true) : (boundary p ctl s).erase φ = s.erase φ := by
  simp [boundary, apply_ite (State.erase φ), hparts, hlog, hhbm, hrepairs, hfills, hhost, hpcl, hpwr, hmdl, hobs, hout]

@[simp] theorem swapPair_erase (φ : Foot) (p k : Nat) (s : State) (hparts : φ.parts = true) :
    (swapPair p k s).1.erase φ = s.erase φ := by
  unfold swapPair
  split <;> simp [hparts]

@[simp] theorem swapEffect_erase (φ : Foot) (p k : Nat) (stepEnd : Bool) (ctl : List Byte) (s : State)
    (hparts : φ.parts = true) (hlog : φ.log = true) (hhbm : φ.hbm = true) (hrepairs : φ.repairs = true)
    (hfills : φ.fills = true) (hhost : φ.host = true) (hpcl : φ.pcl = true) (hpwr : φ.pwr = true) (hmdl : φ.mdl = true)
    (hobs : φ.obs = true) (hout : φ.out = true) : (swapEffect p k stepEnd ctl s).erase φ = s.erase φ := by
  simp [swapEffect, apply_ite (State.erase φ), hparts, hlog, hhbm, hrepairs, hfills, hhost, hpcl, hpwr, hmdl, hobs, hout]

@[simp] theorem swapIssue_erase (φ : Foot) (p : Nat) (k : BitVec 3) (stepEnd : Bool) (s : State) (hparts : φ.parts = true) :
    (swapIssue p k stepEnd s).erase φ = s.erase φ := by
  simp [swapIssue, apply_ite (State.erase φ), hparts]

@[simp] theorem swapEnd_erase (φ : Foot) (p : Nat) (k : BitVec 3) (stepEnd held : Bool) (s : State) (hparts : φ.parts = true)
    (hlog : φ.log = true) (hhbm : φ.hbm = true) (hrepairs : φ.repairs = true) (hfills : φ.fills = true)
    (hhost : φ.host = true) (hpcl : φ.pcl = true) (hpwr : φ.pwr = true) (hmdl : φ.mdl = true) (hobs : φ.obs = true)
    (hout : φ.out = true) : (swapEnd p k stepEnd held s).erase φ = s.erase φ := by
  simp [swapEnd, apply_ite (State.erase φ), hparts, hlog, hhbm, hrepairs, hfills, hhost, hpcl, hpwr, hmdl, hobs, hout]

@[simp] theorem captureEnd_erase (φ : Foot) (p : Nat) (s : State) (hparts : φ.parts = true) (hlog : φ.log = true)
    (hhbm : φ.hbm = true) (hhost : φ.host = true) (hout : φ.out = true) : (captureEnd p s).erase φ = s.erase φ := by
  simp only [captureEnd]
  (repeat' split) <;> simp_all [forEach_erase]

@[simp] theorem readItems_erase (φ : Foot) (p : Nat) (j : CkJob) (l : List (List Byte ⊕ Nat)) (s : State)
    (hparts : φ.parts = true) (hlog : φ.log = true) (hhbm : φ.hbm = true) (hrepairs : φ.repairs = true)
    (hfills : φ.fills = true) (hhost : φ.host = true) (hpcl : φ.pcl = true) (hpwr : φ.pwr = true) (hmdl : φ.mdl = true)
    (hobs : φ.obs = true) (hout : φ.out = true) : (readItems p j l s).1.erase φ = s.erase φ := by
  induction l generalizing s with
  | nil => rfl
  | cons e l ih =>
    cases e with
    | inl b => simp [readItems, ih]
    | inr n => simp only [readItems, ih]; split <;> simp [hparts, hlog, hhbm, hrepairs, hfills, hhost, hpcl, hpwr, hmdl,
        hobs, hout]

@[simp] theorem ckSend_erase (φ : Foot) (p u : Nat) (data : List Byte) (s : State) (hparts : φ.parts = true)
    (hhost : φ.host = true) (hpcl : φ.pcl = true) (hout : φ.out = true) : (ckSend p u data s).erase φ = s.erase φ := by
  simp [ckSend, apply_ite (State.erase φ), hparts, hhost, hpcl, hout]

@[simp] theorem ckComplete_erase (φ : Foot) (p : Nat) (s : State) (hparts : φ.parts = true) (hhost : φ.host = true)
    (hout : φ.out = true) : (ckComplete p s).erase φ = s.erase φ := by
  unfold ckComplete
  split <;> simp [forEach_erase, hparts, hhost, hout]

@[simp] theorem ckAhead_erase (φ : Foot) (p : Nat) (j : CkJob) (s : State) (hparts : φ.parts = true) (hlog : φ.log = true)
    (hhbm : φ.hbm = true) (hrepairs : φ.repairs = true) (hfills : φ.fills = true) (hhost : φ.host = true)
    (hpcl : φ.pcl = true) (hpwr : φ.pwr = true) (hmdl : φ.mdl = true) (hobs : φ.obs = true) (hout : φ.out = true) :
    (ckAhead p j s).erase φ = s.erase φ := by
  unfold ckAhead
  extract_lets lines
  split
  · rfl
  · extract_lets r
    have hr : r.1.erase φ = s.erase φ := by
      simp only [r]
      rw [foldl_fst_erase]
      intros
      simp [hparts, hlog, hhbm, hrepairs, hfills, hhost, hpcl, hpwr, hmdl, hobs, hout]
    simp [hr, hparts]

@[simp] theorem ckDrain_erase (φ : Foot) (p : Nat) (s : State) (hparts : φ.parts = true) (hlog : φ.log = true)
    (hhbm : φ.hbm = true) (hrepairs : φ.repairs = true) (hfills : φ.fills = true) (hhost : φ.host = true)
    (hpcl : φ.pcl = true) (hpwr : φ.pwr = true) (hmdl : φ.mdl = true) (hobs : φ.obs = true) (hout : φ.out = true) :
    (ckDrain p s).erase φ = s.erase φ := by
  unfold ckDrain
  extract_lets q
  split
  · rfl
  · extract_lets n u items ahead r s1 data extra' s2 s3
    have hr : r.1.erase φ = s.erase φ := by simp only [r]; (repeat' split) <;> simp [hparts, hlog, hhbm, hrepairs, hfills,
        hhost, hpcl, hpwr, hmdl, hobs, hout]
    clear_value r
    (repeat' split) <;> simp [s1, s2, s3, hr, hparts, hlog, hhbm, hrepairs, hfills, hhost, hpcl, hpwr, hmdl, hobs, hout]

@[simp] theorem ckHeldRead_erase (φ : Foot) (p : Nat) (s : State) (hparts : φ.parts = true) (hlog : φ.log = true)
    (hhbm : φ.hbm = true) (hrepairs : φ.repairs = true) (hfills : φ.fills = true) (hhost : φ.host = true)
    (hpcl : φ.pcl = true) (hpwr : φ.pwr = true) (hmdl : φ.mdl = true) (hobs : φ.obs = true) (hout : φ.out = true) :
    (ckHeldRead p s).erase φ = s.erase φ := by
  simp only [ckHeldRead]
  (repeat' split) <;> simp_all

@[simp] theorem ckAck_erase (φ : Foot) (p : Nat) (s : State) (hparts : φ.parts = true) (hhost : φ.host = true)
    (hout : φ.out = true) : (ckAck p s).erase φ = s.erase φ := by
  unfold ckAck
  split <;> simp [apply_ite (State.erase φ), hparts, hhost, hout]

@[simp] theorem ckTrailerRead_erase (φ : Foot) (p : Nat) (ok : Bool) (s : State) (hparts : φ.parts = true)
    (hlog : φ.log = true) (hhost : φ.host = true) (hout : φ.out = true) : (ckTrailerRead p ok s).erase φ = s.erase φ := by
  unfold ckTrailerRead
  split <;> simp [apply_ite (State.erase φ), hparts, hlog, hhost, hout]

@[simp] theorem ckExpiry_erase (φ : Foot) (p : Nat) (s : State) (hparts : φ.parts = true) (hpwr : φ.pwr = true) :
    (ckExpiry p s).erase φ = s.erase φ := by
  simp [ckExpiry, apply_ite (State.erase φ), hparts, hpwr]

@[simp] theorem ckNow_erase (φ : Foot) (p : Nat) (w : Work) (s : State) (hparts : φ.parts = true) (hhost : φ.host = true)
    (hout : φ.out = true) : (ckNow p w s).erase φ = s.erase φ := by
  simp [ckNow, apply_ite (State.erase φ), hparts, hhost, hout]

@[simp] theorem ckProgramEnd_erase (φ : Foot) (p : Nat) (s : State) (hparts : φ.parts = true) (hhost : φ.host = true)
    (hout : φ.out = true) : (ckProgramEnd p s).erase φ = s.erase φ := by
  simp [ckProgramEnd, forEach_erase, hparts, hhost, hout]

@[simp] theorem restoreAsk_erase (φ : Foot) (p : Nat) (s : State) (hparts : φ.parts = true) (hhost : φ.host = true)
    (hpcl : φ.pcl = true) (hout : φ.out = true) : (restoreAsk p s).erase φ = s.erase φ := by
  simp only [restoreAsk]
  (repeat' split) <;> simp_all

@[simp] theorem restoreSlots_erase (φ : Foot) (base n i : Nat) (w : List Nat) (s : State) (hpcl : φ.pcl = true) :
    (restoreSlots base n i w s).erase φ = s.erase φ := by
  induction n generalizing i w s with
  | zero => rfl
  | succ n ih => unfold restoreSlots; split <;> simp [ih, hpcl]

@[simp] theorem restoreSiu_erase (φ : Foot) (p : Nat) (b : List Byte) (s : State) (hparts : φ.parts = true)
    (hhbm : φ.hbm = true) : (restoreSiu p b s).erase φ = s.erase φ := by
  simp [restoreSiu, apply_ite (State.erase φ), forEach_erase, hparts, hhbm]

@[simp] theorem restoreLines_erase (φ : Foot) (p : Nat) (l : List (Nat × Nat)) (b : List Byte) (s : State)
    (hparts : φ.parts = true) (hhbm : φ.hbm = true) : (restoreLines p l b s).erase φ = s.erase φ := by
  induction l generalizing b s with
  | nil => rfl
  | cons e l ih => simp [restoreLines, ih, hparts, hhbm]

@[simp] theorem restoreUnits_erase (φ : Foot) (p : Nat) (b : List Byte) (s : State) (hparts : φ.parts = true)
    (htiles : φ.tiles = true) : (restoreUnits p b s).erase φ = s.erase φ := by
  simp [restoreUnits, forEach_erase, hparts, htiles]

@[simp] theorem restoreControl_erase (φ : Foot) (p : Nat) (b : List Byte) (s : State) (hparts : φ.parts = true) :
    (restoreControl p b s).erase φ = s.erase φ := by
  simp [restoreControl, hparts]

@[simp] theorem restoreWrite_erase (φ : Foot) (p : Nat) (b : List Byte) (s : State) (hparts : φ.parts = true)
    (htiles : φ.tiles = true) (hlog : φ.log = true) (hhbm : φ.hbm = true) (hrepairs : φ.repairs = true)
    (hfills : φ.fills = true) (hhost : φ.host = true) (hpcl : φ.pcl = true) (hpwr : φ.pwr = true) (hmdl : φ.mdl = true)
    (hobs : φ.obs = true) (hout : φ.out = true) : (restoreWrite p b s).erase φ = s.erase φ := by
  unfold restoreWrite
  extract_lets bad
  have hb : ∀ s, (bad s).erase φ = s.erase φ := by intro s; simp [bad, hparts, hlog, hfills, hhost, hpcl, hpwr, hobs, hout]
  clear_value bad
  split
  · extract_lets s1
    have h : (readPlan p s1).2.erase φ = s1.erase φ := by simp [hparts, hlog, hhbm, hrepairs, hfills, hhost, hpcl, hpwr,
        hmdl, hobs, hout]
    have h1 : s1.erase φ = s.erase φ := by simp [s1, hparts, htiles]
    clear_value s1
    split
    · rename_i e; rw [e] at h; simp [hb, h1, h]
    · rename_i e; rw [e] at h
      dsimp -zeta only at h ⊢
      extract_lets q bufs mem per capR t0 t1 t2 t3 t4 t5 t6 t7
      have e4 : t4.erase φ = t3.erase φ := by
        apply forEach_erase
        intros
        rw [foldl_fst_erase]
        intros
        simp [forEach_erase, hparts, htiles]
      have e0 : t0.erase φ = s.erase φ := by simp [t0, forEach_erase, h1, h, hparts]
      split
      · simp [hb, e0]
      · simp [t7, t6, t5, e4, t3, t2, t1, e0, hparts, hhbm, hpcl]
  · exact hb s

@[simp] theorem restoreAbort_erase (φ : Foot) (p : Nat) (s : State) (hparts : φ.parts = true) (hfills : φ.fills = true)
    (hhost : φ.host = true) (hpcl : φ.pcl = true) (hout : φ.out = true) : (restoreAbort p s).erase φ = s.erase φ := by
  simp only [restoreAbort]
  (repeat' split) <;> simp_all

@[simp] theorem restoreNext_erase (φ : Foot) (p slot : Nat) (s : State) (hparts : φ.parts = true) (hfills : φ.fills = true)
    (hhost : φ.host = true) (hpcl : φ.pcl = true) (hout : φ.out = true) : (restoreNext p slot s).erase φ = s.erase φ := by
  simp [restoreNext, apply_ite (State.erase φ), hparts, hfills, hhost, hpcl, hout]

@[simp] theorem restoreBytes_erase (φ : Foot) (p : Nat) (bs : List Byte) (pois : Bool) (s : State) (hparts : φ.parts = true)
    (htiles : φ.tiles = true) (hlog : φ.log = true) (hhbm : φ.hbm = true) (hrepairs : φ.repairs = true)
    (hfills : φ.fills = true) (hhost : φ.host = true) (hpcl : φ.pcl = true) (hpwr : φ.pwr = true) (hmdl : φ.mdl = true)
    (hobs : φ.obs = true) (hout : φ.out = true) : (restoreBytes p bs pois s).erase φ = s.erase φ := by
  simp only [restoreBytes]
  (repeat' split) <;> simp_all

@[simp] theorem restoreBegin_erase (φ : Foot) (p : Nat) (s : State) (hparts : φ.parts = true) (hfills : φ.fills = true)
    (hhost : φ.host = true) (hpcl : φ.pcl = true) (hout : φ.out = true) : (restoreBegin p s).erase φ = s.erase φ := by
  simp [restoreBegin, apply_ite (State.erase φ), hparts, hfills, hhost, hpcl, hout]

@[simp] theorem writeBundle_erase (φ : Foot) (p i : Nat) (bs : List Byte) (s : State) (himem : φ.imem = true) :
    (writeBundle p i bs s).erase φ = s.erase φ := by
  unfold writeBundle
  split <;> simp [himem]

@[simp] theorem writeBundles_erase (φ : Foot) (p i : Nat) (bs : List Byte) (s : State) (himem : φ.imem = true) :
    (writeBundles p i bs s).erase φ = s.erase φ := by
  simp [writeBundles, foldl_erase, himem]

@[simp] theorem writeShape_erase (φ : Foot) (p line : Nat) (s : State) (hparts : φ.parts = true) (htiles : φ.tiles = true) :
    (writeShape p line s).erase φ = s.erase φ := by
  simp [writeShape, forEach_erase, hparts, htiles]

@[simp] theorem writeShapes_erase (φ : Foot) (p : Nat) (s : State) (hparts : φ.parts = true) (htiles : φ.tiles = true) :
    (writeShapes p s).erase φ = s.erase φ := by
  simp [writeShapes, apply_ite (State.erase φ), hparts, htiles]

@[simp] theorem replayPlanes_erase (φ : Foot) (p : Nat) (b : Bool) (as : List Nat) (s : State) (htiles : φ.tiles = true) :
    (replayPlanes p b as s).erase φ = s.erase φ := by
  simp [replayPlanes, forEach_erase, htiles]

@[simp] theorem runAsk_erase (φ : Foot) (p : Nat) (j : RunJob) (s : State) (hparts : φ.parts = true) (hhost : φ.host = true)
    (hout : φ.out = true) : (runAsk p j s).erase φ = s.erase φ := by
  simp [runAsk, apply_ite (State.erase φ), hparts, hhost, hout]

@[simp] theorem setRun_erase (φ : Foot) (p : Nat) (j : RunJob) (s : State) (hparts : φ.parts = true) :
    (setRun p j s).erase φ = s.erase φ := by
  simp [setRun, hparts]

@[simp] theorem dropRun_erase (φ : Foot) (p : Nat) (j : RunJob) (s : State) (hparts : φ.parts = true) :
    (dropRun p j s).erase φ = s.erase φ := by
  simp [dropRun, hparts]

@[simp] theorem runCopied_erase (φ : Foot) (p : Nat) (j : RunJob) (s : State) (hparts : φ.parts = true)
    (himem : φ.imem = true) (hhost : φ.host = true) (hout : φ.out = true) : (runCopied p j s).erase φ = s.erase φ := by
  simp [runCopied, apply_ite (State.erase φ), hparts, himem, hhost, hout]

@[simp] theorem runBytes_erase (φ : Foot) (p : Nat) (b : Bool) (bs : List Byte) (pois : Bool) (s : State)
    (hparts : φ.parts = true) (himem : φ.imem = true) (hhost : φ.host = true) (hout : φ.out = true) :
    (runBytes p b bs pois s).erase φ = s.erase φ := by
  unfold runBytes
  split <;> simp [apply_ite (State.erase φ), hparts, himem, hhost, hout]

@[simp] theorem runLocal_erase (φ : Foot) (p : Nat) (j : RunJob) (s : State) (hparts : φ.parts = true) (himem : φ.imem = true)
    (hlog : φ.log = true) (hhbm : φ.hbm = true) (hrepairs : φ.repairs = true) (hfills : φ.fills = true)
    (hhost : φ.host = true) (hpcl : φ.pcl = true) (hpwr : φ.pwr = true) (hmdl : φ.mdl = true) (hobs : φ.obs = true)
    (hout : φ.out = true) : (runLocal p j s).erase φ = s.erase φ := by
  simp [runLocal, apply_ite (State.erase φ), hparts, himem, hlog, hhbm, hrepairs, hfills, hhost, hpcl, hpwr, hmdl, hobs, hout]

@[simp] theorem programRun_erase (φ : Foot) (p : Nat) (w : Work) (b : RunBody) (s : State) (hparts : φ.parts = true)
    (himem : φ.imem = true) (hlog : φ.log = true) (hhbm : φ.hbm = true) (hrepairs : φ.repairs = true)
    (hfills : φ.fills = true) (hhost : φ.host = true) (hpcl : φ.pcl = true) (hpwr : φ.pwr = true) (hmdl : φ.mdl = true)
    (hobs : φ.obs = true) (hout : φ.out = true) : (programRun p w b s).erase φ = s.erase φ := by
  simp [programRun, apply_ite (State.erase φ), hparts, himem, hlog, hhbm, hrepairs, hfills, hhost, hpcl, hpwr, hmdl, hobs, hout]

@[simp] theorem mirrorProgram_erase (φ : Foot) (p idx : Nat) (image : List Byte) (s : State) (hpcl : φ.pcl = true)
    (hout : φ.out = true) : (mirrorProgram p idx image s).erase φ = s.erase φ := by
  simp [mirrorProgram, apply_ite (State.erase φ), forEach_erase, hpcl, hout]

@[simp] theorem startF_erase (φ : Foot) (p : Nat) (c : Ctx) (s : State) (hparts : φ.parts = true) (htiles : φ.tiles = true)
    (hlog : φ.log = true) (hfills : φ.fills = true) (hhost : φ.host = true) (hpcl : φ.pcl = true) (hpwr : φ.pwr = true)
    (hobs : φ.obs = true) (hout : φ.out = true) : (startF p c s).erase φ = s.erase φ := by
  simp [startF, apply_ite (State.erase φ), forEach_erase, hparts, htiles, hlog, hfills, hhost, hpcl, hpwr, hobs, hout]

@[simp] theorem startB_erase (φ : Foot) (p : Nat) (c : Ctx) (s : State) (hparts : φ.parts = true) (htiles : φ.tiles = true)
    (hlog : φ.log = true) (hfills : φ.fills = true) (hhost : φ.host = true) (hpcl : φ.pcl = true) (hpwr : φ.pwr = true)
    (hobs : φ.obs = true) (hout : φ.out = true) : (startB p c s).erase φ = s.erase φ := by
  simp [startB, apply_ite (State.erase φ), hparts, htiles, hlog, hfills, hhost, hpcl, hpwr, hobs, hout]

@[simp] theorem jobsStart_erase (φ : Foot) (p : Nat) (s : State) (hpcl : φ.pcl = true) :
    (jobsStart p s).erase φ = s.erase φ := by
  simp [jobsStart, hpcl]

@[simp] theorem programStart_erase (φ : Foot) (p : Nat) (b : Bool) (s : State) (hparts : φ.parts = true)
    (htiles : φ.tiles = true) (hlog : φ.log = true) (hfills : φ.fills = true) (hhost : φ.host = true) (hpcl : φ.pcl = true)
    (hpwr : φ.pwr = true) (hobs : φ.obs = true) (hout : φ.out = true) : (programStart p b s).erase φ = s.erase φ := by
  unfold programStart
  (repeat' split) <;> simp_all [apply_ite (State.erase φ)]

@[simp] theorem endProgram_erase (φ : Foot) (p : Nat) (s : State) (hparts : φ.parts = true) (htiles : φ.tiles = true)
    (hlog : φ.log = true) (hfills : φ.fills = true) (hhost : φ.host = true) (hpcl : φ.pcl = true) (hpwr : φ.pwr = true)
    (hobs : φ.obs = true) (hout : φ.out = true) : (endProgram p s).erase φ = s.erase φ := by
  simp only [endProgram]
  (repeat' split) <;> simp_all

end Sys2Proof.Machine
end

