-- ==== Sys2Proof/Laws/EraseLink.lean ====
section
/-!
SUPPORT. What the collective link may change: a state with those parts blanked is the same before and after.
-/

namespace Sys2Proof.Machine

@[simp] theorem portPump_erase (φ : Foot) (q : Nat) (s : State) (hpcl : φ.pcl = true) (hout : φ.out = true) :
    (portPump q s).erase φ = s.erase φ := by
  simp [portPump, forEach_erase, hpcl, hout]

@[simp] theorem rxWake_erase (φ : Foot) (q : Nat) (s : State) (hpcl : φ.pcl = true) (hpwr : φ.pwr = true)
    (hout : φ.out = true) : (rxWake q s).erase φ = s.erase φ := by
  simp [rxWake, apply_ite (State.erase φ), hpcl, hpwr, hout]

@[simp] theorem creditBack_erase (φ : Foot) (q v n : Nat) (s : State) (hpcl : φ.pcl = true) :
    (creditBack q v n s).erase φ = s.erase φ := by
  simp [creditBack, hpcl]

@[simp] theorem creditFrame_erase (φ : Foot) (q : Nat) (f : Frame) (s : State) (hpcl : φ.pcl = true) :
    (creditFrame q f s).erase φ = s.erase φ := by
  simp [creditFrame, hpcl]

@[simp] theorem creditFlit_erase (φ : Foot) (q v : Nat) (s : State) (hpcl : φ.pcl = true) (hout : φ.out = true) :
    (creditFlit q v s).erase φ = s.erase φ := by
  simp [creditFlit, apply_ite (State.erase φ), hpcl, hout]

@[simp] theorem nakVc_erase (φ : Foot) (q v : Nat) (s : State) (hpcl : φ.pcl = true) (hout : φ.out = true) :
    (nakVc q v s).erase φ = s.erase φ := by
  simp [nakVc, hpcl, hout]

@[simp] theorem loseP_erase (φ : Foot) (q : Nat) (s : State) (hparts : φ.parts = true) (hlog : φ.log = true)
    (hfills : φ.fills = true) (hhost : φ.host = true) (hpcl : φ.pcl = true) (hpwr : φ.pwr = true) (hobs : φ.obs = true)
    (hout : φ.out = true) : (loseP q s).erase φ = s.erase φ := by
  simp [loseP, apply_ite (State.erase φ), forEach_erase, hparts, hlog, hfills, hhost, hpcl, hpwr, hobs, hout]

@[simp] theorem sendAgain_erase (φ : Foot) (q v : Nat) (e : Nat × Frame) (s : State) (hpcl : φ.pcl = true)
    (hout : φ.out = true) : (sendAgain q v e s).erase φ = s.erase φ := by
  simp [sendAgain, hpcl, hout]

@[simp] theorem replay_erase (φ : Foot) (q v : Nat) (s : State) (hparts : φ.parts = true) (hlog : φ.log = true)
    (hfills : φ.fills = true) (hhost : φ.host = true) (hpcl : φ.pcl = true) (hpwr : φ.pwr = true) (hobs : φ.obs = true)
    (hout : φ.out = true) : (replay q v s).erase φ = s.erase φ := by
  simp [replay, apply_ite (State.erase φ), forEach_erase, hparts, hlog, hfills, hhost, hpcl, hpwr, hobs, hout]

@[simp] theorem sendAcked_erase (φ : Foot) (e : Nat × Frame) (s : State) (hpcl : φ.pcl = true) :
    (sendAcked e s).erase φ = s.erase φ := by
  simp [sendAcked, apply_ite (State.erase φ), forEach_erase, hpcl]

@[simp] theorem creditTake_erase (φ : Foot) (q v n : Nat) (ack : Half) (nak : Bool) (s : State) (hparts : φ.parts = true)
    (hlog : φ.log = true) (hfills : φ.fills = true) (hhost : φ.host = true) (hpcl : φ.pcl = true) (hpwr : φ.pwr = true)
    (hobs : φ.obs = true) (hout : φ.out = true) : (creditTake q v n ack nak s).erase φ = s.erase φ := by
  simp [creditTake, apply_ite (State.erase φ), forEach_erase, hparts, hlog, hfills, hhost, hpcl, hpwr, hobs, hout]

@[simp] theorem badJob_erase (φ : Foot) (q : Nat) (s : State) (hpcl : φ.pcl = true) : (badJob q s).erase φ = s.erase φ := by
  simp [badJob, hpcl]

@[simp] theorem rxAccept_erase (φ : Foot) (q typ : Nat) (f : Frame) (s : State) (hparts : φ.parts = true)
    (hlog : φ.log = true) (hfills : φ.fills = true) (hhost : φ.host = true) (hpcl : φ.pcl = true) (hpwr : φ.pwr = true)
    (hobs : φ.obs = true) (hout : φ.out = true) : (rxAccept q typ f s).1.erase φ = s.erase φ := by
  simp only [rxAccept]
  (repeat' split) <;> simp_all

@[simp] theorem bringUp_erase (φ : Foot) (q : Nat) (s : State) (hpcl : φ.pcl = true) (hout : φ.out = true) :
    (bringUp q s).erase φ = s.erase φ := by
  simp [bringUp, apply_ite (State.erase φ), hpcl, hout]

@[simp] theorem hello_erase (φ : Foot) (q id role tol : Nat) (s : State) (hpcl : φ.pcl = true) (hout : φ.out = true) :
    (hello q id role tol s).erase φ = s.erase φ := by
  simp [hello, apply_ite (State.erase φ), hpcl, hout]

@[simp] theorem vcSettle_erase (φ : Foot) (q v : Nat) (s : State) (hpcl : φ.pcl = true) (hout : φ.out = true) :
    (vcSettle q v s).erase φ = s.erase φ := by
  simp [vcSettle, apply_ite (State.erase φ), hpcl, hout]

@[simp] theorem sendVcReset_erase (φ : Foot) (q v job : Nat) (s : State) (hpcl : φ.pcl = true) (hout : φ.out = true) :
    (sendVcReset q v job s).erase φ = s.erase φ := by
  simp [sendVcReset, apply_ite (State.erase φ), hpcl, hout]

@[simp] theorem lateVcReset_erase (φ : Foot) (q v : Nat) (s : State) (hpcl : φ.pcl = true) (hout : φ.out = true) :
    (lateVcReset q v s).erase φ = s.erase φ := by
  unfold lateVcReset
  split <;> simp [apply_ite (State.erase φ), hpcl, hout]

@[simp] theorem echoReply_erase (φ : Foot) (q stamp : Nat) (s : State) (hpcl : φ.pcl = true) (hout : φ.out = true) :
    (echoReply q stamp s).erase φ = s.erase φ := by
  unfold echoReply
  split <;> simp [apply_ite (State.erase φ), forEach_erase, hpcl, hout]

@[simp] theorem vcReset_erase (φ : Foot) (q v job : Nat) (s : State) (hpcl : φ.pcl = true) (hpwr : φ.pwr = true)
    (hout : φ.out = true) : (vcReset q v job s).erase φ = s.erase φ := by
  unfold vcReset
  split <;> simp [apply_ite (State.erase φ), hpcl, hpwr, hout]

@[simp] theorem sendVcResets_erase (φ : Foot) (p : Nat) (s : State) (hpcl : φ.pcl = true) (hout : φ.out = true) :
    (sendVcResets p s).erase φ = s.erase φ := by
  simp (maxDischargeDepth := 6) [sendVcResets, forEach_erase, hpcl, hout]

@[simp] theorem stopSlots_erase (φ : Foot) (p : Nat) (ks : List Nat) (s : State) (hpcl : φ.pcl = true) :
    (stopSlots p ks s).erase φ = s.erase φ := by
  simp [stopSlots, forEach_erase, hpcl]

@[simp] theorem haltRx_erase (φ : Foot) (q origin hop job reason : Nat) (s : State) (hparts : φ.parts = true)
    (hlog : φ.log = true) (hfills : φ.fills = true) (hhost : φ.host = true) (hpcl : φ.pcl = true) (hpwr : φ.pwr = true)
    (hobs : φ.obs = true) (hout : φ.out = true) : (haltRx q origin hop job reason s).erase φ = s.erase φ := by
  simp [haltRx, apply_ite (State.erase φ), forEach_erase, hparts, hlog, hfills, hhost, hpcl, hpwr, hobs, hout]

@[simp] theorem sendTols_erase (φ : Foot) (s : State) (hpcl : φ.pcl = true) (hout : φ.out = true) :
    (sendTols s).erase φ = s.erase φ := by
  simp [sendTols, apply_ite (State.erase φ), forEach_erase, hpcl, hout]

@[simp] theorem lpiSettle_erase (φ : Foot) (q : Nat) (s : State) (hpcl : φ.pcl = true) :
    (lpiSettle q s).erase φ = s.erase φ := by
  simp [lpiSettle, hpcl]

@[simp] theorem lpiSend_erase (φ : Foot) (q : Nat) (s : State) (hpcl : φ.pcl = true) (hout : φ.out = true) :
    (lpiSend q s).erase φ = s.erase φ := by
  simp [lpiSend, apply_ite (State.erase φ), hpcl, hout]

@[simp] theorem lpiRx_erase (φ : Foot) (q : Nat) (s : State) (hpcl : φ.pcl = true) (hout : φ.out = true) :
    (lpiRx q s).erase φ = s.erase φ := by
  simp [lpiRx, apply_ite (State.erase φ), hpcl, hout]

@[simp] theorem tolRx_erase (φ : Foot) (q tol : Nat) (s : State) (hpcl : φ.pcl = true) :
    (tolRx q tol s).erase φ = s.erase φ := by
  simp [tolRx, apply_ite (State.erase φ), hpcl]

@[simp] theorem rxFlit_erase (φ : Foot) (q typ lop : Nat) (w : Flit) (act : Nat → State → State) (s : State)
    (hact : ∀ a0 s, (act a0 s).erase φ = s.erase φ) (hpcl : φ.pcl = true) :
    (rxFlit q typ lop w act s).erase φ = s.erase φ := by
  simp [rxFlit, apply_ite (State.erase φ), hact, hpcl]

@[simp] theorem putElem_erase (φ : Foot) (n x : Nat) (bs : List Byte) (s : State) (hparts : φ.parts = true)
    (htiles : φ.tiles = true) : (putElem n x bs s).erase φ = s.erase φ := by
  simp [putElem, apply_ite (State.erase φ), forEach_erase, hparts, htiles]

@[simp] theorem putShard_erase (φ : Foot) (n x : Nat) (bs : List Byte) (s : State) (hparts : φ.parts = true)
    (htiles : φ.tiles = true) : (putShard n x bs s).erase φ = s.erase φ := by
  simp [putShard, hparts, htiles]

@[simp] theorem deliverBlock_erase (φ : Foot) (n j : Nat) (ws : List Word) (s : State) (hparts : φ.parts = true)
    (htiles : φ.tiles = true) (hpcl : φ.pcl = true) : (deliverBlock n j ws s).erase φ = s.erase φ := by
  simp [deliverBlock, apply_ite (State.erase φ), foldl_erase, hparts, htiles, hpcl]

@[simp] theorem outFrame_erase (φ : Foot) (n q typ : Nat) (f : Frame) (s : State) (hpcl : φ.pcl = true) (hout : φ.out = true)
    : (outFrame n q typ f s).erase φ = s.erase φ := by
  simp [outFrame, apply_ite (State.erase φ), hpcl, hout]

@[simp] theorem packFrames_erase (φ : Foot) (n q typ fmt hop off stop : Nat) (sat : Bool) (bl : List (List Byte × Bool))
    (s : State) (hpcl : φ.pcl = true) (hout : φ.out = true) :
    (packFrames n q typ fmt hop off stop sat bl s).erase φ = s.erase φ := by
  simp [packFrames, forEach_erase, hpcl, hout]

@[simp] theorem sendEmpty_erase (φ : Foot) (n q hop off : Nat) (sat : Bool) (s : State) (hpcl : φ.pcl = true)
    (hout : φ.out = true) : (sendEmpty n q hop off sat s).erase φ = s.erase φ := by
  simp [sendEmpty, hpcl, hout]

@[simp] theorem forward_erase (φ : Foot) (n q typ : Nat) (f : Frame) (s : State) (hpcl : φ.pcl = true) (hout : φ.out = true) :
    (forward n q typ f s).erase φ = s.erase φ := by
  simp [forward, hpcl, hout]

@[simp] theorem modLedger_erase (φ : Foot) (n h : Nat) (f : Ledger → Ledger) (s : State) (hpcl : φ.pcl = true) :
    (modLedger n h f s).erase φ = s.erase φ := by
  simp [modLedger, hpcl]

@[simp] theorem ledgerData_erase (φ : Foot) (n h j : Nat) (bl : List (List Word)) (s : State) (hparts : φ.parts = true)
    (hlog : φ.log = true) (hhbm : φ.hbm = true) (hrepairs : φ.repairs = true) (hfills : φ.fills = true)
    (hhost : φ.host = true) (hpcl : φ.pcl = true) (hpwr : φ.pwr = true) (hmdl : φ.mdl = true) (hobs : φ.obs = true)
    (hout : φ.out = true) : (ledgerData n h j bl s).erase φ = s.erase φ := by
  unfold ledgerData
  split <;> simp [apply_ite (State.erase φ), forEach_erase, hparts, hhbm, hpcl]

@[simp] theorem ledgerGot_erase (φ : Foot) (n h key blocks : Nat) (s : State) (hpcl : φ.pcl = true) :
    (ledgerGot n h key blocks s).erase φ = s.erase φ := by
  simp [ledgerGot, hpcl]

@[simp] theorem ledgerMake_erase (φ : Foot) (n : Nat) (s : State) (hparts : φ.parts = true) (hlog : φ.log = true)
    (hhbm : φ.hbm = true) (hrepairs : φ.repairs = true) (hfills : φ.fills = true) (hhost : φ.host = true)
    (hpcl : φ.pcl = true) (hpwr : φ.pwr = true) (hmdl : φ.mdl = true) (hobs : φ.obs = true) (hout : φ.out = true) :
    (ledgerMake n s).erase φ = s.erase φ := by
  simp [ledgerMake, apply_ite (State.erase φ), forEach_erase, hparts, hlog, hhbm, hrepairs, hfills, hhost, hpcl, hpwr, hmdl,
      hobs, hout]

@[simp] theorem writeHist_erase (φ : Foot) (n : Nat) (s : State) (hparts : φ.parts = true) (hlog : φ.log = true)
    (hhbm : φ.hbm = true) (hrepairs : φ.repairs = true) (hfills : φ.fills = true) (hhost : φ.host = true)
    (hpcl : φ.pcl = true) (hpwr : φ.pwr = true) (hmdl : φ.mdl = true) (hobs : φ.obs = true) (hout : φ.out = true) :
    (writeHist n s).erase φ = s.erase φ := by
  simp [writeHist, apply_ite (State.erase φ), hparts, hhbm]

@[simp] theorem ledgerComplete_erase (φ : Foot) (n : Nat) (s : State) (hpcl : φ.pcl = true) :
    (ledgerComplete n s).erase φ = s.erase φ := by
  simp [ledgerComplete]
  rw [forEach_erase]
  (try simp [apply_ite (State.erase φ), forEach_erase, foldl_erase, hpcl])
  intros
  (repeat' split) <;> simp_all

@[simp] theorem bucketDone_erase (φ : Foot) (n : Nat) (s : State) (hparts : φ.parts = true) (htiles : φ.tiles = true)
    (hlog : φ.log = true) (hhbm : φ.hbm = true) (hrepairs : φ.repairs = true) (hfills : φ.fills = true)
    (hhost : φ.host = true) (hpcl : φ.pcl = true) (hpwr : φ.pwr = true) (hmdl : φ.mdl = true) (hobs : φ.obs = true)
    (hout : φ.out = true) : (bucketDone n s).erase φ = s.erase φ := by
  simp only [bucketDone]
  (repeat' split) <;> simp_all

@[simp] theorem gatherDone_erase (φ : Foot) (n : Nat) (s : State) (hparts : φ.parts = true) (htiles : φ.tiles = true)
    (hlog : φ.log = true) (hhbm : φ.hbm = true) (hrepairs : φ.repairs = true) (hfills : φ.fills = true)
    (hhost : φ.host = true) (hpcl : φ.pcl = true) (hpwr : φ.pwr = true) (hmdl : φ.mdl = true) (hobs : φ.obs = true)
    (hout : φ.out = true) : (gatherDone n s).erase φ = s.erase φ := by
  simp [gatherDone, apply_ite (State.erase φ), hparts, htiles, hlog, hhbm, hrepairs, hfills, hhost, hpcl, hpwr, hmdl, hobs,
      hout]

@[simp] theorem gatherStart_erase (φ : Foot) (n : Nat) (s : State) (hparts : φ.parts = true) (htiles : φ.tiles = true)
    (hlog : φ.log = true) (hhbm : φ.hbm = true) (hrepairs : φ.repairs = true) (hfills : φ.fills = true)
    (hhost : φ.host = true) (hpcl : φ.pcl = true) (hpwr : φ.pwr = true) (hmdl : φ.mdl = true) (hobs : φ.obs = true)
    (hout : φ.out = true) : (gatherStart n s).erase φ = s.erase φ := by
  unfold gatherStart
  simp only [gatherDone_erase, State_modBucket_erase, hparts, htiles, hlog, hhbm, hrepairs, hfills, hhost, hpcl, hpwr, hmdl,
      hobs, hout]
  apply forEach_erase
  intro dir s
  simp only [State_modBucket_erase, hpcl]
  (repeat' split) <;> try simp [hpcl, hout]
  all_goals
    apply foldl_erase
    intros
    apply foldl_erase
    intros
    split <;> simp [hparts, htiles]

@[simp] theorem treeAdd_erase (φ : Foot) (n key j : Nat) (ws : List Word) (s : State) (hpcl : φ.pcl = true) :
    (treeAdd n key j ws s).erase φ = s.erase φ := by
  simp [treeAdd, hpcl]

@[simp] theorem treeDone_erase (φ : Foot) (n : Nat) (s : State) (hparts : φ.parts = true) (htiles : φ.tiles = true)
    (hlog : φ.log = true) (hhbm : φ.hbm = true) (hrepairs : φ.repairs = true) (hfills : φ.fills = true)
    (hhost : φ.host = true) (hpcl : φ.pcl = true) (hpwr : φ.pwr = true) (hmdl : φ.mdl = true) (hobs : φ.obs = true)
    (hout : φ.out = true) : (treeDone n s).erase φ = s.erase φ := by
  simp [treeDone, apply_ite (State.erase φ), hparts, htiles, hlog, hhbm, hrepairs, hfills, hhost, hpcl, hpwr, hmdl, hobs, hout]

/-- The operations of a bucket, which call one another. -/
theorem exchange_erase (φ : Foot) (k : Nat) (hfree : φ.free = true) (hparts : φ.parts = true) (htiles : φ.tiles = true) (hlog : φ.log = true) (hhbm : φ.hbm = true)
    (hrepairs : φ.repairs = true) (hfills : φ.fills = true) (hhost : φ.host = true) (hpcl : φ.pcl = true) (hpwr : φ.pwr = true)
    (hmdl : φ.mdl = true) (hobs : φ.obs = true) (hout : φ.out = true) :
    (∀ n s, (nextAttempt n k s).erase φ = s.erase φ) ∧
    (∀ n s, (ringDecide n k s).erase φ = s.erase φ) ∧
    (∀ n s, (ringCheck n k s).erase φ = s.erase φ) ∧
    (∀ n d c i j b v s, (ringOut n d c i j b v k s).erase φ = s.erase φ) ∧
    (∀ n q t f s, (mergeFrame n q t f k s).erase φ = s.erase φ) ∧
    (∀ n d s, (startRing n d k s).erase φ = s.erase φ) ∧
    (∀ n s, (treePump n k s).erase φ = s.erase φ) ∧
    (∀ n s, (rootDecide n k s).erase φ = s.erase φ) ∧
    (∀ n s, (startLocal n k s).erase φ = s.erase φ) ∧
    (∀ n q t f s, (onContrib n q t f k s).erase φ = s.erase φ) ∧
    (∀ n q f s, (onTrailer n q f k s).erase φ = s.erase φ) ∧
    (∀ n s, (retryHeld n k s).erase φ = s.erase φ) ∧
    (∀ n s, (windowClose n k s).erase φ = s.erase φ) ∧
    (∀ n t s, (windowDue n t k s).erase φ = s.erase φ) := by
  induction k with
  | zero => refine ⟨?_, ?_, ?_, ?_, ?_, ?_, ?_, ?_, ?_, ?_, ?_, ?_, ?_, ?_⟩ <;> intros <;> rfl
  | succ k ih =>
    obtain ⟨h1, h2, h3, h4, h5, h6, h7, h8, h9, h10, h11, h12, h13, h14⟩ := ih
    refine ⟨?_, ?_, ?_, ?_, ?_, ?_, ?_, ?_, ?_, ?_, ?_, ?_, ?_, ?_⟩
    · intro n s; simp [nextAttempt, h12, h9, hpcl]
    · intro n s; unfold ringDecide; dsimp only; (repeat' split) <;> simp [h1, hparts, htiles, hlog, hhbm, hrepairs, hfills,
        hhost, hpcl, hpwr, hmdl, hobs, hout]
    · intro n s; unfold ringCheck; dsimp only; (repeat' split) <;> simp [h2, forEach_erase, hpcl, hout]
    · intro n d c i j b v s; unfold ringOut; dsimp only; (repeat' split) <;> simp [h3, foldl_erase, hparts, htiles, hpcl, hout]
    · intro n q t f s
      unfold mergeFrame
      extract_lets b dir c' c h i0 zeros blocks vals js last free sums
      have hf : ∀ s, (free s).erase φ = s.erase φ := by intro s; simp only [free]; split <;> simp [hpcl]
      clear_value free
      (repeat' split) <;> simp [h4, hf, hpcl, hout]
    · intro n d s; unfold startRing; dsimp only; (repeat' split) <;> simp [h4, hpcl, hout]
    · intro n s; unfold treePump; dsimp only; (repeat' split) <;> simp [h8, hpcl, hout]
    · intro n s
      unfold rootDecide
      extract_lets b kids r1 r2 tot s1 fails pay s2 s3 val bytes own s4 s5
      have e1 : s1.erase φ = s.erase φ := by simp only [s1]; split <;> simp [r2, r1, hfree]
      have e2 : s2.erase φ = s1.erase φ := by apply forEach_erase; intros; simp [hpcl, hout]
      have e3 : s3.erase φ = s2.erase φ := by simp [s3, hpcl]
      have e4 : s4.erase φ = s3.erase φ := by apply forEach_erase; intros; split <;> simp [hparts, htiles, hpcl]
      have e5 : s5.erase φ = s4.erase φ := by
        apply forEach_erase; intros; split
        · simp [hpcl, hout]
        · apply forEach_erase; intros; simp [hpcl, hout]
      clear_value s1 s2 s3 s4 s5
      split <;> simp [h1, e5, e4, e3, e2, e1, hparts, htiles, hlog, hhbm, hrepairs, hfills, hhost, hpcl, hpwr, hmdl, hobs, hout]
    · intro n s; unfold startLocal; dsimp only; (repeat' split) <;> simp [h7, h6, forEach_erase, hpcl]
    · intro n q t f s
      unfold onContrib
      extract_lets s1 b s2 tree dir c key whole h nb s3 s4 first vals s6
      have e2 : s2.erase φ = s.erase φ := by simp [s2, s1, h14, hpcl]
      have e4 : s4.erase φ = s.erase φ := by simp only [s4]; split <;> simp [s3, e2, hpcl]
      have e6 : s6.erase φ = s.erase φ := by simp [s6, forEach_erase, e4, hpcl]
      clear_value s6 s4
      (repeat' split) <;> simp [h5, h7, h14, s1, e6, e4, hpcl]
    · intro n q f s; unfold onTrailer; dsimp only; (repeat' split) <;> simp [h1, h2, forEach_erase, hparts, htiles, hlog,
        hhbm, hrepairs, hfills, hhost, hpcl, hpwr, hmdl, hobs, hout]
    · intro n s
      unfold retryHeld
      dsimp only
      rw [forEach_erase]
      · simp [hpcl]
      · intros; (repeat' split) <;> simp [h10, h11, h5]
    · intro n s
      unfold windowClose
      extract_lets b s1 localLate s2 backed s3 s4
      have e2 : s2.erase φ = s.erase φ := by simp only [s2, s1]; split <;> simp [hpcl]
      have e3 : s3.erase φ = s.erase φ := by simp [s3, h12, h9, e2]
      have e4 : s4.erase φ = s.erase φ := by
        simp only [s4]
        split
        · rw [forEach_erase, e3]
          intros
          simp [hpcl]
        · rw [forEach_erase, e3]
          intros
          rw [forEach_erase]
          intros
          split <;> simp [h5, hpcl]
      clear_value s4
      split <;> simp [h7, e4]
    · intro n t s; unfold windowDue; dsimp only; (repeat' split) <;> simp [h13]

@[simp] theorem startRing_erase (φ : Foot) (n : Nat) (d : Nat) (k : Nat) (s : State)
    (hfree : φ.free = true) (hparts : φ.parts = true) (htiles : φ.tiles = true) (hlog : φ.log = true) (hhbm : φ.hbm = true)
    (hrepairs : φ.repairs = true) (hfills : φ.fills = true) (hhost : φ.host = true) (hpcl : φ.pcl = true) (hpwr : φ.pwr = true)
    (hmdl : φ.mdl = true) (hobs : φ.obs = true) (hout : φ.out = true) :
    (startRing n d k s).erase φ = s.erase φ :=
  (exchange_erase φ k hfree hparts htiles hlog hhbm hrepairs hfills hhost hpcl hpwr hmdl hobs hout).2.2.2.2.2.1 n d s

@[simp] theorem treePump_erase (φ : Foot) (n : Nat) (k : Nat) (s : State)
    (hfree : φ.free = true) (hparts : φ.parts = true) (htiles : φ.tiles = true) (hlog : φ.log = true) (hhbm : φ.hbm = true)
    (hrepairs : φ.repairs = true) (hfills : φ.fills = true) (hhost : φ.host = true) (hpcl : φ.pcl = true) (hpwr : φ.pwr = true)
    (hmdl : φ.mdl = true) (hobs : φ.obs = true) (hout : φ.out = true) :
    (treePump n k s).erase φ = s.erase φ :=
  (exchange_erase φ k hfree hparts htiles hlog hhbm hrepairs hfills hhost hpcl hpwr hmdl hobs hout).2.2.2.2.2.2.1 n s

@[simp] theorem startLocal_erase (φ : Foot) (n : Nat) (k : Nat) (s : State)
    (hfree : φ.free = true) (hparts : φ.parts = true) (htiles : φ.tiles = true) (hlog : φ.log = true) (hhbm : φ.hbm = true)
    (hrepairs : φ.repairs = true) (hfills : φ.fills = true) (hhost : φ.host = true) (hpcl : φ.pcl = true) (hpwr : φ.pwr = true)
    (hmdl : φ.mdl = true) (hobs : φ.obs = true) (hout : φ.out = true) :
    (startLocal n k s).erase φ = s.erase φ :=
  (exchange_erase φ k hfree hparts htiles hlog hhbm hrepairs hfills hhost hpcl hpwr hmdl hobs hout).2.2.2.2.2.2.2.2.1 n s

@[simp] theorem onContrib_erase (φ : Foot) (n : Nat) (q : Nat) (t : Nat) (f : Frame) (k : Nat) (s : State)
    (hfree : φ.free = true) (hparts : φ.parts = true) (htiles : φ.tiles = true) (hlog : φ.log = true) (hhbm : φ.hbm = true)
    (hrepairs : φ.repairs = true) (hfills : φ.fills = true) (hhost : φ.host = true) (hpcl : φ.pcl = true) (hpwr : φ.pwr = true)
    (hmdl : φ.mdl = true) (hobs : φ.obs = true) (hout : φ.out = true) :
    (onContrib n q t f k s).erase φ = s.erase φ :=
  (exchange_erase φ k hfree hparts htiles hlog hhbm hrepairs hfills hhost hpcl hpwr hmdl hobs hout).2.2.2.2.2.2.2.2.2.1 n q t f s

@[simp] theorem onTrailer_erase (φ : Foot) (n : Nat) (q : Nat) (f : Frame) (k : Nat) (s : State)
    (hfree : φ.free = true) (hparts : φ.parts = true) (htiles : φ.tiles = true) (hlog : φ.log = true) (hhbm : φ.hbm = true)
    (hrepairs : φ.repairs = true) (hfills : φ.fills = true) (hhost : φ.host = true) (hpcl : φ.pcl = true) (hpwr : φ.pwr = true)
    (hmdl : φ.mdl = true) (hobs : φ.obs = true) (hout : φ.out = true) :
    (onTrailer n q f k s).erase φ = s.erase φ :=
  (exchange_erase φ k hfree hparts htiles hlog hhbm hrepairs hfills hhost hpcl hpwr hmdl hobs hout).2.2.2.2.2.2.2.2.2.2.1 n q f s

@[simp] theorem retryHeld_erase (φ : Foot) (n : Nat) (k : Nat) (s : State)
    (hfree : φ.free = true) (hparts : φ.parts = true) (htiles : φ.tiles = true) (hlog : φ.log = true) (hhbm : φ.hbm = true)
    (hrepairs : φ.repairs = true) (hfills : φ.fills = true) (hhost : φ.host = true) (hpcl : φ.pcl = true) (hpwr : φ.pwr = true)
    (hmdl : φ.mdl = true) (hobs : φ.obs = true) (hout : φ.out = true) :
    (retryHeld n k s).erase φ = s.erase φ :=
  (exchange_erase φ k hfree hparts htiles hlog hhbm hrepairs hfills hhost hpcl hpwr hmdl hobs hout).2.2.2.2.2.2.2.2.2.2.2.1 n s

@[simp] theorem windowClose_erase (φ : Foot) (n : Nat) (k : Nat) (s : State)
    (hfree : φ.free = true) (hparts : φ.parts = true) (htiles : φ.tiles = true) (hlog : φ.log = true) (hhbm : φ.hbm = true)
    (hrepairs : φ.repairs = true) (hfills : φ.fills = true) (hhost : φ.host = true) (hpcl : φ.pcl = true) (hpwr : φ.pwr = true)
    (hmdl : φ.mdl = true) (hobs : φ.obs = true) (hout : φ.out = true) :
    (windowClose n k s).erase φ = s.erase φ :=
  (exchange_erase φ k hfree hparts htiles hlog hhbm hrepairs hfills hhost hpcl hpwr hmdl hobs hout).2.2.2.2.2.2.2.2.2.2.2.2.1 n s

@[simp] theorem windowDue_erase (φ : Foot) (n : Nat) (t : Nat) (k : Nat) (s : State)
    (hfree : φ.free = true) (hparts : φ.parts = true) (htiles : φ.tiles = true) (hlog : φ.log = true) (hhbm : φ.hbm = true)
    (hrepairs : φ.repairs = true) (hfills : φ.fills = true) (hhost : φ.host = true) (hpcl : φ.pcl = true) (hpwr : φ.pwr = true)
    (hmdl : φ.mdl = true) (hobs : φ.obs = true) (hout : φ.out = true) :
    (windowDue n t k s).erase φ = s.erase φ :=
  (exchange_erase φ k hfree hparts htiles hlog hhbm hrepairs hfills hhost hpcl hpwr hmdl hobs hout).2.2.2.2.2.2.2.2.2.2.2.2.2 n t s

@[simp] theorem xdescUse_erase (φ : Foot) (p d : Nat) (s : State) (hparts : φ.parts = true) :
    (xdescUse p d s).erase φ = s.erase φ := by
  simp [xdescUse, apply_ite (State.erase φ), forEach_erase, hparts]

@[simp] theorem placeScale_erase (φ : Foot) (n j : Nat) (v : Byte) (s : State) (hparts : φ.parts = true)
    (htiles : φ.tiles = true) (hpcl : φ.pcl = true) : (placeScale n j v s).erase φ = s.erase φ := by
  simp [placeScale, hparts, htiles, hpcl]

@[simp] theorem openScales_erase (φ : Foot) (n : Nat) (s : State) (hparts : φ.parts = true) (htiles : φ.tiles = true)
    (hlog : φ.log = true) (hhbm : φ.hbm = true) (hrepairs : φ.repairs = true) (hfills : φ.fills = true)
    (hhost : φ.host = true) (hpcl : φ.pcl = true) (hpwr : φ.pwr = true) (hmdl : φ.mdl = true) (hobs : φ.obs = true)
    (hout : φ.out = true) : (openScales n s).erase φ = s.erase φ := by
  simp (maxDischargeDepth := 6) [openScales, apply_ite (State.erase φ), forEach_erase, foldl_erase, hparts, htiles, hlog,
      hfills, hhost, hpcl, hpwr, hobs, hout]

@[simp] theorem sendBready_erase (φ : Foot) (n : Nat) (f : Nat → Bool) (s : State) (hpcl : φ.pcl = true) (hout : φ.out = true)
    : (sendBready n f s).erase φ = s.erase φ := by
  simp [sendBready, forEach_erase, hpcl, hout]

@[simp] theorem sendBytes_erase (φ : Foot) (n : Nat) (f : Frame) (s : State) (hparts : φ.parts = true)
    (htiles : φ.tiles = true) (hlog : φ.log = true) (hhbm : φ.hbm = true) (hrepairs : φ.repairs = true)
    (hfills : φ.fills = true) (hhost : φ.host = true) (hpcl : φ.pcl = true) (hpwr : φ.pwr = true) (hmdl : φ.mdl = true)
    (hobs : φ.obs = true) (hout : φ.out = true) : (sendBytes n f s).erase φ = s.erase φ := by
  simp [sendBytes, apply_ite (State.erase φ), foldl_erase, hparts, htiles, hlog, hhbm, hrepairs, hfills, hhost, hpcl, hpwr,
      hmdl, hobs, hout]

@[simp] theorem openBucket_erase (φ : Foot) (p n : Nat) (sl : XchSlot) (desc : List Nat) (s : State) (hparts : φ.parts = true)
    (htiles : φ.tiles = true) (hlog : φ.log = true) (hhbm : φ.hbm = true) (hrepairs : φ.repairs = true)
    (hfills : φ.fills = true) (hhost : φ.host = true) (hpcl : φ.pcl = true) (hpwr : φ.pwr = true) (hmdl : φ.mdl = true)
    (hobs : φ.obs = true) (hout : φ.out = true) : (openBucket p n sl desc s).erase φ = s.erase φ := by
  simp [openBucket, apply_ite (State.erase φ), forEach_erase, hparts, htiles, hlog, hhbm, hrepairs, hfills, hhost, hpcl,
      hpwr, hmdl, hobs, hout]

@[simp] theorem contribBucket_erase (φ : Foot) (p n : Nat) (sl : XchSlot) (s : State) (hfree : φ.free = true)
    (hparts : φ.parts = true) (htiles : φ.tiles = true) (hlog : φ.log = true) (hhbm : φ.hbm = true)
    (hrepairs : φ.repairs = true) (hfills : φ.fills = true) (hhost : φ.host = true) (hpcl : φ.pcl = true)
    (hpwr : φ.pwr = true) (hmdl : φ.mdl = true) (hobs : φ.obs = true) (hout : φ.out = true) :
    (contribBucket p n sl s).erase φ = s.erase φ := by
  unfold contribBucket
  extract_lets s1 b s2 h s3 s4
  have h1 : s1.erase φ = s.erase φ := by simp [s1, hfree, hparts, htiles, hlog, hhbm, hrepairs, hfills, hhost, hpcl, hpwr,
      hmdl, hobs, hout]
  have h2 : s2.erase φ = s.erase φ := by simp [s2, h1, hpcl]
  have h3 : s3.erase φ = s.erase φ := by
    simp only [s3]
    clear_value h
    cases h with
    | none => exact h2
    | some h => dsimp only; split <;> simp [h2, hparts, hlog, hfills, hhost, hpcl, hpwr, hobs, hout]
  have h4 : s4.erase φ = s.erase φ := by simp [s4, h3, hpcl]
  clear_value s1 s2 s3 s4
  (repeat' split) <;> simp_all

@[simp] theorem gatherSpread_erase (φ : Foot) (n from_ : Nat) (send : Nat → State → State) (s : State)
    (hsend : ∀ a0 s, (send a0 s).erase φ = s.erase φ) : (gatherSpread n from_ send s).erase φ = s.erase φ := by
  simp [gatherSpread, forEach_erase, hsend]

@[simp] theorem treeGather_erase (φ : Foot) (n : Nat) (s : State) (hparts : φ.parts = true) (htiles : φ.tiles = true)
    (hlog : φ.log = true) (hhbm : φ.hbm = true) (hrepairs : φ.repairs = true) (hfills : φ.fills = true)
    (hhost : φ.host = true) (hpcl : φ.pcl = true) (hpwr : φ.pwr = true) (hmdl : φ.mdl = true) (hobs : φ.obs = true)
    (hout : φ.out = true) : (treeGather n s).erase φ = s.erase φ := by
  simp (maxDischargeDepth := 6) [treeGather, apply_ite (State.erase φ), foldl_erase, hparts, htiles, hlog, hhbm, hrepairs,
      hfills, hhost, hpcl, hpwr, hmdl, hobs, hout]

@[simp] theorem sendBucket_erase (φ : Foot) (n : Nat) (data : List (List Byte)) (s : State) (hpcl : φ.pcl = true)
    (hout : φ.out = true) : (sendBucket n data s).erase φ = s.erase φ := by
  simp [sendBucket, apply_ite (State.erase φ), forEach_erase, hpcl, hout]

@[simp] theorem sendsAcked_erase (φ : Foot) (s : State) (hparts : φ.parts = true) (htiles : φ.tiles = true)
    (hlog : φ.log = true) (hhbm : φ.hbm = true) (hrepairs : φ.repairs = true) (hfills : φ.fills = true)
    (hhost : φ.host = true) (hpcl : φ.pcl = true) (hpwr : φ.pwr = true) (hmdl : φ.mdl = true) (hobs : φ.obs = true)
    (hout : φ.out = true) : (sendsAcked s).erase φ = s.erase φ := by
  simp [sendsAcked, apply_ite (State.erase φ), forEach_erase, hparts, htiles, hlog, hhbm, hrepairs, hfills, hhost, hpcl,
      hpwr, hmdl, hobs, hout]

@[simp] theorem xchAct_erase (φ : Foot) (p : Nat) (sl : XchSlot) (data : List (List Byte)) (s : State) (hfree : φ.free = true)
    (hparts : φ.parts = true) (htiles : φ.tiles = true) (hlog : φ.log = true) (hhbm : φ.hbm = true)
    (hrepairs : φ.repairs = true) (hfills : φ.fills = true) (hhost : φ.host = true) (hpcl : φ.pcl = true)
    (hpwr : φ.pwr = true) (hmdl : φ.mdl = true) (hobs : φ.obs = true) (hout : φ.out = true) :
    (xchAct p sl data s).erase φ = s.erase φ := by
  simp [xchAct, apply_ite (State.erase φ), hfree, hparts, htiles, hlog, hhbm, hrepairs, hfills, hhost, hpcl, hpwr, hmdl,
      hobs, hout]

@[simp] theorem xchEffect_erase (φ : Foot) (p : Nat) (sl : XchSlot) (data : List (List Byte)) (s : State)
    (hfree : φ.free = true) (hparts : φ.parts = true) (htiles : φ.tiles = true) (hlog : φ.log = true) (hhbm : φ.hbm = true)
    (hrepairs : φ.repairs = true) (hfills : φ.fills = true) (hhost : φ.host = true) (hpcl : φ.pcl = true)
    (hpwr : φ.pwr = true) (hmdl : φ.mdl = true) (hobs : φ.obs = true) (hout : φ.out = true) :
    (xchEffect p sl data s).erase φ = s.erase φ := by
  simp [xchEffect, apply_ite (State.erase φ), hfree, hparts, htiles, hlog, hhbm, hrepairs, hfills, hhost, hpcl, hpwr, hmdl,
      hobs, hout]

@[simp] theorem xchSlot_erase (φ : Foot) (p : Nat) (sl : XchSlot) (s : State) (hfree : φ.free = true)
    (hparts : φ.parts = true) (htiles : φ.tiles = true) (hlog : φ.log = true) (hhbm : φ.hbm = true)
    (hrepairs : φ.repairs = true) (hfills : φ.fills = true) (hhost : φ.host = true) (hpcl : φ.pcl = true)
    (hpwr : φ.pwr = true) (hmdl : φ.mdl = true) (hobs : φ.obs = true) (hout : φ.out = true) :
    (xchSlot p sl s).erase φ = s.erase φ := by
  simp [xchSlot, apply_ite (State.erase φ), hfree, hparts, htiles, hlog, hhbm, hrepairs, hfills, hhost, hpcl, hpwr, hmdl,
      hobs, hout]

@[simp] theorem lateContrib_erase (φ : Foot) (n h q : Nat) (f : Frame) (s : State) (hparts : φ.parts = true)
    (hlog : φ.log = true) (hhbm : φ.hbm = true) (hrepairs : φ.repairs = true) (hfills : φ.fills = true)
    (hhost : φ.host = true) (hpcl : φ.pcl = true) (hpwr : φ.pwr = true) (hmdl : φ.mdl = true) (hobs : φ.obs = true)
    (hout : φ.out = true) : (lateContrib n h q f s).erase φ = s.erase φ := by
  unfold lateContrib
  split <;> simp [apply_ite (State.erase φ), hparts, hlog, hhbm, hrepairs, hfills, hhost, hpcl, hpwr, hmdl, hobs, hout]

@[simp] theorem rxBucket_erase (φ : Foot) (q typ : Nat) (f : Frame) (act : Nat → Nat → State → State) (s : State)
    (hact : ∀ a0 a1 s, (act a0 a1 s).erase φ = s.erase φ) (hparts : φ.parts = true) (hlog : φ.log = true)
    (hhbm : φ.hbm = true) (hrepairs : φ.repairs = true) (hfills : φ.fills = true) (hhost : φ.host = true)
    (hpcl : φ.pcl = true) (hpwr : φ.pwr = true) (hmdl : φ.mdl = true) (hobs : φ.obs = true) (hout : φ.out = true) :
    (rxBucket q typ f act s).erase φ = s.erase φ := by
  simp only [rxBucket]
  (repeat' split) <;> simp_all

@[simp] theorem rxOpen_erase (φ : Foot) (q : Nat) (f : Frame) (s : State) (hfree : φ.free = true) (hparts : φ.parts = true)
    (htiles : φ.tiles = true) (hlog : φ.log = true) (hhbm : φ.hbm = true) (hrepairs : φ.repairs = true)
    (hfills : φ.fills = true) (hhost : φ.host = true) (hpcl : φ.pcl = true) (hpwr : φ.pwr = true) (hmdl : φ.mdl = true)
    (hobs : φ.obs = true) (hout : φ.out = true) : (rxOpen q f s).erase φ = s.erase φ := by
  simp (maxDischargeDepth := 6) [rxOpen, apply_ite (State.erase φ), forEach_erase, foldl_erase, hfree, hparts, htiles, hlog,
      hhbm, hrepairs, hfills, hhost, hpcl, hpwr, hmdl, hobs, hout]

@[simp] theorem rxGather_erase (φ : Foot) (q : Nat) (f : Frame) (s : State) (hparts : φ.parts = true)
    (htiles : φ.tiles = true) (hlog : φ.log = true) (hhbm : φ.hbm = true) (hrepairs : φ.repairs = true)
    (hfills : φ.fills = true) (hhost : φ.host = true) (hpcl : φ.pcl = true) (hpwr : φ.pwr = true) (hmdl : φ.mdl = true)
    (hobs : φ.obs = true) (hout : φ.out = true) : (rxGather q f s).erase φ = s.erase φ := by
  unfold rxGather
  refine rxBucket_erase φ q tGather f _ s ?_ hparts hlog hhbm hrepairs hfills hhost hpcl hpwr hmdl hobs hout
  intro n _ s
  extract_lets b tree dir c h base room bl own s1 s2 s3 s4 s5 rank s6 s7 s8
  have h1 : s1.erase φ = s.erase φ := by simp [s1, hpcl]
  have h2 : s2.erase φ = s1.erase φ := by simp [s2, hpcl]
  have h3 : s3.erase φ = s2.erase φ := by
    apply foldl_erase
    intros
    apply foldl_erase
    intros
    simp [apply_ite (State.erase φ), hparts, htiles, hpcl]
  clear_value s1 s2 s3
  have h4 : s4.erase φ = s3.erase φ := by simp [s4, hpcl]
  have h5 : s5.erase φ = s4.erase φ := by apply forEach_erase; intros; simp [hpcl, hout]
  have h6 : s6.erase φ = s4.erase φ := by apply forEach_erase; intros; simp [hpcl, hout]
  have h7 : s7.erase φ = s3.erase φ := by simp [s7, hpcl]
  have h8 : s8.erase φ = s7.erase φ := by simp only [s8]; split <;> simp [hpcl, hout]
  clear_value s4 s5 s6 s7 s8
  simp only [apply_ite (State.erase φ)]
  simp [h8, h7, h6, h5, h4, h3, h2, h1, hparts, htiles, hlog, hhbm, hrepairs, hfills, hhost, hpcl, hpwr, hmdl, hobs, hout]

@[simp] theorem rxSend_erase (φ : Foot) (q : Nat) (f : Frame) (s : State) (hparts : φ.parts = true) (htiles : φ.tiles = true)
    (hlog : φ.log = true) (hhbm : φ.hbm = true) (hrepairs : φ.repairs = true) (hfills : φ.fills = true)
    (hhost : φ.host = true) (hpcl : φ.pcl = true) (hpwr : φ.pwr = true) (hmdl : φ.mdl = true) (hobs : φ.obs = true)
    (hout : φ.out = true) : (rxSend q f s).erase φ = s.erase φ := by
  simp only [rxSend]
  (repeat' split) <;> simp_all

@[simp] theorem rxBready_erase (φ : Foot) (q tag job step : Nat) (s : State) (hpcl : φ.pcl = true) (hpwr : φ.pwr = true)
    (hout : φ.out = true) : (rxBready q tag job step s).erase φ = s.erase φ := by
  simp (maxDischargeDepth := 6) [rxBready, apply_ite (State.erase φ), forEach_erase, hpcl, hpwr, hout]

@[simp] theorem ledgerCopied_erase (φ : Foot) (p n : Nat) (s : State) (hfree : φ.free = true) (hparts : φ.parts = true)
    (htiles : φ.tiles = true) (hlog : φ.log = true) (hhbm : φ.hbm = true) (hrepairs : φ.repairs = true)
    (hfills : φ.fills = true) (hhost : φ.host = true) (hpcl : φ.pcl = true) (hpwr : φ.pwr = true) (hmdl : φ.mdl = true)
    (hobs : φ.obs = true) (hout : φ.out = true) : (ledgerCopied p n s).erase φ = s.erase φ := by
  simp [ledgerCopied, apply_ite (State.erase φ), forEach_erase, hfree, hparts, htiles, hlog, hhbm, hrepairs, hfills, hhost,
      hpcl, hpwr, hmdl, hobs, hout]

@[simp] theorem afterAck_erase (φ : Foot) (s : State) (hparts : φ.parts = true) (htiles : φ.tiles = true)
    (hlog : φ.log = true) (hhbm : φ.hbm = true) (hrepairs : φ.repairs = true) (hfills : φ.fills = true)
    (hhost : φ.host = true) (hpcl : φ.pcl = true) (hpwr : φ.pwr = true) (hmdl : φ.mdl = true) (hobs : φ.obs = true)
    (hout : φ.out = true) : (afterAck s).erase φ = s.erase φ := by
  simp [afterAck, hparts, htiles, hlog, hhbm, hrepairs, hfills, hhost, hpcl, hpwr, hmdl, hobs, hout]

end Sys2Proof.Machine
end

