-- ==== Sys2Proof/Laws/EraseIssue.lean ====
section
/-!
SUPPORT. What issue and the host queues may change: a state with those parts blanked is the same before and after.
-/

namespace Sys2Proof.Machine

@[simp] theorem slotsOnce_erase (φ : Foot) (p : Nat) (b : Bundle) (skip : Option SReg) (s : State) (hfree : φ.free = true)
    (hparts : φ.parts = true) (htiles : φ.tiles = true) (hlog : φ.log = true) (hhbm : φ.hbm = true)
    (hrepairs : φ.repairs = true) (hfills : φ.fills = true) (hhost : φ.host = true) (hpcl : φ.pcl = true)
    (hpwr : φ.pwr = true) (hmdl : φ.mdl = true) (hobs : φ.obs = true) (hout : φ.out = true) :
    (slotsOnce p b skip s).erase φ = s.erase φ := by
  simp [slotsOnce, apply_ite (State.erase φ), hfree, hparts, htiles, hlog, hhbm, hrepairs, hfills, hhost, hpcl, hpwr, hmdl,
      hobs, hout]

@[simp] theorem slotsCycle_erase (φ : Foot) (p : Nat) (b : Bundle) (sc : Nat → DWord) (k H : Nat) (s : State)
    (hfree : φ.free = true) (hparts : φ.parts = true) (htiles : φ.tiles = true) (hlog : φ.log = true)
    (hfills : φ.fills = true) (hhost : φ.host = true) (hpcl : φ.pcl = true) (hpwr : φ.pwr = true) (hobs : φ.obs = true)
    (hout : φ.out = true) : (slotsCycle p b sc k H s).erase φ = s.erase φ := by
  simp [slotsCycle, forEach_erase, hfree, hparts, htiles, hlog, hfills, hhost, hpcl, hpwr, hobs, hout]

@[simp] theorem runSlots_erase (φ : Foot) (p : Nat) (b : Bundle) (skip : Option SReg) (s : State) (hfree : φ.free = true)
    (hparts : φ.parts = true) (htiles : φ.tiles = true) (hlog : φ.log = true) (hhbm : φ.hbm = true)
    (hrepairs : φ.repairs = true) (hfills : φ.fills = true) (hhost : φ.host = true) (hpcl : φ.pcl = true)
    (hpwr : φ.pwr = true) (hmdl : φ.mdl = true) (hobs : φ.obs = true) (hout : φ.out = true) :
    (runSlots p b skip s).erase φ = s.erase φ := by
  simp [runSlots, apply_ite (State.erase φ), forEach_erase, hfree, hparts, htiles, hlog, hhbm, hrepairs, hfills, hhost, hpcl,
      hpwr, hmdl, hobs, hout]

@[simp] theorem runBundle_erase (φ : Foot) (p : Nat) (b : Bundle) (s : State) (hfree : φ.free = true)
    (hparts : φ.parts = true) (htiles : φ.tiles = true) (hlog : φ.log = true) (hhbm : φ.hbm = true)
    (hrepairs : φ.repairs = true) (hfills : φ.fills = true) (hhost : φ.host = true) (hpcl : φ.pcl = true)
    (hpwr : φ.pwr = true) (hmdl : φ.mdl = true) (hobs : φ.obs = true) (hout : φ.out = true) :
    (runBundle p b s).erase φ = s.erase φ := by
  simp only [runBundle]
  (repeat' split) <;> simp_all [forEach_erase]

@[simp] theorem chargeAhead_erase (φ : Foot) (p : Nat) (b : Bundle) (s : State) (hparts : φ.parts = true) :
    (chargeAhead p b s).erase φ = s.erase φ := by
  simp [chargeAhead, hparts]

@[simp] theorem popStep_erase (φ : Foot) (p q : Nat) (st : Step) (s : State) (hparts : φ.parts = true) :
    (popStep p q st s).erase φ = s.erase φ := by
  simp [popStep, hparts]

@[simp] theorem dropStep_erase (φ : Foot) (p q : Nat) (st : Step) (s : State) (hparts : φ.parts = true) :
    (dropStep p q st s).erase φ = s.erase φ := by
  simp [dropStep, hparts]

@[simp] theorem stepStale_erase (φ : Foot) (p q : Nat) (st : Step) (s : State) (hparts : φ.parts = true)
    (hfills : φ.fills = true) (hhost : φ.host = true) (hpcl : φ.pcl = true) (hout : φ.out = true) :
    (stepStale p q st s).erase φ = s.erase φ := by
  simp [stepStale, hparts, hfills, hhost, hpcl, hout]

@[simp] theorem hostEvent_erase (φ : Foot) (p : Nat) (older : Bool) (l : List Nat) (s : State) (hparts : φ.parts = true)
    (hfills : φ.fills = true) (hhost : φ.host = true) (hpcl : φ.pcl = true) (hout : φ.out = true) :
    (hostEvent p older l s).2.erase φ = s.erase φ := by
  induction l generalizing s with
  | nil => rfl
  | cons q l ih => unfold hostEvent; (repeat' split) <;> simp [ih, hparts, hfills, hhost, hpcl, hout]

@[simp] theorem deliver_erase (φ : Foot) (p q : Nat) (s : State) (hparts : φ.parts = true) (hfills : φ.fills = true)
    (hhost : φ.host = true) (hpcl : φ.pcl = true) (hout : φ.out = true) : (deliver p q s).erase φ = s.erase φ := by
  unfold deliver
  (repeat' split) <;> simp_all

@[simp] theorem takeBack_erase (φ : Foot) (p gate : Nat) (s : State) (hparts : φ.parts = true) (hfills : φ.fills = true)
    (hhost : φ.host = true) (hpcl : φ.pcl = true) (hout : φ.out = true) : (takeBack p gate s).erase φ = s.erase φ := by
  simp [takeBack, apply_ite (State.erase φ), forEach_erase, hparts, hfills, hhost, hpcl, hout]

@[simp] theorem fillEvent_erase (φ : Foot) (p : Nat) (s : State) (hparts : φ.parts = true) :
    (fillEvent p s).2.erase φ = s.erase φ := by
  simp only [fillEvent]
  (repeat' split) <;> simp_all [forEach_erase]

@[simp] theorem gateEvent_erase (φ : Foot) (p : Nat) (cls : BitVec 4) (sel : Byte) (id : Nat) (s : State)
    (hparts : φ.parts = true) (hfills : φ.fills = true) (hhost : φ.host = true) (hpcl : φ.pcl = true) (hout : φ.out = true) :
    (gateEvent p cls sel id s).2.erase φ = s.erase φ := by
  simp only [gateEvent]
  (repeat' split) <;> simp_all

@[simp] theorem gateTake_erase (φ : Foot) (p : Nat) (cls : BitVec 4) (o : DWord) (s : State) (hparts : φ.parts = true)
    (hfills : φ.fills = true) (hhost : φ.host = true) (hpcl : φ.pcl = true) (hout : φ.out = true) :
    (gateTake p cls o s).erase φ = s.erase φ := by
  simp [gateTake, apply_ite (State.erase φ), hparts, hfills, hhost, hpcl, hout]

@[simp] theorem setGdst_erase (φ : Foot) (p : Nat) (d : SReg) (v : DWord) (s : State) (hparts : φ.parts = true) :
    (setGdst p d v s).erase φ = s.erase φ := by
  simp [setGdst, hparts]

@[simp] theorem issueOrHold_erase (φ : Foot) (p : Nat) (b : Bundle) (s : State) (hfree : φ.free = true)
    (hparts : φ.parts = true) (htiles : φ.tiles = true) (hlog : φ.log = true) (hhbm : φ.hbm = true)
    (hrepairs : φ.repairs = true) (hfills : φ.fills = true) (hhost : φ.host = true) (hpcl : φ.pcl = true)
    (hpwr : φ.pwr = true) (hmdl : φ.mdl = true) (hobs : φ.obs = true) (hout : φ.out = true) :
    (issueOrHold p b s).erase φ = s.erase φ := by
  simp [issueOrHold, apply_ite (State.erase φ), forEach_erase, hfree, hparts, htiles, hlog, hhbm, hrepairs, hfills, hhost,
      hpcl, hpwr, hmdl, hobs, hout]

@[simp] theorem releaseHeld_erase (φ : Foot) (p : Nat) (s : State) (hfree : φ.free = true) (hparts : φ.parts = true)
    (htiles : φ.tiles = true) (hlog : φ.log = true) (hhbm : φ.hbm = true) (hrepairs : φ.repairs = true)
    (hfills : φ.fills = true) (hhost : φ.host = true) (hpcl : φ.pcl = true) (hpwr : φ.pwr = true) (hmdl : φ.mdl = true)
    (hobs : φ.obs = true) (hout : φ.out = true) : (releaseHeld p s).erase φ = s.erase φ := by
  simp [releaseHeld, apply_ite (State.erase φ), hfree, hparts, htiles, hlog, hhbm, hrepairs, hfills, hhost, hpcl, hpwr, hmdl,
      hobs, hout]

@[simp] theorem restoreBare_erase (φ : Foot) (as : List Nat) (l : List (TileId × ArrId × Bool × Plane)) (s : State)
    (htiles : φ.tiles = true) : (restoreBare as l s).erase φ = s.erase φ := by
  simp [restoreBare, forEach_erase, htiles]

@[simp] theorem startAhead_erase (φ : Foot) (p : Nat) (b : Bundle) (s : State) (hparts : φ.parts = true) :
    (startAhead p b s).erase φ = s.erase φ := by
  simp [startAhead, hparts]

@[simp] theorem commitGate_erase (φ : Foot) (p : Nat) (g : Gate) (o : DWord) (s : State) (hparts : φ.parts = true)
    (htiles : φ.tiles = true) (hfills : φ.fills = true) (hhost : φ.host = true) (hpcl : φ.pcl = true) (hout : φ.out = true) :
    (commitGate p g o s).erase φ = s.erase φ := by
  simp [commitGate, apply_ite (State.erase φ), forEach_erase, hparts, htiles, hfills, hhost, hpcl, hout]

@[simp] theorem undoTo_erase (φ : Foot) (p : Nat) (g : Gate) (s : State) (hparts : φ.parts = true) (htiles : φ.tiles = true)
    (hfills : φ.fills = true) (hhost : φ.host = true) (hpcl : φ.pcl = true) (hout : φ.out = true) :
    (undoTo p g s).erase φ = s.erase φ := by
  unfold undoTo
  extract_lets q gone flips touched s1 s2 s3 s4 s5 s6 s7 s8 f
  have h2 : s2.erase φ = s1.erase φ := by apply forEach_erase; intros; split <;> simp [htiles]
  have h3 : s3.erase φ = s2.erase φ := by apply forEach_erase; intros; simp [hparts, htiles]
  have h : s8.erase φ = s.erase φ := by simp [s8, s7, s6, s5, s4, h3, h2, s1, hparts, htiles, hfills, hhost, hpcl, hout]
  clear_value s8
  rw [forEach_erase]
  · exact h
  · intros; (repeat' split) <;> simp [hparts]

@[simp] theorem mispredict_erase (φ : Foot) (p : Nat) (g : Gate) (o : DWord) (s : State) (hparts : φ.parts = true)
    (htiles : φ.tiles = true) (hfills : φ.fills = true) (hhost : φ.host = true) (hpcl : φ.pcl = true) (hout : φ.out = true) :
    (mispredict p g o s).erase φ = s.erase φ := by
  simp [mispredict, hparts, htiles, hfills, hhost, hpcl, hout]

@[simp] theorem recordYounger_erase (φ : Foot) (p : Nat) (s : State) (hparts : φ.parts = true) (hfills : φ.fills = true)
    (hhost : φ.host = true) (hpcl : φ.pcl = true) (hout : φ.out = true) : (recordYounger p s).erase φ = s.erase φ := by
  unfold recordYounger
  split <;> simp [apply_ite (State.erase φ), hparts, hfills, hhost, hpcl, hout]

@[simp] theorem resolveGates_erase (φ : Foot) (p n : Nat) (s : State) (hparts : φ.parts = true) (htiles : φ.tiles = true)
    (hfills : φ.fills = true) (hhost : φ.host = true) (hpcl : φ.pcl = true) (hout : φ.out = true) :
    (resolveGates p n s).erase φ = s.erase φ := by
  induction n generalizing s with
  | zero => rfl
  | succ n ih => 
    unfold resolveGates
    split
    · rfl
    · extract_lets r
      have hr : r.2.erase φ = s.erase φ := by simp only [r]; split <;> simp [hparts, hfills, hhost, hpcl, hout]
      clear_value r
      (repeat' split) <;> simp [ih, hr, hparts, htiles, hfills, hhost, hpcl, hout]

@[simp] theorem passGate_erase (φ : Foot) (p : Nat) (b : Bundle) (o : DWord) (s : State) (hfree : φ.free = true)
    (hparts : φ.parts = true) (htiles : φ.tiles = true) (hlog : φ.log = true) (hhbm : φ.hbm = true)
    (hrepairs : φ.repairs = true) (hfills : φ.fills = true) (hhost : φ.host = true) (hpcl : φ.pcl = true)
    (hpwr : φ.pwr = true) (hmdl : φ.mdl = true) (hobs : φ.obs = true) (hout : φ.out = true) :
    (passGate p b o s).erase φ = s.erase φ := by
  simp [passGate, apply_ite (State.erase φ), hfree, hparts, htiles, hlog, hhbm, hrepairs, hfills, hhost, hpcl, hpwr, hmdl,
      hobs, hout]

@[simp] theorem issueNext_erase (φ : Foot) (p : Nat) (s : State) (hfree : φ.free = true) (hparts : φ.parts = true)
    (htiles : φ.tiles = true) (hlog : φ.log = true) (hhbm : φ.hbm = true) (hrepairs : φ.repairs = true)
    (hfills : φ.fills = true) (hhost : φ.host = true) (hpcl : φ.pcl = true) (hpwr : φ.pwr = true) (hmdl : φ.mdl = true)
    (hobs : φ.obs = true) (hout : φ.out = true) : (issueNext p s).erase φ = s.erase φ := by
  simp only [issueNext]
  (repeat' split) <;> simp_all

@[simp] theorem evenCycle_erase (φ : Foot) (p : Nat) (s : State) (hparts : φ.parts = true) (htiles : φ.tiles = true)
    (hlog : φ.log = true) (hfills : φ.fills = true) (hhost : φ.host = true) (hpcl : φ.pcl = true) (hpwr : φ.pwr = true)
    (hobs : φ.obs = true) (hout : φ.out = true) : (evenCycle p s).erase φ = s.erase φ := by
  simp [evenCycle, apply_ite (State.erase φ), hparts, htiles, hlog, hfills, hhost, hpcl, hpwr, hobs, hout]

@[simp] theorem bundleIssue_erase (φ : Foot) (p : Nat) (s : State) (hfree : φ.free = true) (hparts : φ.parts = true)
    (htiles : φ.tiles = true) (hlog : φ.log = true) (hhbm : φ.hbm = true) (hrepairs : φ.repairs = true)
    (hfills : φ.fills = true) (hhost : φ.host = true) (hpcl : φ.pcl = true) (hpwr : φ.pwr = true) (hmdl : φ.mdl = true)
    (hobs : φ.obs = true) (hout : φ.out = true) : (bundleIssue p s).erase φ = s.erase φ := by
  simp [bundleIssue, apply_ite (State.erase φ), hfree, hparts, htiles, hlog, hhbm, hrepairs, hfills, hhost, hpcl, hpwr, hmdl,
      hobs, hout]

@[simp] theorem notePreempt_erase (φ : Foot) (p : Nat) (s : State) (hparts : φ.parts = true) (hfills : φ.fills = true)
    (hhost : φ.host = true) (hpcl : φ.pcl = true) (hout : φ.out = true) : (notePreempt p s).erase φ = s.erase φ := by
  simp [notePreempt, apply_ite (State.erase φ), hparts, hfills, hhost, hpcl, hout]

@[simp] theorem gateArrival_erase (φ : Foot) (p : Nat) (s : State) (hfree : φ.free = true) (hparts : φ.parts = true)
    (htiles : φ.tiles = true) (hlog : φ.log = true) (hhbm : φ.hbm = true) (hrepairs : φ.repairs = true)
    (hfills : φ.fills = true) (hhost : φ.host = true) (hpcl : φ.pcl = true) (hpwr : φ.pwr = true) (hmdl : φ.mdl = true)
    (hobs : φ.obs = true) (hout : φ.out = true) : (gateArrival p s).erase φ = s.erase φ := by
  simp only [gateArrival]
  (repeat' split) <;> simp_all

@[simp] theorem undoComplete_erase (φ : Foot) (p : Nat) (s : State) (hfree : φ.free = true) (hparts : φ.parts = true)
    (htiles : φ.tiles = true) (hlog : φ.log = true) (hhbm : φ.hbm = true) (hrepairs : φ.repairs = true)
    (hfills : φ.fills = true) (hhost : φ.host = true) (hpcl : φ.pcl = true) (hpwr : φ.pwr = true) (hmdl : φ.mdl = true)
    (hobs : φ.obs = true) (hout : φ.out = true) : (undoComplete p s).erase φ = s.erase φ := by
  unfold undoComplete
  split <;> simp [apply_ite (State.erase φ), hfree, hparts, htiles, hlog, hhbm, hrepairs, hfills, hhost, hpcl, hpwr, hmdl,
      hobs, hout]

@[simp] theorem releaseAct_erase (φ : Foot) (p : Nat) (a : CqAct) (s : State) (hfree : φ.free = true)
    (hparts : φ.parts = true) (htiles : φ.tiles = true) (hlog : φ.log = true) (hhbm : φ.hbm = true)
    (hrepairs : φ.repairs = true) (hfills : φ.fills = true) (hhost : φ.host = true) (hpcl : φ.pcl = true)
    (hpwr : φ.pwr = true) (hmdl : φ.mdl = true) (hobs : φ.obs = true) (hout : φ.out = true) :
    (releaseAct p a s).erase φ = s.erase φ := by
  unfold releaseAct
  split <;> simp [hfree, hparts, htiles, hlog, hhbm, hrepairs, hfills, hhost, hpcl, hpwr, hmdl, hobs, hout]

@[simp] theorem cqRelease_erase (φ : Foot) (p : Nat) (s : State) (hfree : φ.free = true) (hparts : φ.parts = true)
    (htiles : φ.tiles = true) (hlog : φ.log = true) (hhbm : φ.hbm = true) (hrepairs : φ.repairs = true)
    (hfills : φ.fills = true) (hhost : φ.host = true) (hpcl : φ.pcl = true) (hpwr : φ.pwr = true) (hmdl : φ.mdl = true)
    (hobs : φ.obs = true) (hout : φ.out = true) : (cqRelease p s).erase φ = s.erase φ := by
  unfold cqRelease
  split <;> simp [apply_ite (State.erase φ), hfree, hparts, htiles, hlog, hhbm, hrepairs, hfills, hhost, hpcl, hpwr, hmdl,
      hobs, hout]

@[simp] theorem beginSwitch_erase (φ : Foot) (p : Nat) (toB : Bool) (cost : Nat) (s : State) (hparts : φ.parts = true)
    (htiles : φ.tiles = true) (hlog : φ.log = true) (hfills : φ.fills = true) (hhost : φ.host = true) (hpcl : φ.pcl = true)
    (hpwr : φ.pwr = true) (hobs : φ.obs = true) (hout : φ.out = true) : (beginSwitch p toB cost s).erase φ = s.erase φ := by
  simp [beginSwitch, hparts, htiles, hlog, hfills, hhost, hpcl, hpwr, hobs, hout]

@[simp] theorem switchToB_erase (φ : Foot) (p : Nat) (s : State) (hparts : φ.parts = true) (htiles : φ.tiles = true)
    (hlog : φ.log = true) (hfills : φ.fills = true) (hhost : φ.host = true) (hpcl : φ.pcl = true) (hpwr : φ.pwr = true)
    (hobs : φ.obs = true) (hout : φ.out = true) : (switchToB p s).erase φ = s.erase φ := by
  simp [switchToB, apply_ite (State.erase φ), hparts, htiles, hlog, hfills, hhost, hpcl, hpwr, hobs, hout]

@[simp] theorem switchEnd_erase (φ : Foot) (p : Nat) (s : State) (hparts : φ.parts = true) (htiles : φ.tiles = true)
    (hlog : φ.log = true) (hfills : φ.fills = true) (hhost : φ.host = true) (hpcl : φ.pcl = true) (hpwr : φ.pwr = true)
    (hobs : φ.obs = true) (hout : φ.out = true) : (switchEnd p s).erase φ = s.erase φ := by
  unfold switchEnd
  split
  · rfl
  · extract_lets s1 s2 s3 s4 f
    have h : s3.erase φ = s.erase φ := by simp [s3, s2, s1, hparts, htiles, hlog, hfills, hhost, hpcl, hpwr, hobs, hout]
    have h4 : s4.erase φ = s.erase φ := by simp [s4, h, hparts, hfills, hhost, hpcl, hout]
    clear_value s3 s4
    split
    · split <;> simp [h4, hparts]
    · rw [forEach_erase]
      · exact h
      · intros; (repeat' split) <;> simp [hparts]

@[simp] theorem preemptB_erase (φ : Foot) (p : Nat) (s : State) (hparts : φ.parts = true) (htiles : φ.tiles = true)
    (hlog : φ.log = true) (hfills : φ.fills = true) (hhost : φ.host = true) (hpcl : φ.pcl = true) (hpwr : φ.pwr = true)
    (hobs : φ.obs = true) (hout : φ.out = true) : (preemptB p s).erase φ = s.erase φ := by
  simp only [preemptB]
  (repeat' split) <;> simp_all

@[simp] theorem cqHeadTake_erase (φ : Foot) (p q v : Nat) (s : State) (hparts : φ.parts = true) (hhost : φ.host = true)
    (hout : φ.out = true) : (cqHeadTake p q v s).erase φ = s.erase φ := by
  simp [cqHeadTake, apply_ite (State.erase φ), hparts, hhost, hout]

@[simp] theorem bellTake_erase (φ : Foot) (p : Nat) (cq : Bool) (q v : Nat) (s : State) (hparts : φ.parts = true)
    (hhost : φ.host = true) (hout : φ.out = true) : (bellTake p cq q v s).erase φ = s.erase φ := by
  simp [bellTake, apply_ite (State.erase φ), hparts, hhost, hout]

@[simp] theorem bell_erase (φ : Foot) (p : Nat) (cq : Bool) (q : QueueId) (v : Half) (s : State) (hparts : φ.parts = true)
    (hhost : φ.host = true) (hpwr : φ.pwr = true) (hout : φ.out = true) : (bell p cq q v s).erase φ = s.erase φ := by
  simp [bell, apply_ite (State.erase φ), hparts, hhost, hpwr, hout]

@[simp] theorem unfreeze_erase (φ : Foot) (p : Nat) (s : State) (hparts : φ.parts = true) (hhost : φ.host = true)
    (hout : φ.out = true) : (unfreeze p s).erase φ = s.erase φ := by
  simp [unfreeze, forEach_erase, hparts, hhost, hout]

@[simp] theorem queueEnable_erase (φ : Foot) (p q : Nat) (s : State) (hparts : φ.parts = true) :
    (queueEnable p q s).erase φ = s.erase φ := by
  simp [queueEnable, hparts]

@[simp] theorem queueDisable_erase (φ : Foot) (p q : Nat) (s : State) (hparts : φ.parts = true) :
    (queueDisable p q s).erase φ = s.erase φ := by
  simp [queueDisable, hparts]

@[simp] theorem sqFetch_erase (φ : Foot) (p q : Nat) (s : State) (hparts : φ.parts = true) (hhost : φ.host = true)
    (hout : φ.out = true) : (sqFetch p q s).erase φ = s.erase φ := by
  unfold sqFetch
  (repeat' split) <;> simp_all

@[simp] theorem entryCome_erase (φ : Foot) (p q tag : Nat) (bs : List Byte) (s : State) (hparts : φ.parts = true)
    (hhost : φ.host = true) (hout : φ.out = true) : (entryCome p q tag bs s).erase φ = s.erase φ := by
  simp [entryCome, hparts, hhost, hout]

@[simp] theorem entryLost_erase (φ : Foot) (p q tag ep : Nat) (s : State) (hparts : φ.parts = true) :
    (entryLost p q tag ep s).erase φ = s.erase φ := by
  simp [entryLost, hparts]

@[simp] theorem tokenStep_erase (φ : Foot) (p : Nat) (w : Work) (b : StepBody) (s : State) (hparts : φ.parts = true)
    (hfills : φ.fills = true) (hhost : φ.host = true) (hpcl : φ.pcl = true) (hout : φ.out = true) :
    (tokenStep p w b s).erase φ = s.erase φ := by
  simp [tokenStep, apply_ite (State.erase φ), hparts, hfills, hhost, hpcl, hout]

@[simp] theorem modStep_erase (φ : Foot) (p q : Nat) (f : Step → Step) (s : State) (hparts : φ.parts = true) :
    (modStep p q f s).erase φ = s.erase φ := by
  simp [modStep, hparts]

@[simp] theorem hostWrite_erase (φ : Foot) (p line : Nat) (bs : List Byte) (s : State) (hparts : φ.parts = true)
    (htiles : φ.tiles = true) : (hostWrite p line bs s).erase φ = s.erase φ := by
  simp [hostWrite, foldl_erase, hparts, htiles]

@[simp] theorem stepInput_erase (φ : Foot) (p q : Nat) (s : State) (hparts : φ.parts = true) (htiles : φ.tiles = true)
    (hfills : φ.fills = true) (hhost : φ.host = true) (hpcl : φ.pcl = true) (hout : φ.out = true) :
    (stepInput p q s).erase φ = s.erase φ := by
  unfold stepInput
  split <;> simp [apply_ite (State.erase φ), hparts, htiles, hfills, hhost, hpcl, hout]

@[simp] theorem stepPrepare_erase (φ : Foot) (p q : Nat) (s : State) (hparts : φ.parts = true) (htiles : φ.tiles = true)
    (hfills : φ.fills = true) (hhost : φ.host = true) (hpcl : φ.pcl = true) (hout : φ.out = true) :
    (stepPrepare p q s).erase φ = s.erase φ := by
  unfold stepPrepare
  split <;> simp [apply_ite (State.erase φ), hparts, htiles, hfills, hhost, hpcl, hout]

@[simp] theorem stepBytesCome_erase (φ : Foot) (p q : Nat) (bs : List Byte) (s : State) (hparts : φ.parts = true)
    (htiles : φ.tiles = true) (hfills : φ.fills = true) (hhost : φ.host = true) (hpcl : φ.pcl = true) (hout : φ.out = true) :
    (stepBytesCome p q bs s).erase φ = s.erase φ := by
  simp [stepBytesCome, hparts, htiles, hfills, hhost, hpcl, hout]

@[simp] theorem stepPoison_erase (φ : Foot) (p q : Nat) (s : State) (hparts : φ.parts = true) (hhost : φ.host = true)
    (hout : φ.out = true) : (stepPoison p q s).erase φ = s.erase φ := by
  unfold stepPoison
  split <;> simp [hparts, hhost, hout]

@[simp] theorem stepOver_erase (φ : Foot) (p k : Nat) (d : Delivery) (tokens : Nat) (s : State) (hparts : φ.parts = true)
    (hfills : φ.fills = true) (hhost : φ.host = true) (hpcl : φ.pcl = true) (hout : φ.out = true) :
    (stepOver p k d tokens s).erase φ = s.erase φ := by
  simp [stepOver, apply_ite (State.erase φ), hparts, hfills, hhost, hpcl, hout]

@[simp] theorem completionStore_erase (φ : Foot) (p k : Nat) (s : State) (hparts : φ.parts = true) (hlog : φ.log = true)
    (hfills : φ.fills = true) (hhost : φ.host = true) (hpcl : φ.pcl = true) (hpwr : φ.pwr = true) (hobs : φ.obs = true)
    (hout : φ.out = true) : (completionStore p k s).erase φ = s.erase φ := by
  unfold completionStore
  split <;> simp [apply_ite (State.erase φ), hparts, hlog, hfills, hhost, hpcl, hpwr, hobs, hout]

@[simp] theorem moveAsk_erase (φ : Foot) (p : Nat) (j : MoveJob) (s : State) (hparts : φ.parts = true) (hhost : φ.host = true)
    (hout : φ.out = true) : (moveAsk p j s).erase φ = s.erase φ := by
  simp [moveAsk, apply_ite (State.erase φ), hparts, hhost, hout]

@[simp] theorem dataMove_erase (φ : Foot) (p : Nat) (w : Work) (b : MoveBody) (s : State) (hparts : φ.parts = true)
    (hhost : φ.host = true) (hout : φ.out = true) : (dataMove p w b s).erase φ = s.erase φ := by
  simp [dataMove, apply_ite (State.erase φ), hparts, hhost, hout]

@[simp] theorem moveBytes_erase (φ : Foot) (p : Nat) (bs : List Byte) (bad : Nat) (s : State) (hparts : φ.parts = true)
    (hhbm : φ.hbm = true) (hhost : φ.host = true) (hout : φ.out = true) : (moveBytes p bs bad s).erase φ = s.erase φ := by
  unfold moveBytes
  split <;> simp [foldl_erase, hparts, hhbm, hhost, hout]

@[simp] theorem moveOut_erase (φ : Foot) (p : Nat) (j : MoveJob) (n i : Nat) (s : State) (hparts : φ.parts = true)
    (hlog : φ.log = true) (hhbm : φ.hbm = true) (hrepairs : φ.repairs = true) (hfills : φ.fills = true)
    (hhost : φ.host = true) (hpcl : φ.pcl = true) (hpwr : φ.pwr = true) (hmdl : φ.mdl = true) (hobs : φ.obs = true)
    (hout : φ.out = true) : (moveOut p j n i s).1.erase φ = s.erase φ := by
  induction n generalizing i s with
  | zero => rfl
  | succ n ih => unfold moveOut; dsimp only; (repeat' split) <;> simp [ih, hparts, hlog, hhbm, hrepairs, hfills, hhost, hpcl,
      hpwr, hmdl, hobs, hout]

@[simp] theorem dataMoveEnd_erase (φ : Foot) (p : Nat) (s : State) (hparts : φ.parts = true) (hlog : φ.log = true)
    (hhbm : φ.hbm = true) (hrepairs : φ.repairs = true) (hfills : φ.fills = true) (hhost : φ.host = true)
    (hpcl : φ.pcl = true) (hpwr : φ.pwr = true) (hmdl : φ.mdl = true) (hobs : φ.obs = true) (hout : φ.out = true) :
    (dataMoveEnd p s).erase φ = s.erase φ := by
  simp only [dataMoveEnd]
  (repeat' split) <;> simp_all

theorem siuKeep_erase (φ : Foot) {p foff before : Nat} {d : List Byte} {s t : State} (h : siuKeep p d foff before s = some t)
    (hfree : φ.free = true) (hparts : φ.parts = true) (hhbm : φ.hbm = true) : t.erase φ = s.erase φ := by
  unfold siuKeep at h
  dsimp only at h
  split at h
  · cases h
  · obtain rfl := Option.some.inj h
    rw [State.modSiu, State_modPart_erase, partWrite_erase, partWriteN_erase, fresh_erase, fresh_erase] <;> assumption

@[simp] theorem State_modSiu_erase (φ : Foot) (p : Nat) (f : Siu → Siu) (s : State) (hparts : φ.parts = true) :
    (State.modSiu p f s).erase φ = s.erase φ := by
  simp [State.modSiu, hparts]

@[simp] theorem siuEnds_erase (φ : Foot) (p : Nat) (s : State) (hparts : φ.parts = true) (hhost : φ.host = true)
    (hout : φ.out = true) : (siuEnds p s).erase φ = s.erase φ := by
  simp [siuEnds, apply_ite (State.erase φ), forEach_erase, hparts, hhost, hout]

@[simp] theorem siuEpoch_erase (φ : Foot) (p : Nat) (w : Work) (seed : DWord) (k : Nat) (s : State) (hparts : φ.parts = true)
    (hhbm : φ.hbm = true) (hhost : φ.host = true) (hout : φ.out = true) : (siuEpoch p w seed k s).erase φ = s.erase φ := by
  simp [siuEpoch, hparts, hhbm, hhost, hout]

@[simp] theorem feedLine_erase (φ : Foot) (p : Nat) (f : SiuFeed) (s : State) (hparts : φ.parts = true) (hlog : φ.log = true)
    (hhbm : φ.hbm = true) (hrepairs : φ.repairs = true) (hfills : φ.fills = true) (hhost : φ.host = true)
    (hpcl : φ.pcl = true) (hpwr : φ.pwr = true) (hmdl : φ.mdl = true) (hobs : φ.obs = true) (hout : φ.out = true) :
    (feedLine p f s).2.erase φ = s.erase φ := by
  simp [feedLine, hparts, hlog, hhbm, hrepairs, hfills, hhost, hpcl, hpwr, hmdl, hobs, hout]

@[simp] theorem feedPull_erase (φ : Foot) (p n : Nat) (f : SiuFeed) (s : State) (hparts : φ.parts = true)
    (hlog : φ.log = true) (hhbm : φ.hbm = true) (hrepairs : φ.repairs = true) (hfills : φ.fills = true)
    (hhost : φ.host = true) (hpcl : φ.pcl = true) (hpwr : φ.pwr = true) (hmdl : φ.mdl = true) (hobs : φ.obs = true)
    (hout : φ.out = true) : (feedPull p n f s).2.erase φ = s.erase φ := by
  induction n generalizing f s with
  | zero => rfl
  | succ n ih => 
    unfold feedPull
    split
    · rfl
    · dsimp only
      rw [ih, feedLine_erase] <;> assumption

@[simp] theorem setFeed_erase (φ : Foot) (p : Nat) (f : SiuFeed) (s : State) (hparts : φ.parts = true) :
    (setFeed p f s).erase φ = s.erase φ := by
  simp [setFeed, hparts]

@[simp] theorem feedAsk_erase (φ : Foot) (p : Nat) (f : SiuFeed) (s : State) (hparts : φ.parts = true) (hlog : φ.log = true)
    (hhbm : φ.hbm = true) (hrepairs : φ.repairs = true) (hfills : φ.fills = true) (hhost : φ.host = true)
    (hpcl : φ.pcl = true) (hpwr : φ.pwr = true) (hmdl : φ.mdl = true) (hobs : φ.obs = true) (hout : φ.out = true) :
    (feedAsk p f s).erase φ = s.erase φ := by
  simp [feedAsk, apply_ite (State.erase φ), hparts, hlog, hhbm, hrepairs, hfills, hhost, hpcl, hpwr, hmdl, hobs, hout]

@[simp] theorem feedDone_erase (φ : Foot) (p status : Nat) (s : State) (hparts : φ.parts = true) (hhost : φ.host = true)
    (hpcl : φ.pcl = true) (hout : φ.out = true) : (feedDone p status s).erase φ = s.erase φ := by
  unfold feedDone
  split <;> simp [hparts, hhost, hpcl, hout]

@[simp] theorem feedBegin_erase (φ : Foot) (p : Nat) (f : SiuFeed) (s : State) (hparts : φ.parts = true) (hlog : φ.log = true)
    (hhbm : φ.hbm = true) (hrepairs : φ.repairs = true) (hfills : φ.fills = true) (hhost : φ.host = true)
    (hpcl : φ.pcl = true) (hpwr : φ.pwr = true) (hmdl : φ.mdl = true) (hobs : φ.obs = true) (hout : φ.out = true) :
    (feedBegin p f s).erase φ = s.erase φ := by
  unfold feedBegin
  split <;> simp [hparts, hlog, hhbm, hrepairs, hfills, hhost, hpcl, hpwr, hmdl, hobs, hout]

theorem siuTurn_erase (φ : Foot) {p : Nat} {f : SiuFeed} {rest : List SiuFeed} {s t : State} (h : siuTurn p f rest s = some t)
    (hparts : φ.parts = true) (hlog : φ.log = true) (hhbm : φ.hbm = true) (hrepairs : φ.repairs = true)
    (hfills : φ.fills = true) (hhost : φ.host = true) (hpcl : φ.pcl = true) (hpwr : φ.pwr = true) (hmdl : φ.mdl = true)
    (hobs : φ.obs = true) (hout : φ.out = true) : t.erase φ = s.erase φ := by
  unfold siuTurn at h
  (repeat' split at h) <;> cases h <;> simp [hparts, hlog, hhbm, hrepairs, hfills, hhost, hpcl, hpwr, hmdl, hobs, hout]

@[simp] theorem siuSettle_erase (φ : Foot) (p n : Nat) (s : State) (hparts : φ.parts = true) (hlog : φ.log = true)
    (hhbm : φ.hbm = true) (hrepairs : φ.repairs = true) (hfills : φ.fills = true) (hhost : φ.host = true)
    (hpcl : φ.pcl = true) (hpwr : φ.pwr = true) (hmdl : φ.mdl = true) (hobs : φ.obs = true) (hout : φ.out = true) :
    (siuSettle p n s).erase φ = s.erase φ := by
  induction n generalizing s with
  | zero => rfl
  | succ n ih =>
    unfold siuSettle
    split
    · rfl
    · split
      · rfl
      · rename_i h
        rw [ih, siuTurn_erase φ h] <;> assumption

@[simp] theorem siuFeed_erase (φ : Foot) (p : Nat) (w : Work) (op : SiuOp) (f : FeedSrc) (most : Nat) (s : State)
    (hparts : φ.parts = true) (hlog : φ.log = true) (hhbm : φ.hbm = true) (hrepairs : φ.repairs = true)
    (hfills : φ.fills = true) (hhost : φ.host = true) (hpcl : φ.pcl = true) (hpwr : φ.pwr = true) (hmdl : φ.mdl = true)
    (hobs : φ.obs = true) (hout : φ.out = true) : (siuFeed p w op f most s).erase φ = s.erase φ := by
  simp [siuFeed, apply_ite (State.erase φ), hparts, hlog, hhbm, hrepairs, hfills, hhost, hpcl, hpwr, hmdl, hobs, hout]

@[simp] theorem feedBytes_erase (φ : Foot) (p : Nat) (bs : List Byte) (pois : Bool) (s : State) (hparts : φ.parts = true)
    (hlog : φ.log = true) (hhbm : φ.hbm = true) (hrepairs : φ.repairs = true) (hfills : φ.fills = true)
    (hhost : φ.host = true) (hpcl : φ.pcl = true) (hpwr : φ.pwr = true) (hmdl : φ.mdl = true) (hobs : φ.obs = true)
    (hout : φ.out = true) : (feedBytes p bs pois s).erase φ = s.erase φ := by
  unfold feedBytes
  split <;> simp [hparts, hlog, hhbm, hrepairs, hfills, hhost, hpcl, hpwr, hmdl, hobs, hout]

@[simp] theorem siuRecords_erase (φ : Foot) (p n : Nat) (r : SiuRest) (s : State) (hfree : φ.free = true)
    (hparts : φ.parts = true) (hhbm : φ.hbm = true) : (siuRecords p n r s).1.erase φ = s.erase φ := by
  induction n generalizing r s with
  | zero => rfl
  | succ n ih => 
    unfold siuRecords
    extract_lets cut len size d next
    have hc : ∀ s, (cut s).erase φ = s.erase φ := by intro s; simp [cut, hparts]
    clear_value cut
    split
    · split <;> simp [hc]
    · split
      · simp [hc]
      · split
        · simp [ih, hparts]
        · split
          · simp [ih, hparts]
          · split
            · rfl
            · rename_i h
              simp [ih, siuKeep_erase φ h, hfree, hparts, hhbm]

@[simp] theorem takeRecords_erase (φ : Foot) (p : Nat) (r : SiuRest) (s : State) (hfree : φ.free = true)
    (hparts : φ.parts = true) (hhbm : φ.hbm = true) : (takeRecords p r s).erase φ = s.erase φ := by
  simp [takeRecords, hfree, hparts, hhbm]

@[simp] theorem feedUse_erase (φ : Foot) (p n : Nat) (s : State) (hparts : φ.parts = true) :
    (feedUse p n s).erase φ = s.erase φ := by
  simp [feedUse, hparts]

@[simp] theorem dropFrame_erase (φ : Foot) (p used : Nat) (s : State) (hparts : φ.parts = true) :
    (dropFrame p used s).erase φ = s.erase φ := by
  simp [dropFrame, hparts]

@[simp] theorem decodeFrame_erase (φ : Foot) (p : Nat) (z : ZFrame) (f : SiuFeed) (n used : Nat) (plain : Option (List Byte))
    (ended : Bool) (s : State) (hfree : φ.free = true) (hparts : φ.parts = true) (hhbm : φ.hbm = true) :
    (decodeFrame p z f n used plain ended s).erase φ = s.erase φ := by
  simp only [decodeFrame]
  (repeat' split) <;> simp_all

@[simp] theorem nextFrame_erase (φ : Foot) (p : Nat) (f : SiuFeed) (s : State) (hfree : φ.free = true)
    (hparts : φ.parts = true) (hhbm : φ.hbm = true) : (nextFrame p f s).erase φ = s.erase φ := by
  simp only [nextFrame]
  (repeat' split) <;> simp_all

@[simp] theorem siuFrame_erase (φ : Foot) (p : Nat) (s : State) (hfree : φ.free = true) (hparts : φ.parts = true)
    (hlog : φ.log = true) (hhbm : φ.hbm = true) (hrepairs : φ.repairs = true) (hfills : φ.fills = true)
    (hhost : φ.host = true) (hpcl : φ.pcl = true) (hpwr : φ.pwr = true) (hmdl : φ.mdl = true) (hobs : φ.obs = true)
    (hout : φ.out = true) : (siuFrame p s).erase φ = s.erase φ := by
  simp only [siuFrame]
  (repeat' split) <;> simp_all

@[simp] theorem ringWrite_erase (φ : Foot) (p : Nat) (u : Siu) (head data : List Byte) (lines : Nat) (s : State)
    (hparts : φ.parts = true) (hhbm : φ.hbm = true) : (ringWrite p u head data lines s).erase φ = s.erase φ := by
  simp [ringWrite, hparts, hhbm]

@[simp] theorem siuStep_erase (φ : Foot) (p i : Nat) (s : State) (hparts : φ.parts = true) (hhost : φ.host = true)
    (hout : φ.out = true) : (siuStep p i s).erase φ = s.erase φ := by
  simp [siuStep, hparts, hhost, hout]

@[simp] theorem siuData_erase (φ : Foot) (p : Nat) (r : SiuRec) (s : State) (hfree : φ.free = true) (hparts : φ.parts = true)
    (hlog : φ.log = true) (hhbm : φ.hbm = true) (hrepairs : φ.repairs = true) (hfills : φ.fills = true)
    (hhost : φ.host = true) (hpcl : φ.pcl = true) (hpwr : φ.pwr = true) (hmdl : φ.mdl = true) (hobs : φ.obs = true)
    (hout : φ.out = true) : (siuData p r s).1.erase φ = s.erase φ := by
  simp only [siuData]
  (repeat' split) <;> simp_all

@[simp] theorem siuEmit_erase (φ : Foot) (p : Nat) (s : State) (hfree : φ.free = true) (hparts : φ.parts = true)
    (hlog : φ.log = true) (hhbm : φ.hbm = true) (hrepairs : φ.repairs = true) (hfills : φ.fills = true)
    (hhost : φ.host = true) (hpcl : φ.pcl = true) (hpwr : φ.pwr = true) (hmdl : φ.mdl = true) (hobs : φ.obs = true)
    (hout : φ.out = true) : (siuEmit p s).erase φ = s.erase φ := by
  simp only [siuEmit]
  (repeat' split) <;> simp_all

@[simp] theorem siuReread_erase (φ : Foot) (p : Nat) (s : State) (hparts : φ.parts = true) (hlog : φ.log = true)
    (hhbm : φ.hbm = true) (hrepairs : φ.repairs = true) (hfills : φ.fills = true) (hhost : φ.host = true)
    (hpcl : φ.pcl = true) (hpwr : φ.pwr = true) (hmdl : φ.mdl = true) (hobs : φ.obs = true) (hout : φ.out = true) :
    (siuReread p s).erase φ = s.erase φ := by
  simp [siuReread, apply_ite (State.erase φ), hparts, hlog, hhbm, hrepairs, hfills, hhost, hpcl, hpwr, hmdl, hobs, hout]

end Sys2Proof.Machine
end

