-- ==== Sys2Proof/Laws/EraseModule.lean ====
section
/-!
SUPPORT. What the module may change: a state with those parts blanked is the same before and after.
-/

namespace Sys2Proof.Machine

@[simp] theorem flashStore_erase (φ : Foot) (a : Nat) (bs : List Byte) (s : State) (htc : φ.tc = true) :
    (flashStore a bs s).erase φ = s.erase φ := by
  simp [flashStore, htc]

@[simp] theorem flashErase_erase (φ : Foot) (a n : Nat) (s : State) (htc : φ.tc = true) :
    (flashErase a n s).erase φ = s.erase φ := by
  simp [flashErase, htc]

@[simp] theorem writeCounters_erase (φ : Foot) (s : State) (htc : φ.tc = true) : (writeCounters s).erase φ = s.erase φ := by
  simp [writeCounters, htc]

@[simp] theorem countCommand_erase (φ : Foot) (c : DWord) (s : State) (htc : φ.tc = true) :
    (countCommand c s).erase φ = s.erase φ := by
  simp [countCommand, htc]

@[simp] theorem mgmtChecked_erase (φ : Foot) (op : Nat) (env : Env) (okSig wakes : Bool) (f : State → State) (s : State)
    (hf : ∀ s, (f s).erase φ = s.erase φ) (htc : φ.tc = true) (hpwr : φ.pwr = true) (hout : φ.out = true) :
    (mgmtChecked op env okSig wakes f s).erase φ = s.erase φ := by
  simp [mgmtChecked, apply_ite (State.erase φ), hf, htc, hpwr, hout]

@[simp] theorem mgmtCommand_erase (φ : Foot) (op role : Nat) (env : Env) (f : State → State) (s : State)
    (hf : ∀ s, (f s).erase φ = s.erase φ) (htc : φ.tc = true) (hpwr : φ.pwr = true) (hout : φ.out = true) :
    (mgmtCommand op role env f s).erase φ = s.erase φ := by
  simp [mgmtCommand, apply_ite (State.erase φ), hf, htc, hpwr, hout]

@[simp] theorem sessionClose_erase (φ : Foot) (s : State) (htc : φ.tc = true) : (sessionClose s).erase φ = s.erase φ := by
  simp [sessionClose, htc]

@[simp] theorem flashWrite_erase (φ : Foot) (env : Env) (b erase : Bool) (off : Nat) (data : List Byte) (otherSigs : Bool)
    (s : State) (htc : φ.tc = true) (hout : φ.out = true) :
    (flashWrite env b erase off data otherSigs s).erase φ = s.erase φ := by
  simp [flashWrite, apply_ite (State.erase φ), htc, hout]

@[simp] theorem commitFloors_erase (φ : Foot) (counter : DWord) (s : State) (htc : φ.tc = true) (hfuses : φ.fuses = true) (hout : φ.out = true) :
    (commitFloors counter s).erase φ = s.erase φ := by
  simp [commitFloors, modTc_erase_fuses, htc, hout, hfuses]

@[simp] theorem enroll_erase (φ : Foot) (counter : DWord) (slot : Nat) (revoke : Bool) (hash : List Byte) (s : State)
    (htc : φ.tc = true) (hfuses : φ.fuses = true) (hout : φ.out = true) : (enroll counter slot revoke hash s).erase φ = s.erase φ := by
  unfold enroll; dsimp only; (repeat' split) <;> simp [modTc_erase_fuses, htc, hout, hfuses]

@[simp] theorem tlsAccept_erase (φ : Foot) (s : State) (htc : φ.tc = true) (hout : φ.out = true) :
    (tlsAccept s).erase φ = s.erase φ := by
  simp [tlsAccept, apply_ite (State.erase φ), htc, hout]

@[simp] theorem freeSlots_erase (φ : Foot) (p : Nat) (s : State) (hpcl : φ.pcl = true) :
    (freeSlots p s).erase φ = s.erase φ := by
  simp [freeSlots, forEach_erase, hpcl]

@[simp] theorem squash_erase (φ : Foot) (p : Nat) (s : State) (hhbm : φ.hbm = true) (hhost : φ.host = true)
    (hpcl : φ.pcl = true) : (squash p s).erase φ = s.erase φ := by
  simp [squash, hhbm, hhost, hpcl]

@[simp] theorem resetTaken_erase (φ : Foot) (p : Nat) (dissolve : Bool) (works : List Work) (mgmt : List DWord) (s : State)
    (hparts : φ.parts = true) (hlog : φ.log = true) (hhbm : φ.hbm = true) (hfills : φ.fills = true) (hhost : φ.host = true)
    (hpcl : φ.pcl = true) (hout : φ.out = true) : (resetTaken p dissolve works mgmt s).erase φ = s.erase φ := by
  simp [resetTaken, apply_ite (State.erase φ), hparts, hlog, hhbm, hfills, hhost, hpcl, hout]

@[simp] theorem resetPart_erase (φ : Foot) (p : Nat) (dissolve : Bool) (works : List Work) (mgmt : List DWord) (s : State)
    (hparts : φ.parts = true) (hlog : φ.log = true) (hhbm : φ.hbm = true) (hfills : φ.fills = true) (hhost : φ.host = true)
    (hpcl : φ.pcl = true) (hout : φ.out = true) : (resetPart p dissolve works mgmt s).erase φ = s.erase φ := by
  simp only [resetPart]
  (repeat' split) <;> simp_all [forEach_erase]

@[simp] theorem resetState_erase (φ : Foot) (p : Nat) (s : State) (hparts : φ.parts = true) (htiles : φ.tiles = true) :
    (resetState p s).erase φ = s.erase φ := by
  simp [resetState, forEach_erase, hparts, htiles]

@[simp] theorem actEnd_erase (φ : Foot) (a : Act) (status : Nat) (s : State) (hacts : φ.acts = true) (hout : φ.out = true) :
    (actEnd a status s).erase φ = s.erase φ := by
  simp [actEnd, hacts, hout]

@[simp] theorem setStageOf_erase (φ : Foot) (a : Act) (n : Nat) (s : State) (hacts : φ.acts = true) :
    (setStageOf a n s).erase φ = s.erase φ := by
  simp [setStageOf, hacts]

@[simp] theorem shareRegion_erase (φ : Foot) (p v : Nat) (on : Bool) (s : State) (hhbm : φ.hbm = true) :
    (shareRegion p v on s).erase φ = s.erase φ := by
  simp [shareRegion, forEach_erase, hhbm]

@[simp] theorem grantSlabs_erase (φ : Foot) (p : Nat) (l : List (Nat × Nat)) (s : State) (hhbm : φ.hbm = true)
    (hglazeSlabs : φ.glazeSlabs = true) (hglazeKey : φ.glazeKey = true) : (grantSlabs p l s).erase φ = s.erase φ := by
  simp [grantSlabs, forEach_erase, hhbm, hglazeSlabs, hglazeKey]

@[simp] theorem revoke_erase (φ : Foot) (a : Act) (s : State) (hhbm : φ.hbm = true) (hacts : φ.acts = true)
    (hout : φ.out = true) : (revoke a s).erase φ = s.erase φ := by
  simp [revoke, apply_ite (State.erase φ), hhbm, hacts, hout]

@[simp] theorem actTake_erase (φ : Foot) (a : Act) (s : State) (hparts : φ.parts = true) (hlog : φ.log = true)
    (hhbm : φ.hbm = true) (hglazeSlabs : φ.glazeSlabs = true) (hglazeKey : φ.glazeKey = true) (hacts : φ.acts = true)
    (hfills : φ.fills = true) (hhost : φ.host = true) (hpcl : φ.pcl = true) (hout : φ.out = true) :
    (actTake a s).erase φ = s.erase φ := by
  unfold actTake
  (repeat' split) <;> simp_all

@[simp] theorem kickActs_erase (φ : Foot) (n : Nat) (s : State) (hparts : φ.parts = true) (hlog : φ.log = true)
    (hhbm : φ.hbm = true) (hglazeSlabs : φ.glazeSlabs = true) (hglazeKey : φ.glazeKey = true) (hacts : φ.acts = true)
    (hfills : φ.fills = true) (hhost : φ.host = true) (hpcl : φ.pcl = true) (hout : φ.out = true) :
    (kickActs n s).erase φ = s.erase φ := by
  induction n generalizing s with
  | zero => rfl
  | succ n ih => unfold kickActs; split <;> simp [ih, hparts, hlog, hhbm, hglazeSlabs, hglazeKey, hacts, hfills, hhost, hpcl,
      hout]

@[simp] theorem settleActs_erase (φ : Foot) (s : State) (hparts : φ.parts = true) (hlog : φ.log = true) (hhbm : φ.hbm = true)
    (hglazeSlabs : φ.glazeSlabs = true) (hglazeKey : φ.glazeKey = true) (hacts : φ.acts = true) (hfills : φ.fills = true)
    (hhost : φ.host = true) (hpcl : φ.pcl = true) (hout : φ.out = true) : (settleActs s).erase φ = s.erase φ := by
  simp [settleActs, hparts, hlog, hhbm, hglazeSlabs, hglazeKey, hacts, hfills, hhost, hpcl, hout]

@[simp] theorem actAccept_erase (φ : Foot) (a : Act) (s : State) (hparts : φ.parts = true) (hlog : φ.log = true)
    (hhbm : φ.hbm = true) (hglazeSlabs : φ.glazeSlabs = true) (hglazeKey : φ.glazeKey = true) (hacts : φ.acts = true)
    (hfills : φ.fills = true) (hhost : φ.host = true) (hpcl : φ.pcl = true) (hout : φ.out = true) :
    (actAccept a s).erase φ = s.erase φ := by
  simp [actAccept, hparts, hlog, hhbm, hglazeSlabs, hglazeKey, hacts, hfills, hhost, hpcl, hout]

@[simp] theorem regroup_erase (φ : Foot) (p : Nat) (grans : Word) (s : State) (hparts : φ.parts = true)
    (himem : φ.imem = true) : (regroup p grans s).erase φ = s.erase φ := by
  simp [regroup, forEach_erase, hparts, himem]

@[simp] theorem freshKey_erase (φ : Foot) (p : Nat) (s : State) (hhbm : φ.hbm = true) :
    (freshKey p s).erase φ = s.erase φ := by
  simp [freshKey, hhbm]

@[simp] theorem slabLeaves_erase (φ : Foot) (p n : Nat) (dest : Option (PartId × BitVec 11)) (diss : Option Nat) (s : State)
    (hparts : φ.parts = true) (hhbm : φ.hbm = true) (hglazeSlabs : φ.glazeSlabs = true) (hglazeKey : φ.glazeKey = true)
    (hfills : φ.fills = true) (hhost : φ.host = true) (hpcl : φ.pcl = true) (hout : φ.out = true) :
    (slabLeaves p n dest diss s).erase φ = s.erase φ := by
  simp [slabLeaves, apply_ite (State.erase φ), hparts, hhbm, hglazeSlabs, hglazeKey, hfills, hhost, hpcl, hout]

@[simp] theorem clearGrans_erase (φ : Foot) (src : Nat) (gs : List Nat) (dest : Option PartId) (s : State)
    (hglazeGrans : φ.glazeGrans = true) : (clearGrans src gs dest s).erase φ = s.erase φ := by
  simp [clearGrans, forEach_erase, hglazeGrans]

@[simp] theorem actApply_erase (φ : Foot) (p : Nat) (a : Act) (s : State) (hparts : φ.parts = true) (himem : φ.imem = true)
    (hhbm : φ.hbm = true) (hglazeSlabs : φ.glazeSlabs = true) (hglazeGrans : φ.glazeGrans = true)
    (hglazeKey : φ.glazeKey = true) (hfills : φ.fills = true) (hhost : φ.host = true) (hpcl : φ.pcl = true)
    (hout : φ.out = true) : (actApply p a s).erase φ = s.erase φ := by
  simp [actApply, apply_ite (State.erase φ), forEach_erase, hparts, himem, hhbm, hglazeSlabs, hglazeGrans, hglazeKey, hfills,
      hhost, hpcl, hout]

@[simp] theorem actDone_erase (φ : Foot) (p : Nat) (a : Act) (s : State) (hparts : φ.parts = true) (hlog : φ.log = true)
    (hhbm : φ.hbm = true) (hglazeSlabs : φ.glazeSlabs = true) (hglazeGrans : φ.glazeGrans = true)
    (hglazeKey : φ.glazeKey = true) (hacts : φ.acts = true) (hfills : φ.fills = true) (hhost : φ.host = true)
    (hpcl : φ.pcl = true) (hout : φ.out = true) : (actDone p a s).erase φ = s.erase φ := by
  simp [actDone, apply_ite (State.erase φ), forEach_erase, hparts, hlog, hhbm, hglazeSlabs, hglazeGrans, hglazeKey, hacts,
      hfills, hhost, hpcl, hout]

@[simp] theorem actNow_erase (φ : Foot) (p : Nat) (a : Act) (s : State) (hparts : φ.parts = true) (himem : φ.imem = true)
    (hlog : φ.log = true) (hhbm : φ.hbm = true) (hglazeSlabs : φ.glazeSlabs = true) (hglazeGrans : φ.glazeGrans = true)
    (hglazeKey : φ.glazeKey = true) (hacts : φ.acts = true) (hfills : φ.fills = true) (hhost : φ.host = true)
    (hpcl : φ.pcl = true) (hout : φ.out = true) : (actNow p a s).erase φ = s.erase φ := by
  simp [actNow, hparts, himem, hlog, hhbm, hglazeSlabs, hglazeGrans, hglazeKey, hacts, hfills, hhost, hpcl, hout]

@[simp] theorem notifyState_erase (φ : Foot) (p : Nat) (s : State) (hparts : φ.parts = true) (hhost : φ.host = true)
    (hout : φ.out = true) : (notifyState p s).erase φ = s.erase φ := by
  simp [notifyState, hparts, hhost, hout]

@[simp] theorem actEffect_erase (φ : Foot) (p : Nat) (s : State) (hparts : φ.parts = true) (himem : φ.imem = true)
    (hlog : φ.log = true) (hhbm : φ.hbm = true) (hglazeSlabs : φ.glazeSlabs = true) (hglazeGrans : φ.glazeGrans = true)
    (hglazeKey : φ.glazeKey = true) (hacts : φ.acts = true) (hfills : φ.fills = true) (hhost : φ.host = true)
    (hpcl : φ.pcl = true) (hout : φ.out = true) : (actEffect p s).erase φ = s.erase φ := by
  unfold actEffect
  (repeat' split) <;> simp_all [apply_ite (State.erase φ)]

@[simp] theorem quiesceEnd_erase (φ : Foot) (p : Nat) (s : State) (hparts : φ.parts = true) (htiles : φ.tiles = true)
    (himem : φ.imem = true) (hlog : φ.log = true) (hhbm : φ.hbm = true) (hglazeSlabs : φ.glazeSlabs = true)
    (hglazeGrans : φ.glazeGrans = true) (hglazeKey : φ.glazeKey = true) (hfills : φ.fills = true) (hhost : φ.host = true)
    (hpcl : φ.pcl = true) (hpwr : φ.pwr = true) (hobs : φ.obs = true) (hout : φ.out = true) :
    (quiesceEnd p s).erase φ = s.erase φ := by
  simp only [quiesceEnd]
  (repeat' split) <;> simp_all

@[simp] theorem restage_erase (φ : Foot) (p : Nat) (s : State) (hparts : φ.parts = true) :
    (restage p s).erase φ = s.erase φ := by
  simp [restage, hparts]

@[simp] theorem resizeResume_erase (φ : Foot) (p : Nat) (s : State) (hfree : φ.free = true) (hparts : φ.parts = true)
    (htiles : φ.tiles = true) (hlog : φ.log = true) (hhbm : φ.hbm = true) (hrepairs : φ.repairs = true)
    (hglazeSlabs : φ.glazeSlabs = true) (hglazeGrans : φ.glazeGrans = true) (hglazeKey : φ.glazeKey = true)
    (hacts : φ.acts = true) (hfills : φ.fills = true) (hhost : φ.host = true) (hpcl : φ.pcl = true) (hpwr : φ.pwr = true)
    (hmdl : φ.mdl = true) (hobs : φ.obs = true) (hout : φ.out = true) : (resizeResume p s).erase φ = s.erase φ := by
  unfold resizeResume
  split <;> simp [apply_ite (State.erase φ), hfree, hparts, htiles, hlog, hhbm, hrepairs, hglazeSlabs, hglazeGrans,
      hglazeKey, hacts, hfills, hhost, hpcl, hpwr, hmdl, hobs, hout]

@[simp] theorem actsAtReset_erase (φ : Foot) (p n : Nat) (s : State) (hparts : φ.parts = true) (himem : φ.imem = true)
    (hlog : φ.log = true) (hhbm : φ.hbm = true) (hglazeSlabs : φ.glazeSlabs = true) (hglazeGrans : φ.glazeGrans = true)
    (hglazeKey : φ.glazeKey = true) (hacts : φ.acts = true) (hfills : φ.fills = true) (hhost : φ.host = true)
    (hpcl : φ.pcl = true) (hout : φ.out = true) : (actsAtReset p n s).erase φ = s.erase φ := by
  induction n generalizing s with
  | zero => rfl
  | succ n ih => unfold actsAtReset; dsimp only; split <;> simp [ih, hparts, himem, hlog, hhbm, hglazeSlabs, hglazeGrans,
      hglazeKey, hacts, hfills, hhost, hpcl, hout]

@[simp] theorem dissolveGlaze_erase (φ : Foot) (p : Nat) (s : State) (hparts : φ.parts = true) (hhbm : φ.hbm = true)
    (hglazeSlabs : φ.glazeSlabs = true) (hglazeGrans : φ.glazeGrans = true) (hglazeKey : φ.glazeKey = true)
    (hfills : φ.fills = true) (hhost : φ.host = true) (hpcl : φ.pcl = true) (hout : φ.out = true) :
    (dissolveGlaze p s).erase φ = s.erase φ := by
  simp [dissolveGlaze, forEach_erase, hparts, hhbm, hglazeSlabs, hglazeGrans, hglazeKey, hfills, hhost, hpcl, hout]

@[simp] theorem dissolveSettle_erase (φ : Foot) (p : Nat) (s : State) (hparts : φ.parts = true) (hlog : φ.log = true)
    (hhbm : φ.hbm = true) (hglazeSlabs : φ.glazeSlabs = true) (hglazeKey : φ.glazeKey = true) (hacts : φ.acts = true)
    (hfills : φ.fills = true) (hhost : φ.host = true) (hpcl : φ.pcl = true) (hout : φ.out = true) :
    (dissolveSettle p s).erase φ = s.erase φ := by
  simp only [dissolveSettle]
  (repeat' split) <;> simp_all [forEach_erase]

@[simp] theorem resetComplete_erase (φ : Foot) (p : Nat) (s : State) (hparts : φ.parts = true) (htiles : φ.tiles = true)
    (himem : φ.imem = true) (hlog : φ.log = true) (hhbm : φ.hbm = true) (hglazeSlabs : φ.glazeSlabs = true)
    (hglazeGrans : φ.glazeGrans = true) (hglazeKey : φ.glazeKey = true) (hacts : φ.acts = true) (hfills : φ.fills = true)
    (hhost : φ.host = true) (hpcl : φ.pcl = true) (hout : φ.out = true) : (resetComplete p s).erase φ = s.erase φ := by
  unfold resetComplete
  split <;> simp [apply_ite (State.erase φ), forEach_erase, hparts, htiles, himem, hlog, hhbm, hglazeSlabs, hglazeGrans,
      hglazeKey, hacts, hfills, hhost, hpcl, hout]

@[simp] theorem partReset_erase (φ : Foot) (p : Nat) (h : EntryHead) (s : State) (hparts : φ.parts = true)
    (hlog : φ.log = true) (hhbm : φ.hbm = true) (hfills : φ.fills = true) (hhost : φ.host = true) (hpcl : φ.pcl = true)
    (hout : φ.out = true) : (partReset p h s).erase φ = s.erase φ := by
  simp [partReset, apply_ite (State.erase φ), hparts, hlog, hhbm, hfills, hhost, hpcl, hout]

@[simp] theorem granClearEnd_erase (φ : Foot) (g : Nat) (s : State) (hparts : φ.parts = true) (htiles : φ.tiles = true)
    (himem : φ.imem = true) (hlog : φ.log = true) (hhbm : φ.hbm = true) (hglazeSlabs : φ.glazeSlabs = true)
    (hglazeGrans : φ.glazeGrans = true) (hglazeKey : φ.glazeKey = true) (hacts : φ.acts = true) (hfills : φ.fills = true)
    (hhost : φ.host = true) (hpcl : φ.pcl = true) (hout : φ.out = true) : (granClearEnd g s).erase φ = s.erase φ := by
  simp only [granClearEnd]
  (repeat' split) <;> simp_all [forEach_erase]

@[simp] theorem slabGlazeEnd_erase (φ : Foot) (n : Nat) (s : State) (hparts : φ.parts = true) (hlog : φ.log = true)
    (hhbm : φ.hbm = true) (hglazeSlabs : φ.glazeSlabs = true) (hglazeKey : φ.glazeKey = true) (hacts : φ.acts = true)
    (hfills : φ.fills = true) (hhost : φ.host = true) (hpcl : φ.pcl = true) (hout : φ.out = true) :
    (slabGlazeEnd n s).erase φ = s.erase φ := by
  simp only [slabGlazeEnd]
  (repeat' split) <;> simp_all

@[simp] theorem ownCommand_erase (φ : Foot) (a : Act) (env : Env) (s : State) (hparts : φ.parts = true) (hlog : φ.log = true)
    (hhbm : φ.hbm = true) (hglazeSlabs : φ.glazeSlabs = true) (hglazeKey : φ.glazeKey = true) (hacts : φ.acts = true)
    (hfills : φ.fills = true) (hhost : φ.host = true) (hpcl : φ.pcl = true) (htc : φ.tc = true) (hpwr : φ.pwr = true)
    (hout : φ.out = true) : (ownCommand a env s).erase φ = s.erase φ := by
  simp [ownCommand, hparts, hlog, hhbm, hglazeSlabs, hglazeKey, hacts, hfills, hhost, hpcl, htc, hpwr, hout]

@[simp] theorem tcQueue_erase (φ : Foot) (o : TcOp) (s : State) (htc : φ.tc = true) : (tcQueue o s).erase φ = s.erase φ := by
  simp [tcQueue, htc]

@[simp] theorem tcNext_erase (φ : Foot) (s : State) (htc : φ.tc = true) : (tcNext s).erase φ = s.erase φ := by
  simp [tcNext, htc]

@[simp] theorem State_setLoad_erase (φ : Foot) (v : Nat) (l : Option CrustLoad) (s : State) (hfills : φ.fills = true) :
    (State.setLoad v l s).erase φ = s.erase φ := by
  simp [State.setLoad, hfills]

@[simp] theorem crustAsk_erase (φ : Foot) (v : Nat) (s : State) (hparts : φ.parts = true) (hhost : φ.host = true)
    (hpcl : φ.pcl = true) (hout : φ.out = true) : (crustAsk v s).erase φ = s.erase φ := by
  unfold crustAsk
  split <;> simp [apply_ite (State.erase φ), hparts, hhost, hpcl, hout]

@[simp] theorem crustFail_erase (φ : Foot) (v status : Nat) (s : State) (hhbm : φ.hbm = true)
    (hglazeSlabs : φ.glazeSlabs = true) (hglazeKey : φ.glazeKey = true) (hfills : φ.fills = true) (hhost : φ.host = true)
    (hpcl : φ.pcl = true) (hout : φ.out = true) : (crustFail v status s).erase φ = s.erase φ := by
  unfold crustFail
  split <;> simp [apply_ite (State.erase φ), hhbm, hglazeSlabs, hglazeKey, hfills, hhost, hpcl, hout]

@[simp] theorem crustLoad_erase (φ : Foot) (counter : DWord) (v : Nat) (hostSrc : Bool) (port stream addr : Nat) (s : State)
    (hparts : φ.parts = true) (hfills : φ.fills = true) (hhost : φ.host = true) (hpcl : φ.pcl = true) (hout : φ.out = true) :
    (crustLoad counter v hostSrc port stream addr s).erase φ = s.erase φ := by
  simp [crustLoad, apply_ite (State.erase φ), hparts, hfills, hhost, hpcl, hout]

@[simp] theorem crustStore_erase (φ : Foot) (v : Nat) (l : CrustLoad) (bs : List Byte) (s : State) (hhbm : φ.hbm = true) :
    (crustStore v l bs s).erase φ = s.erase φ := by
  simp [crustStore, foldl_erase, hhbm]

@[simp] theorem crustBytes_erase (φ : Foot) (v : Nat) (bs : List Byte) (bad : Bool) (s : State) (hparts : φ.parts = true)
    (hhbm : φ.hbm = true) (hglazeSlabs : φ.glazeSlabs = true) (hglazeKey : φ.glazeKey = true) (hfills : φ.fills = true)
    (hhost : φ.host = true) (hpcl : φ.pcl = true) (htc : φ.tc = true) (hout : φ.out = true) :
    (crustBytes v bs bad s).erase φ = s.erase φ := by
  unfold crustBytes
  split <;> simp [apply_ite (State.erase φ), hparts, hhbm, hglazeSlabs, hglazeKey, hfills, hhost, hpcl, htc, hout]

@[simp] theorem crustChecked_erase (φ : Foot) (v : Nat) (ok : Bool) (s : State) (hhbm : φ.hbm = true)
    (hglazeSlabs : φ.glazeSlabs = true) (hglazeKey : φ.glazeKey = true) (hfills : φ.fills = true) (hhost : φ.host = true)
    (hpcl : φ.pcl = true) (htc : φ.tc = true) (hout : φ.out = true) : (crustChecked v ok s).erase φ = s.erase φ := by
  unfold crustChecked
  split <;> simp [apply_ite (State.erase φ), hhbm, hglazeSlabs, hglazeKey, hfills, hhost, hpcl, htc, hout]

@[simp] theorem crustUnwrapped_erase (φ : Foot) (v : Nat) (s : State) (hhbm : φ.hbm = true)
    (hglazeSlabs : φ.glazeSlabs = true) (hglazeKey : φ.glazeKey = true) (hfills : φ.fills = true) (hhost : φ.host = true)
    (hpcl : φ.pcl = true) (hout : φ.out = true) : (crustUnwrapped v s).erase φ = s.erase φ := by
  simp only [crustUnwrapped]
  (repeat' split) <;> simp_all

@[simp] theorem keyInEffect_erase (φ : Foot) (k : Nat) (s : State) (hparts : φ.parts = true) (hhbm : φ.hbm = true)
    (hfills : φ.fills = true) (hhost : φ.host = true) (hpcl : φ.pcl = true) (hout : φ.out = true) :
    (keyInEffect k s).erase φ = s.erase φ := by
  simp [keyInEffect, apply_ite (State.erase φ), hhbm]
  rw [forEach_erase]
  (try simp [hhbm])
  intros
  (repeat' split) <;> simp_all

@[simp] theorem crustImageEnd_erase (φ : Foot) (v : Nat) (s : State) (hhbm : φ.hbm = true) (hglazeSlabs : φ.glazeSlabs = true)
    (hglazeKey : φ.glazeKey = true) (hfills : φ.fills = true) (hhost : φ.host = true) (hpcl : φ.pcl = true)
    (hout : φ.out = true) : (crustImageEnd v s).erase φ = s.erase φ := by
  unfold crustImageEnd
  split <;> simp [apply_ite (State.erase φ), hhbm, hglazeSlabs, hglazeKey, hfills, hhost, hpcl, hout]

@[simp] theorem crustRetire_erase (φ : Foot) (counter : DWord) (v : Nat) (s : State) (hhbm : φ.hbm = true)
    (hglazeSlabs : φ.glazeSlabs = true) (hglazeKey : φ.glazeKey = true) (hfills : φ.fills = true) (hhost : φ.host = true)
    (hpcl : φ.pcl = true) (hout : φ.out = true) : (crustRetire counter v s).erase φ = s.erase φ := by
  unfold crustRetire
  (repeat' split) <;> simp_all

@[simp] theorem sharedRotate_erase (φ : Foot) (counter : DWord) (k : Nat) (s : State) (hparts : φ.parts = true)
    (hhbm : φ.hbm = true) (hout : φ.out = true) : (sharedRotate counter k s).erase φ = s.erase φ := by
  simp [sharedRotate, apply_ite (State.erase φ), hparts, hhbm, hout]

@[simp] theorem attest_erase (φ : Foot) (w : Work) (haddr maxlen : Nat) (nonce : List Byte) (s : State)
    (hparts : φ.parts = true) (hhost : φ.host = true) (htc : φ.tc = true) (hout : φ.out = true) :
    (attest w haddr maxlen nonce s).erase φ = s.erase φ := by
  simp [attest, apply_ite (State.erase φ), hparts, hhost, htc, hout]

@[simp] theorem recipeWritten_erase (φ : Foot) (s : State) (hparts : φ.parts = true) (hhost : φ.host = true)
    (htc : φ.tc = true) (hout : φ.out = true) : (recipeWritten s).erase φ = s.erase φ := by
  unfold recipeWritten
  split <;> simp [apply_ite (State.erase φ), hparts, hhost, htc, hout]

@[simp] theorem mpRequest_erase (φ : Foot) (code addr : Nat) (data : List Byte) (s : State) (hlog : φ.log = true)
    (htc : φ.tc = true) (hout : φ.out = true) : (mpRequest code addr data s).erase φ = s.erase φ := by
  simp [mpRequest, apply_ite (State.erase φ), hlog, htc, hout]

@[simp] theorem tcWorkComplete_erase (φ : Foot) (ok : Bool) (s : State) (hhbm : φ.hbm = true)
    (hglazeSlabs : φ.glazeSlabs = true) (hglazeKey : φ.glazeKey = true) (hfills : φ.fills = true) (hhost : φ.host = true)
    (hpcl : φ.pcl = true) (htc : φ.tc = true) (hout : φ.out = true) : (tcWorkComplete ok s).erase φ = s.erase φ := by
  unfold tcWorkComplete
  split <;> simp [hhbm, hglazeSlabs, hglazeKey, hfills, hhost, hpcl, htc, hout]

@[simp] theorem noteEligible_erase (φ : Foot) (s : State) (hpwr : φ.pwr = true) : (noteEligible s).erase φ = s.erase φ := by
  simp [noteEligible, hpwr]

@[simp] theorem leaveL1_erase (φ : Foot) (s : State) (hparts : φ.parts = true) (hhost : φ.host = true) (hout : φ.out = true) :
    (leaveL1 s).erase φ = s.erase φ := by
  simp [leaveL1, apply_ite (State.erase φ), hparts, hhost, hout]

@[simp] theorem entryBegin_erase (φ : Foot) (s : State) (hpcl : φ.pcl = true) (hpwr : φ.pwr = true) (hout : φ.out = true) :
    (entryBegin s).erase φ = s.erase φ := by
  simp [entryBegin, apply_ite (State.erase φ), forEach_erase, hpcl, hpwr, hout]

@[simp] theorem recompute_erase (φ : Foot) (s : State) (hpcl : φ.pcl = true) (hpwr : φ.pwr = true) (hout : φ.out = true) :
    (recompute s).erase φ = s.erase φ := by
  simp only [recompute]
  (repeat' split) <;> simp_all

@[simp] theorem nowIn_erase (φ : Foot) (st : Nat) (s : State) (hpwr : φ.pwr = true) : (nowIn st s).erase φ = s.erase φ := by
  simp [nowIn, hpwr]

@[simp] theorem entryEnd_erase (φ : Foot) (s : State) (hhbm : φ.hbm = true) (hhost : φ.host = true) (hpcl : φ.pcl = true)
    (hpwr : φ.pwr = true) (hout : φ.out = true) : (entryEnd s).erase φ = s.erase φ := by
  unfold entryEnd
  split <;> simp [apply_ite (State.erase φ), forEach_erase, hhbm, hhost, hpcl, hpwr, hout]

@[simp] theorem clearLost_erase (φ : Foot) (s : State) (hparts : φ.parts = true) (htiles : φ.tiles = true)
    (himem : φ.imem = true) : (clearLost s).erase φ = s.erase φ := by
  simp [clearLost, State.erase, blankIf, hparts, htiles, himem]

@[simp] theorem trainAgain_erase (φ : Foot) (q : Nat) (s : State) (hpcl : φ.pcl = true) :
    (trainAgain q s).erase φ = s.erase φ := by
  simp [trainAgain, apply_ite (State.erase φ), hpcl]

@[simp] theorem exitEnd_erase (φ : Foot) (s : State) (hparts : φ.parts = true) (htiles : φ.tiles = true)
    (himem : φ.imem = true) (hhost : φ.host = true) (hpcl : φ.pcl = true) (hpwr : φ.pwr = true) (hout : φ.out = true) :
    (exitEnd s).erase φ = s.erase φ := by
  unfold exitEnd
  split <;> simp [apply_ite (State.erase φ), forEach_erase, hparts, htiles, himem, hhost, hpcl, hpwr, hout]

@[simp] theorem wakeWrite_erase (φ : Foot) (p v : Nat) (s : State) (hparts : φ.parts = true) (hpcl : φ.pcl = true)
    (hpwr : φ.pwr = true) (hout : φ.out = true) : (wakeWrite p v s).erase φ = s.erase φ := by
  simp [wakeWrite, apply_ite (State.erase φ), hparts, hpcl, hpwr, hout]

@[simp] theorem refclkLoss_erase (φ : Foot) (s : State) (hparts : φ.parts = true) (hlog : φ.log = true)
    (hfills : φ.fills = true) (hhost : φ.host = true) (hpcl : φ.pcl = true) (hpwr : φ.pwr = true) (hmdl : φ.mdl = true)
    (hobs : φ.obs = true) (hout : φ.out = true) : (refclkLoss s).erase φ = s.erase φ := by
  simp [refclkLoss, apply_ite (State.erase φ), hparts, hlog, hfills, hhost, hpcl, hpwr, hmdl, hobs, hout]

@[simp] theorem limiterSample_erase (φ : Foot) (avg : Nat) (s : State) (hpwr : φ.pwr = true) :
    (limiterSample avg s).erase φ = s.erase φ := by
  simp [limiterSample, apply_ite (State.erase φ), hpwr]

@[simp] theorem targetSet_erase (φ : Foot) (watts : Nat) (s : State) (hpwr : φ.pwr = true) :
    (targetSet watts s).erase φ = s.erase φ := by
  simp [targetSet, hpwr]

@[simp] theorem dieTemp_erase (φ : Foot) (temps : List Byte) (s : State) (hparts : φ.parts = true) (hlog : φ.log = true)
    (hfills : φ.fills = true) (hhost : φ.host = true) (hpcl : φ.pcl = true) (hpwr : φ.pwr = true) (hmdl : φ.mdl = true)
    (hobs : φ.obs = true) (hout : φ.out = true) : (dieTemp temps s).erase φ = s.erase φ := by
  simp [dieTemp, apply_ite (State.erase φ), hparts, hlog, hfills, hhost, hpcl, hpwr, hmdl, hobs, hout]

@[simp] theorem telemetry_erase (φ : Foot) (m : Telemetry) (s : State) (hlog : φ.log = true) (hpwr : φ.pwr = true)
    (hmdl : φ.mdl = true) (hout : φ.out = true) : (telemetry m s).erase φ = s.erase φ := by
  simp [telemetry, apply_ite (State.erase φ), hlog, hpwr, hmdl, hout]

@[simp] theorem hostSiteOff_erase (φ : Foot) (s : State) (hlog : φ.log = true) (hhost : φ.host = true) (hmdl : φ.mdl = true)
    (hout : φ.out = true) : (hostSiteOff s).erase φ = s.erase φ := by
  simp [hostSiteOff, apply_ite (State.erase φ), hlog, hhost, hmdl, hout]

@[simp] theorem lidTemp_erase (φ : Foot) (t : Byte) (s : State) (hmdl : φ.mdl = true) (hout : φ.out = true) :
    (lidTemp t s).erase φ = s.erase φ := by
  simp [lidTemp, apply_ite (State.erase φ), hmdl, hout]

@[simp] theorem recorded_erase (φ : Foot) (i : Nat) (r : Report) (s : State) (hparts : φ.parts = true) (hhost : φ.host = true)
    (hmdl : φ.mdl = true) (hout : φ.out = true) : (recorded i r s).erase φ = s.erase φ := by
  simp [recorded, apply_ite (State.erase φ), forEach_erase, hparts, hhost, hmdl, hout]

@[simp] theorem logIntake_erase (φ : Foot) (s : State) (hparts : φ.parts = true) (hlog : φ.log = true) (hhost : φ.host = true)
    (hmdl : φ.mdl = true) (hout : φ.out = true) : (logIntake s).erase φ = s.erase φ := by
  simp only [logIntake]
  (repeat' split) <;> simp_all

@[simp] theorem qcfgWrite_erase (φ : Foot) (p q j v : Nat) (s : State) (hparts : φ.parts = true) :
    (qcfgWrite p q j v s).erase φ = s.erase φ := by
  simp [qcfgWrite, apply_ite (State.erase φ), hparts]

@[simp] theorem ckpWrite_erase (φ : Foot) (p j v : Nat) (s : State) (hparts : φ.parts = true) :
    (ckpWrite p j v s).erase φ = s.erase φ := by
  simp [ckpWrite, apply_ite (State.erase φ), hparts]

@[simp] theorem fleetWrite_erase (φ : Foot) (v : Nat) (s : State) (hfree : φ.free = true) (hparts : φ.parts = true)
    (hfleet : φ.fleet = true) : (fleetWrite v s).erase φ = s.erase φ := by
  simp [fleetWrite, apply_ite (State.erase φ), hfree, hparts, hfleet]

@[simp] theorem causeClear_erase (φ : Foot) (mask : BitVec 7) (s : State) (hmdl : φ.mdl = true) :
    (causeClear mask s).erase φ = s.erase φ := by
  simp [causeClear, hmdl]

@[simp] theorem partRegWrite_erase (φ : Foot) (p off v : Nat) (s : State) (hparts : φ.parts = true) (hhost : φ.host = true)
    (hpcl : φ.pcl = true) (hpwr : φ.pwr = true) (hout : φ.out = true) : (partRegWrite p off v s).erase φ = s.erase φ := by
  simp [partRegWrite, apply_ite (State.erase φ), hparts, hhost, hpcl, hpwr, hout]

@[simp] theorem regStore_erase (φ : Foot) (off v : Nat) (s : State) (hfree : φ.free = true) (hparts : φ.parts = true)
    (hhost : φ.host = true) (hpcl : φ.pcl = true) (hpwr : φ.pwr = true) (hmdl : φ.mdl = true) (hevPage : φ.evPage = true)
    (hfleet : φ.fleet = true) (hout : φ.out = true) : (regStore off v s).erase φ = s.erase φ := by
  unfold regStore
  (repeat' split) <;> simp_all

@[simp] theorem wwr_erase (φ : Foot) (off : Nat) (data : List Byte) (s : State) (hfree : φ.free = true)
    (hparts : φ.parts = true) (hhost : φ.host = true) (hpcl : φ.pcl = true) (hpwr : φ.pwr = true) (hmdl : φ.mdl = true)
    (hevPage : φ.evPage = true) (hfleet : φ.fleet = true) (hout : φ.out = true) : (wwr off data s).erase φ = s.erase φ := by
  simp [wwr, apply_ite (State.erase φ), hfree, hparts, hhost, hpcl, hpwr, hmdl, hevPage, hfleet, hout]

@[simp] theorem wrd_erase (φ : Foot) (off len : Nat) (tag : BitVec 10) (s : State) (hpwr : φ.pwr = true) (hout : φ.out = true)
    : (wrd off len tag s).erase φ = s.erase φ := by
  simp [wrd, apply_ite (State.erase φ), hpwr, hout]

@[simp] theorem readAnswer_erase (φ : Foot) (r : Req) (tag : Nat) (bs : List Byte) (bad : Nat) (s : State)
    (hparts : φ.parts = true) (htiles : φ.tiles = true) (himem : φ.imem = true) (hlog : φ.log = true) (hhbm : φ.hbm = true)
    (hrepairs : φ.repairs = true) (hglazeSlabs : φ.glazeSlabs = true) (hglazeKey : φ.glazeKey = true)
    (hfills : φ.fills = true) (hhost : φ.host = true) (hpcl : φ.pcl = true) (htc : φ.tc = true) (hpwr : φ.pwr = true)
    (hmdl : φ.mdl = true) (hobs : φ.obs = true) (hout : φ.out = true) : (readAnswer r tag bs bad s).erase φ = s.erase φ := by
  unfold readAnswer
  split <;> simp [apply_ite (State.erase φ), hparts, htiles, himem, hlog, hhbm, hrepairs, hglazeSlabs, hglazeKey, hfills,
      hhost, hpcl, htc, hpwr, hmdl, hobs, hout]

@[simp] theorem mrdDone_erase (φ : Foot) (tag : Nat) (m : Mrd) (s : State) (hparts : φ.parts = true) (htiles : φ.tiles = true)
    (himem : φ.imem = true) (hlog : φ.log = true) (hhbm : φ.hbm = true) (hrepairs : φ.repairs = true)
    (hglazeSlabs : φ.glazeSlabs = true) (hglazeKey : φ.glazeKey = true) (hfills : φ.fills = true) (hhost : φ.host = true)
    (hpcl : φ.pcl = true) (htc : φ.tc = true) (hpwr : φ.pwr = true) (hmdl : φ.mdl = true) (hobs : φ.obs = true)
    (hout : φ.out = true) : (mrdDone tag m s).erase φ = s.erase φ := by
  simp [mrdDone, hparts, htiles, himem, hlog, hhbm, hrepairs, hglazeSlabs, hglazeKey, hfills, hhost, hpcl, htc, hpwr, hmdl,
      hobs, hout]

@[simp] theorem mcpl_erase (φ : Foot) (tag : Nat) (data : List Byte) (s : State) (hparts : φ.parts = true)
    (htiles : φ.tiles = true) (himem : φ.imem = true) (hlog : φ.log = true) (hhbm : φ.hbm = true)
    (hrepairs : φ.repairs = true) (hglazeSlabs : φ.glazeSlabs = true) (hglazeKey : φ.glazeKey = true)
    (hfills : φ.fills = true) (hhost : φ.host = true) (hpcl : φ.pcl = true) (htc : φ.tc = true) (hpwr : φ.pwr = true)
    (hmdl : φ.mdl = true) (hobs : φ.obs = true) (hout : φ.out = true) : (mcpl tag data s).erase φ = s.erase φ := by
  unfold mcpl
  split <;> simp [apply_ite (State.erase φ), hparts, htiles, himem, hlog, hhbm, hrepairs, hglazeSlabs, hglazeKey, hfills,
      hhost, hpcl, htc, hpwr, hmdl, hobs, hout]

@[simp] theorem merr_erase (φ : Foot) (tag : Nat) (s : State) (hparts : φ.parts = true) (htiles : φ.tiles = true)
    (himem : φ.imem = true) (hlog : φ.log = true) (hhbm : φ.hbm = true) (hrepairs : φ.repairs = true)
    (hglazeSlabs : φ.glazeSlabs = true) (hglazeKey : φ.glazeKey = true) (hfills : φ.fills = true) (hhost : φ.host = true)
    (hpcl : φ.pcl = true) (htc : φ.tc = true) (hpwr : φ.pwr = true) (hmdl : φ.mdl = true) (hobs : φ.obs = true)
    (hout : φ.out = true) : (merr tag s).erase φ = s.erase φ := by
  unfold merr
  split <;> simp [apply_ite (State.erase φ), hparts, htiles, himem, hlog, hhbm, hrepairs, hglazeSlabs, hglazeKey, hfills,
      hhost, hpcl, htc, hpwr, hmdl, hobs, hout]

@[simp] theorem srsp_erase (φ : Foot) (q : Nat) (f : Frame) (s : State) (hparts : φ.parts = true) (htiles : φ.tiles = true)
    (himem : φ.imem = true) (hlog : φ.log = true) (hhbm : φ.hbm = true) (hrepairs : φ.repairs = true)
    (hglazeSlabs : φ.glazeSlabs = true) (hglazeKey : φ.glazeKey = true) (hfills : φ.fills = true) (hhost : φ.host = true)
    (hpcl : φ.pcl = true) (htc : φ.tc = true) (hpwr : φ.pwr = true) (hmdl : φ.mdl = true) (hobs : φ.obs = true)
    (hout : φ.out = true) : (srsp q f s).erase φ = s.erase φ := by
  unfold srsp
  extract_lets r s1 x s2
  have h1 : s1.erase φ = s.erase φ := by simp [s1, r, hparts, htiles, hlog, hhbm, hrepairs, hfills, hhost, hpcl, hpwr, hmdl,
      hobs, hout]
  clear_value s1
  (repeat' split) <;> simp [s2, h1, r, hparts, htiles, himem, hlog, hhbm, hrepairs, hglazeSlabs, hglazeKey, hfills, hhost,
      hpcl, htc, hpwr, hmdl, hobs, hout]

@[simp] theorem crd_erase (φ : Foot) (posted nonposted : Nat) (s : State) (hparts : φ.parts = true) (hhost : φ.host = true)
    (hout : φ.out = true) : (crd posted nonposted s).erase φ = s.erase φ := by
  simp [crd, apply_ite (State.erase φ), hparts, hhost, hout]

@[simp] theorem linkDown_erase (φ : Foot) (s : State) (hhost : φ.host = true) : (linkDown s).erase φ = s.erase φ := by
  simp [linkDown, hhost]

@[simp] theorem moduleFail_erase (φ : Foot) (m : BitVec 2) (s : State) (hhost : φ.host = true) :
    (moduleFail m s).erase φ = s.erase φ := by
  simp [moduleFail, apply_ite (State.erase φ), hhost]

@[simp] theorem linkUp_erase (φ : Foot) (mods : BitVec 4) (posted nonposted : Nat) (s : State) (hfree : φ.free = true)
    (hparts : φ.parts = true) (hhost : φ.host = true) (hout : φ.out = true) :
    (linkUp mods posted nonposted s).erase φ = s.erase φ := by
  simp [linkUp, apply_ite (State.erase φ), hfree, hparts, hhost, hout]

@[simp] theorem readRegs_erase (φ : Foot) (counter : DWord) (off count : Nat) (s : State) (hout : φ.out = true) :
    (readRegs counter off count s).erase φ = s.erase φ := by
  simp [readRegs, apply_ite (State.erase φ), hout]

@[simp] theorem twinEvent_erase (φ : Foot) (kind : Nat) (s : State) (hlog : φ.log = true) (htwin : φ.twin = true) :
    (twinEvent kind s).erase φ = s.erase φ := by
  simp [twinEvent, hlog, htwin]

@[simp] theorem moduleReset_erase (φ : Foot) (s : State) (hs : (s.erase φ).lens = (32, 128, 32)) (hfree : φ.free = true)
    (hparts : φ.parts = true) (htiles : φ.tiles = true) (himem : φ.imem = true) (hlog : φ.log = true) (hhbm : φ.hbm = true)
    (hrepairs : φ.repairs = true) (hglazeSlabs : φ.glazeSlabs = true) (hglazeGrans : φ.glazeGrans = true)
    (hglazeKey : φ.glazeKey = true) (hacts : φ.acts = true) (hfills : φ.fills = true) (hhost : φ.host = true)
    (hpcl : φ.pcl = true) (htc : φ.tc = true) (hpwr : φ.pwr = true) (htwin : φ.twin = true) (hmdl : φ.mdl = true)
    (hevPage : φ.evPage = true) (hfleet : φ.fleet = true) (hobs : φ.obs = true) (hout : φ.out = true) :
    (moduleReset s).erase φ = s.erase φ := by
  have e : (s.parts.length, s.tiles.length, s.imem.length) = (32, 128, 32) := by
    simpa [State.erase, State.lens, blankIf, hs, hfree, hparts, htiles, himem, hlog, hhbm, hrepairs, hglazeSlabs,
        hglazeGrans, hglazeKey, hacts, hfills, hhost, hpcl, htc, hpwr, htwin, hmdl, hevPage, hfleet, hobs, hout] using hs
  simp only [Prod.mk.injEq] at e
  simp [moduleReset, State.reset, State.erase, blankIf, Tc.onlyFuses, tc0, e, hfree, hparts, htiles, himem, hlog, hhbm,
      hrepairs, hglazeSlabs, hglazeGrans, hglazeKey, hacts, hfills, hhost, hpcl, htc, hpwr, htwin, hmdl, hevPage, hfleet,
      hobs, hout]

@[simp] theorem sendAttach_erase (φ : Foot) (s : State) (hpcl : φ.pcl = true) (htwin : φ.twin = true) (hout : φ.out = true) :
    (sendAttach s).erase φ = s.erase φ := by
  simp [sendAttach, apply_ite (State.erase φ), hpcl, htwin, hout]

@[simp] theorem heartbeatSend_erase (φ : Foot) (s : State) (hpcl : φ.pcl = true) (htwin : φ.twin = true) (hout : φ.out = true)
    : (heartbeatSend s).erase φ = s.erase φ := by
  simp [heartbeatSend, apply_ite (State.erase φ), hpcl, htwin, hout]

@[simp] theorem resyncImage_erase (φ : Foot) (p i : Nat) (s : State) (hparts : φ.parts = true) (hlog : φ.log = true)
    (hhbm : φ.hbm = true) (hrepairs : φ.repairs = true) (hfills : φ.fills = true) (hhost : φ.host = true)
    (hpcl : φ.pcl = true) (hpwr : φ.pwr = true) (hmdl : φ.mdl = true) (hobs : φ.obs = true) (hout : φ.out = true) :
    (resyncImage p i s).erase φ = s.erase φ := by
  simp [resyncImage, apply_ite (State.erase φ), hparts, hlog, hhbm, hrepairs, hfills, hhost, hpcl, hpwr, hmdl, hobs, hout]

@[simp] theorem resyncPart_erase (φ : Foot) (p : Nat) (s : State) (hparts : φ.parts = true) (hlog : φ.log = true)
    (hhbm : φ.hbm = true) (hrepairs : φ.repairs = true) (hfills : φ.fills = true) (hhost : φ.host = true)
    (hpcl : φ.pcl = true) (hpwr : φ.pwr = true) (hmdl : φ.mdl = true) (hobs : φ.obs = true) (hout : φ.out = true) :
    (resyncPart p s).erase φ = s.erase φ := by
  simp [resyncPart, apply_ite (State.erase φ), forEach_erase, hparts, hlog, hhbm, hrepairs, hfills, hhost, hpcl, hpwr, hmdl,
      hobs, hout]

@[simp] theorem resyncBegin_erase (φ : Foot) (s : State) (hparts : φ.parts = true) (hlog : φ.log = true) (hhbm : φ.hbm = true)
    (hrepairs : φ.repairs = true) (hfills : φ.fills = true) (hhost : φ.host = true) (hpcl : φ.pcl = true)
    (hpwr : φ.pwr = true) (htwin : φ.twin = true) (hmdl : φ.mdl = true) (hobs : φ.obs = true) (hout : φ.out = true) :
    (resyncBegin s).erase φ = s.erase φ := by
  simp [resyncBegin, forEach_erase, hparts, hlog, hhbm, hrepairs, hfills, hhost, hpcl, hpwr, htwin, hmdl, hobs, hout]

@[simp] theorem staleSettle_erase (φ : Foot) (s : State) (hparts : φ.parts = true) (hlog : φ.log = true) (hhbm : φ.hbm = true)
    (hrepairs : φ.repairs = true) (hfills : φ.fills = true) (hhost : φ.host = true) (hpcl : φ.pcl = true)
    (hpwr : φ.pwr = true) (htwin : φ.twin = true) (hmdl : φ.mdl = true) (hobs : φ.obs = true) (hout : φ.out = true) :
    (staleSettle s).erase φ = s.erase φ := by
  simp [staleSettle, apply_ite (State.erase φ), forEach_erase, hparts, hlog, hhbm, hrepairs, hfills, hhost, hpcl, hpwr,
      htwin, hmdl, hobs, hout]

@[simp] theorem syncSettle_erase (φ : Foot) (s : State) (hlog : φ.log = true) (hpcl : φ.pcl = true) (htwin : φ.twin = true)
    (hout : φ.out = true) : (syncSettle s).erase φ = s.erase φ := by
  simp [syncSettle, apply_ite (State.erase φ), hlog, hpcl, htwin, hout]

@[simp] theorem detachSettle_erase (φ : Foot) (s : State) (hs : (s.erase φ).lens = (32, 128, 32)) (hfree : φ.free = true)
    (hparts : φ.parts = true) (htiles : φ.tiles = true) (himem : φ.imem = true) (hlog : φ.log = true) (hhbm : φ.hbm = true)
    (hrepairs : φ.repairs = true) (hglazeSlabs : φ.glazeSlabs = true) (hglazeGrans : φ.glazeGrans = true)
    (hglazeKey : φ.glazeKey = true) (hacts : φ.acts = true) (hfills : φ.fills = true) (hhost : φ.host = true)
    (hpcl : φ.pcl = true) (htc : φ.tc = true) (hpwr : φ.pwr = true) (htwin : φ.twin = true) (hmdl : φ.mdl = true)
    (hevPage : φ.evPage = true) (hfleet : φ.fleet = true) (hobs : φ.obs = true) (hout : φ.out = true) :
    (detachSettle s).erase φ = s.erase φ := by
  unfold detachSettle
  split <;> simp [apply_ite (State.erase φ), hs, hfree, hparts, htiles, himem, hlog, hhbm, hrepairs, hglazeSlabs,
      hglazeGrans, hglazeKey, hacts, hfills, hhost, hpcl, htc, hpwr, htwin, hmdl, hevPage, hfleet, hobs, hout]

@[simp] theorem twinSettle_erase (φ : Foot) (s : State) (hs : (s.erase φ).lens = (32, 128, 32)) (hfree : φ.free = true)
    (hparts : φ.parts = true) (htiles : φ.tiles = true) (himem : φ.imem = true) (hlog : φ.log = true) (hhbm : φ.hbm = true)
    (hrepairs : φ.repairs = true) (hglazeSlabs : φ.glazeSlabs = true) (hglazeGrans : φ.glazeGrans = true)
    (hglazeKey : φ.glazeKey = true) (hacts : φ.acts = true) (hfills : φ.fills = true) (hhost : φ.host = true)
    (hpcl : φ.pcl = true) (htc : φ.tc = true) (hpwr : φ.pwr = true) (htwin : φ.twin = true) (hmdl : φ.mdl = true)
    (hevPage : φ.evPage = true) (hfleet : φ.fleet = true) (hobs : φ.obs = true) (hout : φ.out = true) :
    (twinSettle s).erase φ = s.erase φ := by
  simp [twinSettle, hs, hfree, hparts, htiles, himem, hlog, hhbm, hrepairs, hglazeSlabs, hglazeGrans, hglazeKey, hacts,
      hfills, hhost, hpcl, htc, hpwr, htwin, hmdl, hevPage, hfleet, hobs, hout]

@[simp] theorem unpair_erase (φ : Foot) (s : State) (htwin : φ.twin = true) : (unpair s).erase φ = s.erase φ := by
  simp [unpair, htwin]

@[simp] theorem serveAlone_erase (φ : Foot) (s : State) (htwin : φ.twin = true) : (serveAlone s).erase φ = s.erase φ := by
  simp [serveAlone, htwin]

@[simp] theorem winsTie_erase (φ : Foot) (peerRole peer : Nat) (s : State) (hfree : φ.free = true) :
    (winsTie peerRole peer s).2.erase φ = s.erase φ := by
  unfold winsTie
  split <;> simp [hfree]

@[simp] theorem attachRx_erase (φ : Foot) (f : Frame) (s : State) (hfree : φ.free = true) (hparts : φ.parts = true)
    (hlog : φ.log = true) (hhbm : φ.hbm = true) (hrepairs : φ.repairs = true) (hfills : φ.fills = true)
    (hhost : φ.host = true) (hpcl : φ.pcl = true) (hpwr : φ.pwr = true) (htwin : φ.twin = true) (hmdl : φ.mdl = true)
    (hobs : φ.obs = true) (hout : φ.out = true) : (attachRx f s).erase φ = s.erase φ := by
  simp [attachRx, apply_ite (State.erase φ), hfree, hparts, hlog, hhbm, hrepairs, hfills, hhost, hpcl, hpwr, htwin, hmdl,
      hobs, hout]

@[simp] theorem attachWait_erase (φ : Foot) (s : State) (hlog : φ.log = true) (htwin : φ.twin = true) :
    (attachWait s).erase φ = s.erase φ := by
  simp [attachWait, apply_ite (State.erase φ), hlog, htwin]

@[simp] theorem heldTimeout_erase (φ : Foot) (s : State) (hlog : φ.log = true) (htwin : φ.twin = true) :
    (heldTimeout s).erase φ = s.erase φ := by
  unfold heldTimeout
  split <;> simp [apply_ite (State.erase φ), hlog, htwin]

@[simp] theorem clearInflight_erase (φ : Foot) (p : Nat) (s : State) (hfills : φ.fills = true) :
    (clearInflight p s).erase φ = s.erase φ := by
  simp [clearInflight, forEach_erase, hfills]

@[simp] theorem startMirrored_erase (φ : Foot) (p : Nat) (s : State) (hparts : φ.parts = true) (htiles : φ.tiles = true)
    (himem : φ.imem = true) (hlog : φ.log = true) (hfills : φ.fills = true) (hhost : φ.host = true) (hpcl : φ.pcl = true)
    (hpwr : φ.pwr = true) (hobs : φ.obs = true) (hout : φ.out = true) : (startMirrored p s).erase φ = s.erase φ := by
  simp [startMirrored, apply_ite (State.erase φ), hparts, htiles, himem, hlog, hfills, hhost, hpcl, hpwr, hobs, hout]

@[simp] theorem failoverNotify_erase (φ : Foot) (p : Nat) (s : State) (hfree : φ.free = true) (hparts : φ.parts = true)
    (hhost : φ.host = true) (hout : φ.out = true) : (failoverNotify p s).erase φ = s.erase φ := by
  simp [failoverNotify, hfree, hparts, hhost, hout]

@[simp] theorem peerGone_erase (φ : Foot) (s : State) (hfree : φ.free = true) (hparts : φ.parts = true)
    (htiles : φ.tiles = true) (himem : φ.imem = true) (hlog : φ.log = true) (hfills : φ.fills = true) (hhost : φ.host = true)
    (hpcl : φ.pcl = true) (hpwr : φ.pwr = true) (htwin : φ.twin = true) (hobs : φ.obs = true) (hout : φ.out = true) :
    (peerGone s).erase φ = s.erase φ := by
  simp [peerGone, apply_ite (State.erase φ), forEach_erase, hfree, hparts, htiles, himem, hlog, hfills, hhost, hpcl, hpwr,
      htwin, hobs, hout]

@[simp] theorem heartbeatLoss_erase (φ : Foot) (s : State) (hfree : φ.free = true) (hparts : φ.parts = true)
    (htiles : φ.tiles = true) (himem : φ.imem = true) (hlog : φ.log = true) (hfills : φ.fills = true) (hhost : φ.host = true)
    (hpcl : φ.pcl = true) (hpwr : φ.pwr = true) (htwin : φ.twin = true) (hobs : φ.obs = true) (hout : φ.out = true) :
    (heartbeatLoss s).erase φ = s.erase φ := by
  simp [heartbeatLoss, apply_ite (State.erase φ), hfree, hparts, htiles, himem, hlog, hfills, hhost, hpcl, hpwr, htwin, hobs,
      hout]

@[simp] theorem twinHeard_erase (φ : Foot) (s : State) (hpcl : φ.pcl = true) (htwin : φ.twin = true) (hout : φ.out = true) :
    (twinHeard s).erase φ = s.erase φ := by
  simp [twinHeard, apply_ite (State.erase φ), hpcl, htwin, hout]

@[simp] theorem rxTwin_erase (φ : Foot) (kind : Nat) (f : Frame) (act : State → State) (s : State)
    (hact : ∀ s, (act s).erase φ = s.erase φ) (hs : (s.erase φ).lens = (32, 128, 32)) (hfree : φ.free = true)
    (hparts : φ.parts = true) (htiles : φ.tiles = true) (himem : φ.imem = true) (hlog : φ.log = true) (hhbm : φ.hbm = true)
    (hrepairs : φ.repairs = true) (hglazeSlabs : φ.glazeSlabs = true) (hglazeGrans : φ.glazeGrans = true)
    (hglazeKey : φ.glazeKey = true) (hacts : φ.acts = true) (hfills : φ.fills = true) (hhost : φ.host = true)
    (hpcl : φ.pcl = true) (htc : φ.tc = true) (hpwr : φ.pwr = true) (htwin : φ.twin = true) (hmdl : φ.mdl = true)
    (hevPage : φ.evPage = true) (hfleet : φ.fleet = true) (hobs : φ.obs = true) (hout : φ.out = true) :
    (rxTwin kind f act s).erase φ = s.erase φ := by
  simp [rxTwin, apply_ite (State.erase φ), hact, hs, hfree, hparts, htiles, himem, hlog, hhbm, hrepairs, hglazeSlabs,
      hglazeGrans, hglazeKey, hacts, hfills, hhost, hpcl, htc, hpwr, htwin, hmdl, hevPage, hfleet, hobs, hout]

@[simp] theorem applied_erase (φ : Foot) (f : Frame) (act : Nat → State → State) (s : State)
    (hact : ∀ a0 s, (act a0 s).erase φ = s.erase φ) (htwin : φ.twin = true) : (applied f act s).erase φ = s.erase φ := by
  simp [applied, apply_ite (State.erase φ), hact, htwin]

@[simp] theorem fdescRx_erase (φ : Foot) (b : List Byte) (p : Nat) (s : State) (hfills : φ.fills = true) :
    (fdescRx b p s).erase φ = s.erase φ := by
  simp [fdescRx, apply_ite (State.erase φ), hfills]

@[simp] theorem fimgRx_erase (φ : Foot) (b : List Byte) (p : Nat) (s : State) (hparts : φ.parts = true) (hhbm : φ.hbm = true)
    : (fimgRx b p s).erase φ = s.erase φ := by
  simp [fimgRx, apply_ite (State.erase φ), hparts, hhbm]

@[simp] theorem ctxRx_erase (φ : Foot) (b : List Byte) (p : Nat) (s : State) (hfills : φ.fills = true) :
    (ctxRx b p s).erase φ = s.erase φ := by
  simp [ctxRx, apply_ite (State.erase φ), forEach_erase, hfills]

@[simp] theorem progRx_erase (φ : Foot) (part : Nat) (b : List Byte) (p : Nat) (s : State) (htwin : φ.twin = true) :
    (progRx part b p s).erase φ = s.erase φ := by
  simp [progRx, htwin]

@[simp] theorem presetRx_erase (φ : Foot) (p : Nat) (s : State) (hparts : φ.parts = true) (hfills : φ.fills = true)
    (hhost : φ.host = true) (hpcl : φ.pcl = true) (htwin : φ.twin = true) (hout : φ.out = true) :
    (presetRx p s).erase φ = s.erase φ := by
  simp [presetRx, hparts, hfills, hhost, hpcl, htwin, hout]

@[simp] theorem ckptRx_erase (φ : Foot) (f : Frame) (s : State) (hparts : φ.parts = true) (hhost : φ.host = true)
    (hpcl : φ.pcl = true) (hout : φ.out = true) : (ckptRx f s).erase φ = s.erase φ := by
  simp [ckptRx, apply_ite (State.erase φ), hparts, hhost, hpcl, hout]

@[simp] theorem syncdoneRx_erase (φ : Foot) (s : State) (hlog : φ.log = true) (htwin : φ.twin = true) :
    (syncdoneRx s).erase φ = s.erase φ := by
  simp [syncdoneRx, apply_ite (State.erase φ), hlog, htwin]

@[simp] theorem mirrorDrainEnds_erase (φ : Foot) (p : Nat) (s : State) (hparts : φ.parts = true) (htwin : φ.twin = true) :
    (mirrorDrainEnds p s).erase φ = s.erase φ := by
  unfold mirrorDrainEnds
  split <;> simp [apply_ite (State.erase φ), hparts, htwin]

@[simp] theorem detachTimeout_erase (φ : Foot) (s : State) (hs : (s.erase φ).lens = (32, 128, 32)) (hfree : φ.free = true)
    (hparts : φ.parts = true) (htiles : φ.tiles = true) (himem : φ.imem = true) (hlog : φ.log = true) (hhbm : φ.hbm = true)
    (hrepairs : φ.repairs = true) (hglazeSlabs : φ.glazeSlabs = true) (hglazeGrans : φ.glazeGrans = true)
    (hglazeKey : φ.glazeKey = true) (hacts : φ.acts = true) (hfills : φ.fills = true) (hhost : φ.host = true)
    (hpcl : φ.pcl = true) (htc : φ.tc = true) (hpwr : φ.pwr = true) (htwin : φ.twin = true) (hmdl : φ.mdl = true)
    (hevPage : φ.evPage = true) (hfleet : φ.fleet = true) (hobs : φ.obs = true) (hout : φ.out = true) :
    (detachTimeout s).erase φ = s.erase φ := by
  unfold detachTimeout
  (repeat' split) <;> simp (maxDischargeDepth := 6) [forEach_erase, hs, hfree, hparts, htiles, himem, hlog, hhbm, hrepairs,
      hglazeSlabs, hglazeGrans, hglazeKey, hacts, hfills, hhost, hpcl, htc, hpwr, htwin, hmdl, hevPage, hfleet, hobs, hout]

@[simp] theorem senseChange_erase (φ : Foot) (asserted : Bool) (s : State) (htwin : φ.twin = true) :
    (senseChange asserted s).erase φ = s.erase φ := by
  simp [senseChange, htwin]

@[simp] theorem powerOff_erase (φ : Foot) (s : State) (hs : (s.erase φ).lens = (32, 128, 32)) (hfree : φ.free = true)
    (hparts : φ.parts = true) (htiles : φ.tiles = true) (himem : φ.imem = true) (hlog : φ.log = true) (hhbm : φ.hbm = true)
    (hrepairs : φ.repairs = true) (hglazeSlabs : φ.glazeSlabs = true) (hglazeGrans : φ.glazeGrans = true)
    (hglazeKey : φ.glazeKey = true) (hacts : φ.acts = true) (hfills : φ.fills = true) (hhost : φ.host = true)
    (hpcl : φ.pcl = true) (htc : φ.tc = true) (hpwr : φ.pwr = true) (htwin : φ.twin = true) (hmdl : φ.mdl = true)
    (hevPage : φ.evPage = true) (hfleet : φ.fleet = true) (hobs : φ.obs = true) (hout : φ.out = true) :
    (powerOff s).erase φ = s.erase φ := by
  simp [powerOff, hs, hfree, hparts, htiles, himem, hlog, hhbm, hrepairs, hglazeSlabs, hglazeGrans, hglazeKey, hacts, hfills,
      hhost, hpcl, htc, hpwr, htwin, hmdl, hevPage, hfleet, hobs, hout]

@[simp] theorem menAssert_erase (φ : Foot) (s : State) (haon : φ.aon = true) (hmdl : φ.mdl = true) :
    (menAssert s).erase φ = s.erase φ := by
  unfold menAssert; dsimp only; split <;> simp [haon, hmdl]

@[simp] theorem menDeassert_erase (φ : Foot) (s : State) (hs : (s.erase φ).lens = (32, 128, 32)) (hfree : φ.free = true)
    (hparts : φ.parts = true) (htiles : φ.tiles = true) (himem : φ.imem = true) (hlog : φ.log = true) (hhbm : φ.hbm = true)
    (hrepairs : φ.repairs = true) (hglazeSlabs : φ.glazeSlabs = true) (hglazeGrans : φ.glazeGrans = true)
    (hglazeKey : φ.glazeKey = true) (hacts : φ.acts = true) (hfills : φ.fills = true) (hhost : φ.host = true)
    (hpcl : φ.pcl = true) (htc : φ.tc = true) (hpwr : φ.pwr = true) (htwin : φ.twin = true) (hmdl : φ.mdl = true)
    (hevPage : φ.evPage = true) (hfleet : φ.fleet = true) (hobs : φ.obs = true) (hout : φ.out = true) :
    (menDeassert s).erase φ = s.erase φ := by
  simp [menDeassert, hs, hfree, hparts, htiles, himem, hlog, hhbm, hrepairs, hglazeSlabs, hglazeGrans, hglazeKey, hacts,
      hfills, hhost, hpcl, htc, hpwr, htwin, hmdl, hevPage, hfleet, hobs, hout]

@[simp] theorem overvoltage_erase (φ : Foot) (s : State) (hs : (s.erase φ).lens = (32, 128, 32)) (hfree : φ.free = true)
    (hparts : φ.parts = true) (htiles : φ.tiles = true) (himem : φ.imem = true) (hlog : φ.log = true) (hhbm : φ.hbm = true)
    (hrepairs : φ.repairs = true) (hglazeSlabs : φ.glazeSlabs = true) (hglazeGrans : φ.glazeGrans = true)
    (hglazeKey : φ.glazeKey = true) (hacts : φ.acts = true) (hfills : φ.fills = true) (hhost : φ.host = true)
    (hpcl : φ.pcl = true) (htc : φ.tc = true) (hpwr : φ.pwr = true) (htwin : φ.twin = true) (hmdl : φ.mdl = true)
    (hevPage : φ.evPage = true) (hfleet : φ.fleet = true) (hobs : φ.obs = true) (hout : φ.out = true) :
    (overvoltage s).erase φ = s.erase φ := by
  simp [overvoltage, hs, hfree, hparts, htiles, himem, hlog, hhbm, hrepairs, hglazeSlabs, hglazeGrans, hglazeKey, hacts,
      hfills, hhost, hpcl, htc, hpwr, htwin, hmdl, hevPage, hfleet, hobs, hout]

@[simp] theorem redirectRow_erase (φ : Foot) (row : Nat) (s : State) (hhbm : φ.hbm = true) :
    (redirectRow row s).erase φ = s.erase φ := by
  simp [redirectRow, apply_ite (State.erase φ), hhbm]

@[simp] theorem reapply_erase (φ : Foot) (r : RepairEnt) (s : State) (hhbm : φ.hbm = true) :
    (reapply r s).erase φ = s.erase φ := by
  unfold reapply
  split <;> simp [hhbm]

@[simp] theorem phase8_erase (φ : Foot) (trainFail : List ChanId) (s : State) (hparts : φ.parts = true) (hlog : φ.log = true)
    (hhbm : φ.hbm = true) (hrepairs : φ.repairs = true) (hfills : φ.fills = true) (hhost : φ.host = true)
    (hpcl : φ.pcl = true) (htc : φ.tc = true) (hpwr : φ.pwr = true) (hmdl : φ.mdl = true) (hobs : φ.obs = true)
    (hout : φ.out = true) : (phase8 trainFail s).erase φ = s.erase φ := by
  simp only [phase8]
  (repeat' split) <;> simp_all [forEach_erase]

@[simp] theorem startUp_erase (φ : Foot) (slot : BitVec 3) (v : BootVerdict) (s : State) (hparts : φ.parts = true)
    (hlog : φ.log = true) (hhbm : φ.hbm = true) (hrepairs : φ.repairs = true) (hfills : φ.fills = true)
    (hhost : φ.host = true) (hpcl : φ.pcl = true) (htc : φ.tc = true) (hpwr : φ.pwr = true) (hmdl : φ.mdl = true)
    (hobs : φ.obs = true) (hout : φ.out = true) : (startUp slot v s).erase φ = s.erase φ := by
  unfold startUp
  split
  · rfl
  · extract_lets s1 fw s2 s3 s4
    have h3 : s3.erase φ = s.erase φ := by simp only [s3]; split <;> simp [s2, s1, hlog, htc, hmdl]
    have h4 : s4.erase φ = s3.erase φ := by simp [s4, deriveKeys, htc]
    clear_value s3 s4
    split
    · simp [h3, htc]
    · extract_lets s5 s6 s7 s8
      have h6 : s6.erase φ = s4.erase φ := by simp only [s6]; split <;> simp [s5, hlog, htc]
      have h7 : s7.erase φ = s6.erase φ := by simp only [s7]; split <;> simp [htc]
      clear_value s6 s7
      simp [s8, h7, h6, h4, h3, hparts, hlog, hhbm, hrepairs, hfills, hhost, hpcl, htc, hpwr, hmdl, hobs, hout]

@[simp] theorem definePart_erase (φ : Foot) (p : Nat) (s : State) (hparts : φ.parts = true) (hhbm : φ.hbm = true)
    (hpcl : φ.pcl = true) : (definePart p s).erase φ = s.erase φ := by
  simp [definePart, apply_ite (State.erase φ), hparts, hhbm, hpcl]

@[simp] theorem phase9_erase (φ : Foot) (s : State) (hparts : φ.parts = true) (hhbm : φ.hbm = true) (hpcl : φ.pcl = true)
    (hfleet : φ.fleet = true) : (phase9 s).erase φ = s.erase φ := by
  simp [phase9, apply_ite (State.erase φ), forEach_erase, hparts, hhbm, hpcl, hfleet]

@[simp] theorem ready_erase (φ : Foot) (s : State) (hparts : φ.parts = true) (hhbm : φ.hbm = true) (hpcl : φ.pcl = true)
    (htc : φ.tc = true) (htwin : φ.twin = true) (hfleet : φ.fleet = true) : (ready s).erase φ = s.erase φ := by
  simp [ready, apply_ite (State.erase φ), hparts, hhbm, hpcl, htc, htwin, hfleet]

@[simp] theorem moduleResetCmd_erase (φ : Foot) (counter : DWord) (s : State) (hs : (s.erase φ).lens = (32, 128, 32))
    (hfree : φ.free = true) (hparts : φ.parts = true) (htiles : φ.tiles = true) (himem : φ.imem = true) (hlog : φ.log = true)
    (hhbm : φ.hbm = true) (hrepairs : φ.repairs = true) (hglazeSlabs : φ.glazeSlabs = true)
    (hglazeGrans : φ.glazeGrans = true) (hglazeKey : φ.glazeKey = true) (hacts : φ.acts = true) (hfills : φ.fills = true)
    (hhost : φ.host = true) (hpcl : φ.pcl = true) (htc : φ.tc = true) (hpwr : φ.pwr = true) (htwin : φ.twin = true)
    (hmdl : φ.mdl = true) (hevPage : φ.evPage = true) (hfleet : φ.fleet = true) (hobs : φ.obs = true) (hout : φ.out = true) :
    (moduleResetCmd counter s).erase φ = s.erase φ := by
  simp [moduleResetCmd, apply_ite (State.erase φ), hs, hfree, hparts, htiles, himem, hlog, hhbm, hrepairs, hglazeSlabs,
      hglazeGrans, hglazeKey, hacts, hfills, hhost, hpcl, htc, hpwr, htwin, hmdl, hevPage, hfleet, hobs, hout]

@[simp] theorem i3cAnswer_erase (φ : Foot) (bs : State → List Byte) (s : State) (hout : φ.out = true) :
    (i3cAnswer bs s).erase φ = s.erase φ := by
  simp [i3cAnswer, apply_ite (State.erase φ), hout]

@[simp] theorem i3cAssign_erase (φ : Foot) (a : BitVec 7) (s : State) (hmdl : φ.mdl = true) :
    (i3cAssign a s).erase φ = s.erase φ := by
  simp [i3cAssign, apply_ite (State.erase φ), hmdl]

@[simp] theorem i3cStatus_erase (φ : Foot) (s : State) (hmdl : φ.mdl = true) (hout : φ.out = true) :
    (i3cStatus s).erase φ = s.erase φ := by
  simp [i3cStatus, apply_ite (State.erase φ), hmdl, hout]

@[simp] theorem i3cGetStatus_erase (φ : Foot) (s : State) (hfree : φ.free = true) (hout : φ.out = true) :
    (i3cGetStatus s).erase φ = s.erase φ := by
  simp [i3cGetStatus, apply_ite (State.erase φ), hfree, hout]

@[simp] theorem recCommand_erase (φ : Foot) (f : State → State) (s : State) (hf : ∀ s, (f s).erase φ = s.erase φ)
    (hmdl : φ.mdl = true) : (recCommand f s).erase φ = s.erase φ := by
  simp [recCommand, apply_ite (State.erase φ), hf, hmdl]

@[simp] theorem recBegin_erase (φ : Foot) (len : Nat) (s : State) (hmdl : φ.mdl = true) :
    (recBegin len s).erase φ = s.erase φ := by
  simp [recBegin, apply_ite (State.erase φ), hmdl]

@[simp] theorem recWrite_erase (φ : Foot) (off : Nat) (bs : List Byte) (s : State) (htc : φ.tc = true) :
    (recWrite off bs s).erase φ = s.erase φ := by
  simp [recWrite, apply_ite (State.erase φ), forEach_erase, htc]

@[simp] theorem recData_erase (φ : Foot) (off : Nat) (data : List Byte) (hdrOk : Bool) (s : State) (htc : φ.tc = true)
    (hmdl : φ.mdl = true) : (recData off data hdrOk s).erase φ = s.erase φ := by
  simp [recData, apply_ite (State.erase φ), htc, hmdl]

@[simp] theorem recEnd_erase (φ : Foot) (s : State) (htc : φ.tc = true) (hmdl : φ.mdl = true) :
    (recEnd s).erase φ = s.erase φ := by
  simp [recEnd, apply_ite (State.erase φ), htc, hmdl]

@[simp] theorem slotAlone_erase (φ : Foot) (p : Nat) (b : Bundle) (s : State) (hfree : φ.free = true)
    (hparts : φ.parts = true) (htiles : φ.tiles = true) (hlog : φ.log = true) (hhbm : φ.hbm = true)
    (hrepairs : φ.repairs = true) (hfills : φ.fills = true) (hhost : φ.host = true) (hpcl : φ.pcl = true)
    (hpwr : φ.pwr = true) (hmdl : φ.mdl = true) (hobs : φ.obs = true) (hout : φ.out = true) :
    (slotAlone p b s).erase φ = s.erase φ := by
  simp only [slotAlone]
  (repeat' split) <;> simp_all [forEach_erase]

@[simp] theorem ctlAlone_erase (φ : Foot) (p : Nat) (cop : BitVec 4) (hold : BitVec 9) (creg : SReg) (target : BitVec 19)
    (s : State) (hfree : φ.free = true) (hparts : φ.parts = true) (htiles : φ.tiles = true) (hlog : φ.log = true)
    (hhbm : φ.hbm = true) (hrepairs : φ.repairs = true) (hfills : φ.fills = true) (hhost : φ.host = true)
    (hpcl : φ.pcl = true) (hpwr : φ.pwr = true) (hmdl : φ.mdl = true) (hobs : φ.obs = true) (hout : φ.out = true) :
    (ctlAlone p cop hold creg target s).erase φ = s.erase φ := by
  simp [ctlAlone, apply_ite (State.erase φ), hfree, hparts, htiles, hlog, hhbm, hrepairs, hfills, hhost, hpcl, hpwr, hmdl,
      hobs, hout]

@[simp] theorem sclAlone_erase (φ : Foot) (p : Nat) (op : BitVec 6) (d a b : SReg) (imm : BitVec 40) (s : State)
    (hfree : φ.free = true) (hparts : φ.parts = true) (htiles : φ.tiles = true) (hlog : φ.log = true) (hhbm : φ.hbm = true)
    (hrepairs : φ.repairs = true) (hfills : φ.fills = true) (hhost : φ.host = true) (hpcl : φ.pcl = true)
    (hpwr : φ.pwr = true) (hmdl : φ.mdl = true) (hobs : φ.obs = true) (hout : φ.out = true) :
    (sclAlone p op d a b imm s).erase φ = s.erase φ := by
  simp [sclAlone, hfree, hparts, htiles, hlog, hhbm, hrepairs, hfills, hhost, hpcl, hpwr, hmdl, hobs, hout]

@[simp] theorem cvuAlone_erase (φ : Foot) (p alg : Nat) (init check halt : Bool) (s : State) (hparts : φ.parts = true)
    (htiles : φ.tiles = true) (hlog : φ.log = true) (hfills : φ.fills = true) (hhost : φ.host = true) (hpcl : φ.pcl = true)
    (hpwr : φ.pwr = true) (hobs : φ.obs = true) (hout : φ.out = true) :
    (cvuAlone p alg init check halt s).erase φ = s.erase φ := by
  simp [cvuAlone, apply_ite (State.erase φ), hparts, htiles, hlog, hfills, hhost, hpcl, hpwr, hobs, hout]

@[simp] theorem arrAlone_erase (φ : Foot) (p a : Nat) (sl : ArrSlot) (hold : BitVec 9) (s : State) (hfree : φ.free = true)
    (hparts : φ.parts = true) (htiles : φ.tiles = true) (hlog : φ.log = true) (hhbm : φ.hbm = true)
    (hrepairs : φ.repairs = true) (hfills : φ.fills = true) (hhost : φ.host = true) (hpcl : φ.pcl = true)
    (hpwr : φ.pwr = true) (hmdl : φ.mdl = true) (hobs : φ.obs = true) (hout : φ.out = true) :
    (arrAlone p a sl hold s).erase φ = s.erase φ := by
  simp [arrAlone, hfree, hparts, htiles, hlog, hhbm, hrepairs, hfills, hhost, hpcl, hpwr, hmdl, hobs, hout]

@[simp] theorem reachCycle_erase (φ : Foot) (p c : Nat) (s : State) (hfree : φ.free = true) (hparts : φ.parts = true)
    (htiles : φ.tiles = true) (hlog : φ.log = true) (hhbm : φ.hbm = true) (hrepairs : φ.repairs = true)
    (hfills : φ.fills = true) (hhost : φ.host = true) (hpcl : φ.pcl = true) (hpwr : φ.pwr = true) (hmdl : φ.mdl = true)
    (hobs : φ.obs = true) (hout : φ.out = true) : (reachCycle p c s).erase φ = s.erase φ := by
  simp [reachCycle, hfree, hparts, htiles, hlog, hhbm, hrepairs, hfills, hhost, hpcl, hpwr, hmdl, hobs, hout]

@[simp] theorem vecAlone_erase (φ : Foot) (p : Nat) (sl : VecSlot) (hold : BitVec 9) (s : State) (hfree : φ.free = true)
    (hparts : φ.parts = true) (htiles : φ.tiles = true) (hlog : φ.log = true) (hhbm : φ.hbm = true)
    (hrepairs : φ.repairs = true) (hfills : φ.fills = true) (hhost : φ.host = true) (hpcl : φ.pcl = true)
    (hpwr : φ.pwr = true) (hmdl : φ.mdl = true) (hobs : φ.obs = true) (hout : φ.out = true) :
    (vecAlone p sl hold s).erase φ = s.erase φ := by
  simp [vecAlone, hfree, hparts, htiles, hlog, hhbm, hrepairs, hfills, hhost, hpcl, hpwr, hmdl, hobs, hout]

@[simp] theorem updAlone_erase (φ : Foot) (p : Nat) (sl : UpdSlot) (hold : BitVec 9) (s : State) (hfree : φ.free = true)
    (hparts : φ.parts = true) (htiles : φ.tiles = true) (hlog : φ.log = true) (hhbm : φ.hbm = true)
    (hrepairs : φ.repairs = true) (hfills : φ.fills = true) (hhost : φ.host = true) (hpcl : φ.pcl = true)
    (hpwr : φ.pwr = true) (hmdl : φ.mdl = true) (hobs : φ.obs = true) (hout : φ.out = true) :
    (updAlone p sl hold s).erase φ = s.erase φ := by
  simp [updAlone, hfree, hparts, htiles, hlog, hhbm, hrepairs, hfills, hhost, hpcl, hpwr, hmdl, hobs, hout]

@[simp] theorem swapAlone_erase (φ : Foot) (p : Nat) (k : BitVec 3) (stepEnd : Bool) (s : State) (hfree : φ.free = true)
    (hparts : φ.parts = true) (htiles : φ.tiles = true) (hlog : φ.log = true) (hhbm : φ.hbm = true)
    (hrepairs : φ.repairs = true) (hfills : φ.fills = true) (hhost : φ.host = true) (hpcl : φ.pcl = true)
    (hpwr : φ.pwr = true) (hmdl : φ.mdl = true) (hobs : φ.obs = true) (hout : φ.out = true) :
    (swapAlone p k stepEnd s).erase φ = s.erase φ := by
  simp [swapAlone, apply_ite (State.erase φ), hfree, hparts, htiles, hlog, hhbm, hrepairs, hfills, hhost, hpcl, hpwr, hmdl,
      hobs, hout]

@[simp] theorem memAlone_erase (φ : Foot) (p : Nat) (sl : MemSlot) (s : State) (hfree : φ.free = true)
    (hparts : φ.parts = true) (htiles : φ.tiles = true) (hlog : φ.log = true) (hhbm : φ.hbm = true)
    (hrepairs : φ.repairs = true) (hfills : φ.fills = true) (hhost : φ.host = true) (hpcl : φ.pcl = true)
    (hpwr : φ.pwr = true) (hmdl : φ.mdl = true) (hobs : φ.obs = true) (hout : φ.out = true) :
    (memAlone p sl s).erase φ = s.erase φ := by
  simp [memAlone, hfree, hparts, htiles, hlog, hhbm, hrepairs, hfills, hhost, hpcl, hpwr, hmdl, hobs, hout]

@[simp] theorem xchAlone_erase (φ : Foot) (p : Nat) (sl : XchSlot) (s : State) (hfree : φ.free = true)
    (hparts : φ.parts = true) (htiles : φ.tiles = true) (hlog : φ.log = true) (hhbm : φ.hbm = true)
    (hrepairs : φ.repairs = true) (hfills : φ.fills = true) (hhost : φ.host = true) (hpcl : φ.pcl = true)
    (hpwr : φ.pwr = true) (hmdl : φ.mdl = true) (hobs : φ.obs = true) (hout : φ.out = true) :
    (xchAlone p sl s).erase φ = s.erase φ := by
  simp [xchAlone, hfree, hparts, htiles, hlog, hhbm, hrepairs, hfills, hhost, hpcl, hpwr, hmdl, hobs, hout]

@[simp] theorem memLineArrive_erase (φ : Foot) (p n : Nat) (s : State) (hparts : φ.parts = true) (htiles : φ.tiles = true) :
    (memLineArrive p n s).erase φ = s.erase φ := by
  unfold memLineArrive
  (repeat' split) <;> simp_all

end Sys2Proof.Machine
end

