-- ==== Sys2Proof/Laws/Map.lean ====
section
/-!
SUPPORT. Sparse tables and byte memories: a read after a write, and every operation keeps the canonical form.
-/

namespace Sys2Proof.Machine

variable {α : Type} {d : α}

theorem mget_mput_self (m : Map α) (k : Nat) (v : α) : mget d (mput m k v) k = v := by
  induction m with
  | nil => simp [mput, mget]
  | cons e m ih => simp only [mput]; (repeat' split) <;> simp_all [mget]

theorem mget_mput_other (m : Map α) {k j : Nat} (v : α) (h : j ≠ k) : mget d (mput m k v) j = mget d m j := by
  induction m with
  | nil => simp [mput, mget, h]
  | cons e m ih => simp only [mput]; (repeat' split) <;> simp_all [mget]

theorem mget_mdel_other (m : Map α) {k j : Nat} (h : j ≠ k) : mget d (mdel m k) j = mget d m j := by
  induction m with
  | nil => rfl
  | cons e m ih => simp only [mdel]; split <;> simp_all [mget]

theorem mget_mdel_self (m : Map α) (k : Nat) : mget d (mdel m k) k = d := by
  induction m with
  | nil => rfl
  | cons e m ih => simp only [mdel]; split <;> simp_all [mget]

theorem mget_mfilter (f : Nat → Bool) (m : Map α) (k : Nat) : mget d (mfilter f m) k = if f k then mget d m k else d := by
  induction m with
  | nil => simp [mfilter, mget]
  | cons e m ih =>
    by_cases hk : k = e.1
    · subst hk
      cases hf : f e.1 <;> simp_all [mfilter, mget]
    · cases hf : f e.1 <;> simp_all [mfilter, mget]

variable [DecidableEq α]

theorem mwfFrom_mono {m : Map α} {b c : Nat} (h : mwfFrom d b m = true) (hc : c ≤ b) : mwfFrom d c m = true := by
  cases m with
  | nil => rfl
  | cons e m =>
    simp only [mwfFrom, Bool.and_eq_true, decide_eq_true_eq] at h ⊢
    exact ⟨⟨by omega, h.1.2⟩, h.2⟩

/-- Below the bound a table in canonical form lists nothing. -/
theorem mget_of_lt {m : Map α} {b k : Nat} (h : mwfFrom d b m = true) (hk : k < b) : mget d m k = d := by
  induction m generalizing b with
  | nil => rfl
  | cons e m ih =>
    simp only [mwfFrom, Bool.and_eq_true, decide_eq_true_eq] at h
    have hne : k ≠ e.1 := by omega
    simp only [mget, hne, if_false]
    exact ih h.2 (by omega)

/-- A read after a write to the same key gives the value written. -/
@[simp] theorem mget_mset_self (m : Map α) (k : Nat) (v : α) : mget d (mset d m k v) k = v := by
  unfold mset
  split
  · rename_i e; rw [e]; exact mget_mdel_self m k
  · exact mget_mput_self m k v

/-- A write leaves every other key alone. -/
@[simp] theorem mget_mset_other (m : Map α) {k j : Nat} (v : α) (h : j ≠ k) : mget d (mset d m k v) j = mget d m j := by
  unfold mset
  split
  · exact mget_mdel_other m h
  · exact mget_mput_other m v h

theorem mwfFrom_mput {m : Map α} {b k : Nat} {v : α} (h : mwfFrom d b m = true) (hk : b ≤ k) (hv : v ≠ d) :
    mwfFrom d b (mput m k v) = true := by
  induction m generalizing b with
  | nil => simp [mput, mwfFrom, hk, hv]
  | cons e m ih =>
    simp only [mwfFrom, Bool.and_eq_true, decide_eq_true_eq] at h
    simp only [mput]
    split
    · simp only [mwfFrom, Bool.and_eq_true, decide_eq_true_eq]
      exact ⟨⟨hk, hv⟩, ⟨by omega, h.1.2⟩, h.2⟩
    · split
      · rename_i e'
        simp only [mwfFrom, Bool.and_eq_true, decide_eq_true_eq]
        exact ⟨⟨hk, hv⟩, by rw [e']; exact h.2⟩
      · simp only [mwfFrom, Bool.and_eq_true, decide_eq_true_eq]
        exact ⟨h.1, ih h.2 (by omega)⟩

theorem mwfFrom_mdel {m : Map α} {b : Nat} (k : Nat) (h : mwfFrom d b m = true) : mwfFrom d b (mdel m k) = true := by
  induction m generalizing b with
  | nil => rfl
  | cons e m ih =>
    have h' := h
    simp only [mwfFrom, Bool.and_eq_true, decide_eq_true_eq] at h
    simp only [mdel]
    split
    · exact mwfFrom_mono (ih h.2) (by omega)
    · simp only [mwfFrom, Bool.and_eq_true, decide_eq_true_eq]
      exact ⟨h.1, ih h.2⟩

/-- A write keeps the canonical form. -/
theorem mwf_mset {m : Map α} (h : mwf d m = true) (k : Nat) (v : α) : mwf d (mset d m k v) = true := by
  unfold mset
  split
  · exact mwfFrom_mdel k h
  · rename_i hv; exact mwfFrom_mput h (Nat.zero_le k) hv

theorem mwf_mmod {m : Map α} (h : mwf d m = true) (k : Nat) (f : α → α) : mwf d (mmod d m k f) = true := mwf_mset h k _

@[simp] theorem mget_mmod_self (m : Map α) (k : Nat) (f : α → α) : mget d (mmod d m k f) k = f (mget d m k) :=
  mget_mset_self m k _

@[simp] theorem mget_mmod_other (m : Map α) {k j : Nat} (f : α → α) (h : j ≠ k) : mget d (mmod d m k f) j = mget d m j :=
  mget_mset_other m _ h

theorem mwfFrom_mfilter {m : Map α} {b : Nat} (f : Nat → Bool) (h : mwfFrom d b m = true) : mwfFrom d b (mfilter f m) = true := by
  induction m generalizing b with
  | nil => rfl
  | cons e m ih =>
    simp only [mwfFrom, Bool.and_eq_true, decide_eq_true_eq] at h
    simp only [mfilter, List.filter]
    split
    · simp only [mwfFrom, Bool.and_eq_true, decide_eq_true_eq]
      exact ⟨h.1, ih h.2⟩
    · exact mwfFrom_mono (ih h.2) (by omega)

/-- Equal tables are equal lists: what a table reads as fixes it. -/
theorem mwfFrom_ext {m n : Map α} {b : Nat} (hm : mwfFrom d b m = true) (hn : mwfFrom d b n = true)
    (h : ∀ k, mget d m k = mget d n k) : m = n := by
  induction m generalizing b n with
  | nil =>
    cases n with
    | nil => rfl
    | cons e n =>
      simp only [mwfFrom, Bool.and_eq_true, decide_eq_true_eq] at hn
      have := h e.1
      simp only [mget, if_true] at this
      exact absurd this.symm hn.1.2
  | cons e m ih =>
    have hm' := hm
    simp only [mwfFrom, Bool.and_eq_true, decide_eq_true_eq] at hm
    cases n with
    | nil =>
      have := h e.1
      simp only [mget, if_true] at this
      exact absurd this hm.1.2
    | cons g n =>
      have hn' := hn
      simp only [mwfFrom, Bool.and_eq_true, decide_eq_true_eq] at hn
      have hk : e.1 = g.1 := by
        rcases Nat.lt_trichotomy e.1 g.1 with lt | eq | gt
        · have := h e.1
          rw [show mget d (g :: n) e.1 = d by
            simp only [mget, show e.1 ≠ g.1 by omega, if_false]; exact mget_of_lt hn.2 (by omega)] at this
          simp only [mget, if_true] at this
          exact absurd this hm.1.2
        · exact eq
        · have := h g.1
          rw [show mget d (e :: m) g.1 = d by
            simp only [mget, show g.1 ≠ e.1 by omega, if_false]; exact mget_of_lt hm.2 (by omega)] at this
          simp only [mget, if_true] at this
          exact absurd this.symm hn.1.2
      have hv : e.2 = g.2 := by have := h e.1; simpa [mget, hk] using this
      have ht : m = n := by
        apply ih hm.2 (hk ▸ hn.2)
        intro k
        by_cases hke : k = e.1
        · rw [hke, mget_of_lt hm.2 (by omega), mget_of_lt (hk ▸ hn.2) (by omega)]
        · have := h k
          simpa [mget, hke, hk ▸ hke] using this
      rw [ht]
      exact congrArg (· :: n) (Prod.ext hk hv)

theorem mwf_ext {m n : Map α} (hm : mwf d m = true) (hn : mwf d n = true) (h : ∀ k, mget d m k = mget d n k) : m = n :=
  mwfFrom_ext hm hn h

/-! Byte memories. -/

@[simp] theorem rd8_wr8_self (m : Mem) (a : Nat) (v : Byte) : rd8 (wr8 m a v) a = v := mget_mset_self m a v

@[simp] theorem rd8_wr8_other (m : Mem) {a b : Nat} (v : Byte) (h : b ≠ a) : rd8 (wr8 m a v) b = rd8 m b := mget_mset_other m v h

theorem wf_wr8 {m : Mem} (h : m.wf = true) (a : Nat) (v : Byte) : (wr8 m a v).wf = true := mwf_mset h a v

theorem wf_wrBytes {m : Mem} (h : m.wf = true) (a : Nat) (bs : List Byte) : (wrBytes m a bs).wf = true := by
  induction bs generalizing m a with
  | nil => exact h
  | cons b bs ih => exact ih (wf_wr8 h a b) (a + 1)

/-- Bytes outside the written ones read as before. -/
theorem rd8_wrBytes_other (m : Mem) (a : Nat) (bs : List Byte) {x : Nat} (h : x < a ∨ a + bs.length ≤ x) :
    rd8 (wrBytes m a bs) x = rd8 m x := by
  induction bs generalizing m a with
  | nil => rfl
  | cons b bs ih =>
    simp only [List.length_cons] at h
    simp only [wrBytes]
    rw [ih (wr8 m a b) (a + 1) (by omega), rd8_wr8_other m b (by omega)]

theorem rd8_wrBytes (m : Mem) (a : Nat) (bs : List Byte) {i : Nat} (h : i < bs.length) :
    rd8 (wrBytes m a bs) (a + i) = bs[i] := by
  induction bs generalizing m a i with
  | nil => simp at h
  | cons b bs ih =>
    simp only [wrBytes]
    cases i with
    | zero => rw [rd8_wrBytes_other _ _ _ (by omega)]; exact rd8_wr8_self m a b
    | succ i =>
      have := ih (wr8 m a b) (a + 1) (i := i) (by simpa using h)
      simpa [Nat.add_assoc, Nat.add_comm 1 i] using this

theorem wf_wrMasked {m : Mem} (h : m.wf = true) (a : Nat) (bs : List (Bool × Byte)) : (wrMasked m a bs).wf = true := by
  induction bs generalizing m a with
  | nil => exact h
  | cons b bs ih =>
    simp only [wrMasked]
    apply ih
    split
    · exact wf_wr8 h a b.2
    · exact h

theorem rd8_wrMasked_other (m : Mem) (a : Nat) (bs : List (Bool × Byte)) {x : Nat} (h : x < a ∨ a + bs.length ≤ x) :
    rd8 (wrMasked m a bs) x = rd8 m x := by
  induction bs generalizing m a with
  | nil => rfl
  | cons b bs ih =>
    simp only [List.length_cons] at h
    simp only [wrMasked]
    rw [ih _ (a + 1) (by omega)]
    split
    · exact rd8_wr8_other m b.2 (by omega)
    · rfl

theorem wf_zeroRange {m : Mem} (h : m.wf = true) (lo n : Nat) : (zeroRange m lo n).wf = true := mwfFrom_mfilter _ h

theorem rd8_zeroRange (m : Mem) (lo n x : Nat) : rd8 (zeroRange m lo n) x = if x < lo ∨ lo + n ≤ x then rd8 m x else 0 := by
  have := mget_mfilter (d := (0 : Byte)) (fun k => decide (k < lo) || decide (lo + n ≤ k)) m x
  simpa [rd8, zeroRange] using this

/-- Every memory of the machine after reset is in canonical form: it lists nothing. -/
theorem reset_memories :
    State.reset.hbm.lines = [] ∧ State.reset.hbm.cells = [] ∧ State.reset.imem = List.replicate 32 [] ∧
      State.reset.tiles = List.replicate 128 tile0 ∧ tile0.scratch = [] ∧ tile0.lb = [] ∧ tile0.side = [] ∧
      tc0.flash = [] := ⟨rfl, rfl, rfl, rfl, rfl, rfl, rfl, rfl⟩

end Sys2Proof.Machine
end

