-- ==== Sys2Proof/Laws/State.lean ====
section
/-!
SUPPORT. What each change of the state leaves and makes of every field, all by unfolding: later proofs need not unfold a
record update.
-/

namespace Sys2Proof.Machine

@[simp] theorem modPart_fields (p : Nat) (f : Part → Part) (s : State) :
    (s.modPart p f).pending = s.pending ∧ (s.modPart p f).freeCtr = s.freeCtr ∧ (s.modPart p f).aon = s.aon ∧
    (s.modPart p f).parts = s.parts.modify p f ∧ (s.modPart p f).tiles = s.tiles ∧ (s.modPart p f).imem = s.imem ∧
    (s.modPart p f).log = s.log ∧ (s.modPart p f).hbm = s.hbm ∧ (s.modPart p f).repairs = s.repairs ∧
    (s.modPart p f).glazeSlabs = s.glazeSlabs ∧ (s.modPart p f).glazeGrans = s.glazeGrans ∧
    (s.modPart p f).glazeKey = s.glazeKey ∧ (s.modPart p f).acts = s.acts ∧ (s.modPart p f).fills = s.fills ∧
    (s.modPart p f).host = s.host ∧ (s.modPart p f).pcl = s.pcl ∧ (s.modPart p f).tc = s.tc ∧ (s.modPart p f).pwr = s.pwr ∧
    (s.modPart p f).twin = s.twin ∧ (s.modPart p f).mdl = s.mdl ∧ (s.modPart p f).evPage = s.evPage ∧
    (s.modPart p f).fleet = s.fleet ∧ (s.modPart p f).obs = s.obs ∧ (s.modPart p f).out = s.out :=
  ⟨rfl, rfl, rfl, rfl, rfl, rfl, rfl, rfl, rfl, rfl, rfl, rfl, rfl, rfl, rfl, rfl, rfl, rfl, rfl, rfl, rfl, rfl, rfl, rfl⟩

@[simp] theorem modTile_fields (t : Nat) (f : Tile → Tile) (s : State) :
    (s.modTile t f).pending = s.pending ∧ (s.modTile t f).freeCtr = s.freeCtr ∧ (s.modTile t f).aon = s.aon ∧
    (s.modTile t f).parts = s.parts ∧ (s.modTile t f).tiles = s.tiles.modify t f ∧ (s.modTile t f).imem = s.imem ∧
    (s.modTile t f).log = s.log ∧ (s.modTile t f).hbm = s.hbm ∧ (s.modTile t f).repairs = s.repairs ∧
    (s.modTile t f).glazeSlabs = s.glazeSlabs ∧ (s.modTile t f).glazeGrans = s.glazeGrans ∧
    (s.modTile t f).glazeKey = s.glazeKey ∧ (s.modTile t f).acts = s.acts ∧ (s.modTile t f).fills = s.fills ∧
    (s.modTile t f).host = s.host ∧ (s.modTile t f).pcl = s.pcl ∧ (s.modTile t f).tc = s.tc ∧ (s.modTile t f).pwr = s.pwr ∧
    (s.modTile t f).twin = s.twin ∧ (s.modTile t f).mdl = s.mdl ∧ (s.modTile t f).evPage = s.evPage ∧
    (s.modTile t f).fleet = s.fleet ∧ (s.modTile t f).obs = s.obs ∧ (s.modTile t f).out = s.out :=
  ⟨rfl, rfl, rfl, rfl, rfl, rfl, rfl, rfl, rfl, rfl, rfl, rfl, rfl, rfl, rfl, rfl, rfl, rfl, rfl, rfl, rfl, rfl, rfl, rfl⟩

@[simp] theorem modImem_fields (g : Nat) (f : Mem → Mem) (s : State) :
    (s.modImem g f).pending = s.pending ∧ (s.modImem g f).freeCtr = s.freeCtr ∧ (s.modImem g f).aon = s.aon ∧
    (s.modImem g f).parts = s.parts ∧ (s.modImem g f).tiles = s.tiles ∧ (s.modImem g f).imem = s.imem.modify g f ∧
    (s.modImem g f).log = s.log ∧ (s.modImem g f).hbm = s.hbm ∧ (s.modImem g f).repairs = s.repairs ∧
    (s.modImem g f).glazeSlabs = s.glazeSlabs ∧ (s.modImem g f).glazeGrans = s.glazeGrans ∧
    (s.modImem g f).glazeKey = s.glazeKey ∧ (s.modImem g f).acts = s.acts ∧ (s.modImem g f).fills = s.fills ∧
    (s.modImem g f).host = s.host ∧ (s.modImem g f).pcl = s.pcl ∧ (s.modImem g f).tc = s.tc ∧ (s.modImem g f).pwr = s.pwr ∧
    (s.modImem g f).twin = s.twin ∧ (s.modImem g f).mdl = s.mdl ∧ (s.modImem g f).evPage = s.evPage ∧
    (s.modImem g f).fleet = s.fleet ∧ (s.modImem g f).obs = s.obs ∧ (s.modImem g f).out = s.out :=
  ⟨rfl, rfl, rfl, rfl, rfl, rfl, rfl, rfl, rfl, rfl, rfl, rfl, rfl, rfl, rfl, rfl, rfl, rfl, rfl, rfl, rfl, rfl, rfl, rfl⟩

@[simp] theorem modLog_fields (f : EvLog → EvLog) (s : State) :
    (s.modLog f).pending = s.pending ∧ (s.modLog f).freeCtr = s.freeCtr ∧ (s.modLog f).aon = s.aon ∧
    (s.modLog f).parts = s.parts ∧ (s.modLog f).tiles = s.tiles ∧ (s.modLog f).imem = s.imem ∧ (s.modLog f).log = f s.log ∧
    (s.modLog f).hbm = s.hbm ∧ (s.modLog f).repairs = s.repairs ∧ (s.modLog f).glazeSlabs = s.glazeSlabs ∧
    (s.modLog f).glazeGrans = s.glazeGrans ∧ (s.modLog f).glazeKey = s.glazeKey ∧ (s.modLog f).acts = s.acts ∧
    (s.modLog f).fills = s.fills ∧ (s.modLog f).host = s.host ∧ (s.modLog f).pcl = s.pcl ∧ (s.modLog f).tc = s.tc ∧
    (s.modLog f).pwr = s.pwr ∧ (s.modLog f).twin = s.twin ∧ (s.modLog f).mdl = s.mdl ∧ (s.modLog f).evPage = s.evPage ∧
    (s.modLog f).fleet = s.fleet ∧ (s.modLog f).obs = s.obs ∧ (s.modLog f).out = s.out :=
  ⟨rfl, rfl, rfl, rfl, rfl, rfl, rfl, rfl, rfl, rfl, rfl, rfl, rfl, rfl, rfl, rfl, rfl, rfl, rfl, rfl, rfl, rfl, rfl, rfl⟩

@[simp] theorem modRepairs_fields (f : List RepairEnt → List RepairEnt) (s : State) :
    (s.modRepairs f).pending = s.pending ∧ (s.modRepairs f).freeCtr = s.freeCtr ∧ (s.modRepairs f).aon = s.aon ∧
    (s.modRepairs f).parts = s.parts ∧ (s.modRepairs f).tiles = s.tiles ∧ (s.modRepairs f).imem = s.imem ∧
    (s.modRepairs f).log = s.log ∧ (s.modRepairs f).hbm = s.hbm ∧ (s.modRepairs f).repairs = f s.repairs ∧
    (s.modRepairs f).glazeSlabs = s.glazeSlabs ∧ (s.modRepairs f).glazeGrans = s.glazeGrans ∧
    (s.modRepairs f).glazeKey = s.glazeKey ∧ (s.modRepairs f).acts = s.acts ∧ (s.modRepairs f).fills = s.fills ∧
    (s.modRepairs f).host = s.host ∧ (s.modRepairs f).pcl = s.pcl ∧ (s.modRepairs f).tc = s.tc ∧
    (s.modRepairs f).pwr = s.pwr ∧ (s.modRepairs f).twin = s.twin ∧ (s.modRepairs f).mdl = s.mdl ∧
    (s.modRepairs f).evPage = s.evPage ∧ (s.modRepairs f).fleet = s.fleet ∧ (s.modRepairs f).obs = s.obs ∧
    (s.modRepairs f).out = s.out :=
  ⟨rfl, rfl, rfl, rfl, rfl, rfl, rfl, rfl, rfl, rfl, rfl, rfl, rfl, rfl, rfl, rfl, rfl, rfl, rfl, rfl, rfl, rfl, rfl, rfl⟩

@[simp] theorem modGlazeSlabs_fields (f : Map (Option GlazeJob) → Map (Option GlazeJob)) (s : State) :
    (s.modGlazeSlabs f).pending = s.pending ∧ (s.modGlazeSlabs f).freeCtr = s.freeCtr ∧ (s.modGlazeSlabs f).aon = s.aon ∧
    (s.modGlazeSlabs f).parts = s.parts ∧ (s.modGlazeSlabs f).tiles = s.tiles ∧ (s.modGlazeSlabs f).imem = s.imem ∧
    (s.modGlazeSlabs f).log = s.log ∧ (s.modGlazeSlabs f).hbm = s.hbm ∧ (s.modGlazeSlabs f).repairs = s.repairs ∧
    (s.modGlazeSlabs f).glazeSlabs = f s.glazeSlabs ∧ (s.modGlazeSlabs f).glazeGrans = s.glazeGrans ∧
    (s.modGlazeSlabs f).glazeKey = s.glazeKey ∧ (s.modGlazeSlabs f).acts = s.acts ∧ (s.modGlazeSlabs f).fills = s.fills ∧
    (s.modGlazeSlabs f).host = s.host ∧ (s.modGlazeSlabs f).pcl = s.pcl ∧ (s.modGlazeSlabs f).tc = s.tc ∧
    (s.modGlazeSlabs f).pwr = s.pwr ∧ (s.modGlazeSlabs f).twin = s.twin ∧ (s.modGlazeSlabs f).mdl = s.mdl ∧
    (s.modGlazeSlabs f).evPage = s.evPage ∧ (s.modGlazeSlabs f).fleet = s.fleet ∧ (s.modGlazeSlabs f).obs = s.obs ∧
    (s.modGlazeSlabs f).out = s.out :=
  ⟨rfl, rfl, rfl, rfl, rfl, rfl, rfl, rfl, rfl, rfl, rfl, rfl, rfl, rfl, rfl, rfl, rfl, rfl, rfl, rfl, rfl, rfl, rfl, rfl⟩

@[simp] theorem modGlazeGrans_fields (f : Map (Option GlazeGran) → Map (Option GlazeGran)) (s : State) :
    (s.modGlazeGrans f).pending = s.pending ∧ (s.modGlazeGrans f).freeCtr = s.freeCtr ∧ (s.modGlazeGrans f).aon = s.aon ∧
    (s.modGlazeGrans f).parts = s.parts ∧ (s.modGlazeGrans f).tiles = s.tiles ∧ (s.modGlazeGrans f).imem = s.imem ∧
    (s.modGlazeGrans f).log = s.log ∧ (s.modGlazeGrans f).hbm = s.hbm ∧ (s.modGlazeGrans f).repairs = s.repairs ∧
    (s.modGlazeGrans f).glazeSlabs = s.glazeSlabs ∧ (s.modGlazeGrans f).glazeGrans = f s.glazeGrans ∧
    (s.modGlazeGrans f).glazeKey = s.glazeKey ∧ (s.modGlazeGrans f).acts = s.acts ∧ (s.modGlazeGrans f).fills = s.fills ∧
    (s.modGlazeGrans f).host = s.host ∧ (s.modGlazeGrans f).pcl = s.pcl ∧ (s.modGlazeGrans f).tc = s.tc ∧
    (s.modGlazeGrans f).pwr = s.pwr ∧ (s.modGlazeGrans f).twin = s.twin ∧ (s.modGlazeGrans f).mdl = s.mdl ∧
    (s.modGlazeGrans f).evPage = s.evPage ∧ (s.modGlazeGrans f).fleet = s.fleet ∧ (s.modGlazeGrans f).obs = s.obs ∧
    (s.modGlazeGrans f).out = s.out :=
  ⟨rfl, rfl, rfl, rfl, rfl, rfl, rfl, rfl, rfl, rfl, rfl, rfl, rfl, rfl, rfl, rfl, rfl, rfl, rfl, rfl, rfl, rfl, rfl, rfl⟩

@[simp] theorem setGlazeKey_fields (k : Option Nat) (s : State) :
    (s.setGlazeKey k).pending = s.pending ∧ (s.setGlazeKey k).freeCtr = s.freeCtr ∧ (s.setGlazeKey k).aon = s.aon ∧
    (s.setGlazeKey k).parts = s.parts ∧ (s.setGlazeKey k).tiles = s.tiles ∧ (s.setGlazeKey k).imem = s.imem ∧
    (s.setGlazeKey k).log = s.log ∧ (s.setGlazeKey k).hbm = s.hbm ∧ (s.setGlazeKey k).repairs = s.repairs ∧
    (s.setGlazeKey k).glazeSlabs = s.glazeSlabs ∧ (s.setGlazeKey k).glazeGrans = s.glazeGrans ∧
    (s.setGlazeKey k).glazeKey = k ∧ (s.setGlazeKey k).acts = s.acts ∧ (s.setGlazeKey k).fills = s.fills ∧
    (s.setGlazeKey k).host = s.host ∧ (s.setGlazeKey k).pcl = s.pcl ∧ (s.setGlazeKey k).tc = s.tc ∧
    (s.setGlazeKey k).pwr = s.pwr ∧ (s.setGlazeKey k).twin = s.twin ∧ (s.setGlazeKey k).mdl = s.mdl ∧
    (s.setGlazeKey k).evPage = s.evPage ∧ (s.setGlazeKey k).fleet = s.fleet ∧ (s.setGlazeKey k).obs = s.obs ∧
    (s.setGlazeKey k).out = s.out :=
  ⟨rfl, rfl, rfl, rfl, rfl, rfl, rfl, rfl, rfl, rfl, rfl, rfl, rfl, rfl, rfl, rfl, rfl, rfl, rfl, rfl, rfl, rfl, rfl, rfl⟩

@[simp] theorem modActs_fields (f : List Act → List Act) (s : State) :
    (s.modActs f).pending = s.pending ∧ (s.modActs f).freeCtr = s.freeCtr ∧ (s.modActs f).aon = s.aon ∧
    (s.modActs f).parts = s.parts ∧ (s.modActs f).tiles = s.tiles ∧ (s.modActs f).imem = s.imem ∧
    (s.modActs f).log = s.log ∧ (s.modActs f).hbm = s.hbm ∧ (s.modActs f).repairs = s.repairs ∧
    (s.modActs f).glazeSlabs = s.glazeSlabs ∧ (s.modActs f).glazeGrans = s.glazeGrans ∧
    (s.modActs f).glazeKey = s.glazeKey ∧ (s.modActs f).acts = f s.acts ∧ (s.modActs f).fills = s.fills ∧
    (s.modActs f).host = s.host ∧ (s.modActs f).pcl = s.pcl ∧ (s.modActs f).tc = s.tc ∧ (s.modActs f).pwr = s.pwr ∧
    (s.modActs f).twin = s.twin ∧ (s.modActs f).mdl = s.mdl ∧ (s.modActs f).evPage = s.evPage ∧
    (s.modActs f).fleet = s.fleet ∧ (s.modActs f).obs = s.obs ∧ (s.modActs f).out = s.out :=
  ⟨rfl, rfl, rfl, rfl, rfl, rfl, rfl, rfl, rfl, rfl, rfl, rfl, rfl, rfl, rfl, rfl, rfl, rfl, rfl, rfl, rfl, rfl, rfl, rfl⟩

@[simp] theorem modFills_fields (f : Fills → Fills) (s : State) :
    (s.modFills f).pending = s.pending ∧ (s.modFills f).freeCtr = s.freeCtr ∧ (s.modFills f).aon = s.aon ∧
    (s.modFills f).parts = s.parts ∧ (s.modFills f).tiles = s.tiles ∧ (s.modFills f).imem = s.imem ∧
    (s.modFills f).log = s.log ∧ (s.modFills f).hbm = s.hbm ∧ (s.modFills f).repairs = s.repairs ∧
    (s.modFills f).glazeSlabs = s.glazeSlabs ∧ (s.modFills f).glazeGrans = s.glazeGrans ∧
    (s.modFills f).glazeKey = s.glazeKey ∧ (s.modFills f).acts = s.acts ∧ (s.modFills f).fills = f s.fills ∧
    (s.modFills f).host = s.host ∧ (s.modFills f).pcl = s.pcl ∧ (s.modFills f).tc = s.tc ∧ (s.modFills f).pwr = s.pwr ∧
    (s.modFills f).twin = s.twin ∧ (s.modFills f).mdl = s.mdl ∧ (s.modFills f).evPage = s.evPage ∧
    (s.modFills f).fleet = s.fleet ∧ (s.modFills f).obs = s.obs ∧ (s.modFills f).out = s.out :=
  ⟨rfl, rfl, rfl, rfl, rfl, rfl, rfl, rfl, rfl, rfl, rfl, rfl, rfl, rfl, rfl, rfl, rfl, rfl, rfl, rfl, rfl, rfl, rfl, rfl⟩

@[simp] theorem modHost_fields (f : HostLink → HostLink) (s : State) :
    (s.modHost f).pending = s.pending ∧ (s.modHost f).freeCtr = s.freeCtr ∧ (s.modHost f).aon = s.aon ∧
    (s.modHost f).parts = s.parts ∧ (s.modHost f).tiles = s.tiles ∧ (s.modHost f).imem = s.imem ∧
    (s.modHost f).log = s.log ∧ (s.modHost f).hbm = s.hbm ∧ (s.modHost f).repairs = s.repairs ∧
    (s.modHost f).glazeSlabs = s.glazeSlabs ∧ (s.modHost f).glazeGrans = s.glazeGrans ∧
    (s.modHost f).glazeKey = s.glazeKey ∧ (s.modHost f).acts = s.acts ∧ (s.modHost f).fills = s.fills ∧
    (s.modHost f).host = f s.host ∧ (s.modHost f).pcl = s.pcl ∧ (s.modHost f).tc = s.tc ∧ (s.modHost f).pwr = s.pwr ∧
    (s.modHost f).twin = s.twin ∧ (s.modHost f).mdl = s.mdl ∧ (s.modHost f).evPage = s.evPage ∧
    (s.modHost f).fleet = s.fleet ∧ (s.modHost f).obs = s.obs ∧ (s.modHost f).out = s.out :=
  ⟨rfl, rfl, rfl, rfl, rfl, rfl, rfl, rfl, rfl, rfl, rfl, rfl, rfl, rfl, rfl, rfl, rfl, rfl, rfl, rfl, rfl, rfl, rfl, rfl⟩

@[simp] theorem modPcl_fields (f : Pcl → Pcl) (s : State) :
    (s.modPcl f).pending = s.pending ∧ (s.modPcl f).freeCtr = s.freeCtr ∧ (s.modPcl f).aon = s.aon ∧
    (s.modPcl f).parts = s.parts ∧ (s.modPcl f).tiles = s.tiles ∧ (s.modPcl f).imem = s.imem ∧ (s.modPcl f).log = s.log ∧
    (s.modPcl f).hbm = s.hbm ∧ (s.modPcl f).repairs = s.repairs ∧ (s.modPcl f).glazeSlabs = s.glazeSlabs ∧
    (s.modPcl f).glazeGrans = s.glazeGrans ∧ (s.modPcl f).glazeKey = s.glazeKey ∧ (s.modPcl f).acts = s.acts ∧
    (s.modPcl f).fills = s.fills ∧ (s.modPcl f).host = s.host ∧ (s.modPcl f).pcl = f s.pcl ∧ (s.modPcl f).tc = s.tc ∧
    (s.modPcl f).pwr = s.pwr ∧ (s.modPcl f).twin = s.twin ∧ (s.modPcl f).mdl = s.mdl ∧ (s.modPcl f).evPage = s.evPage ∧
    (s.modPcl f).fleet = s.fleet ∧ (s.modPcl f).obs = s.obs ∧ (s.modPcl f).out = s.out :=
  ⟨rfl, rfl, rfl, rfl, rfl, rfl, rfl, rfl, rfl, rfl, rfl, rfl, rfl, rfl, rfl, rfl, rfl, rfl, rfl, rfl, rfl, rfl, rfl, rfl⟩

@[simp] theorem modTc_fields (f : Tc → Tc) (s : State) :
    (s.modTc f).pending = s.pending ∧ (s.modTc f).freeCtr = s.freeCtr ∧ (s.modTc f).aon = s.aon ∧
    (s.modTc f).parts = s.parts ∧ (s.modTc f).tiles = s.tiles ∧ (s.modTc f).imem = s.imem ∧ (s.modTc f).log = s.log ∧
    (s.modTc f).hbm = s.hbm ∧ (s.modTc f).repairs = s.repairs ∧ (s.modTc f).glazeSlabs = s.glazeSlabs ∧
    (s.modTc f).glazeGrans = s.glazeGrans ∧ (s.modTc f).glazeKey = s.glazeKey ∧ (s.modTc f).acts = s.acts ∧
    (s.modTc f).fills = s.fills ∧ (s.modTc f).host = s.host ∧ (s.modTc f).pcl = s.pcl ∧ (s.modTc f).tc = f s.tc ∧
    (s.modTc f).pwr = s.pwr ∧ (s.modTc f).twin = s.twin ∧ (s.modTc f).mdl = s.mdl ∧ (s.modTc f).evPage = s.evPage ∧
    (s.modTc f).fleet = s.fleet ∧ (s.modTc f).obs = s.obs ∧ (s.modTc f).out = s.out :=
  ⟨rfl, rfl, rfl, rfl, rfl, rfl, rfl, rfl, rfl, rfl, rfl, rfl, rfl, rfl, rfl, rfl, rfl, rfl, rfl, rfl, rfl, rfl, rfl, rfl⟩

@[simp] theorem modPwr_fields (f : Pwr → Pwr) (s : State) :
    (s.modPwr f).pending = s.pending ∧ (s.modPwr f).freeCtr = s.freeCtr ∧ (s.modPwr f).aon = s.aon ∧
    (s.modPwr f).parts = s.parts ∧ (s.modPwr f).tiles = s.tiles ∧ (s.modPwr f).imem = s.imem ∧ (s.modPwr f).log = s.log ∧
    (s.modPwr f).hbm = s.hbm ∧ (s.modPwr f).repairs = s.repairs ∧ (s.modPwr f).glazeSlabs = s.glazeSlabs ∧
    (s.modPwr f).glazeGrans = s.glazeGrans ∧ (s.modPwr f).glazeKey = s.glazeKey ∧ (s.modPwr f).acts = s.acts ∧
    (s.modPwr f).fills = s.fills ∧ (s.modPwr f).host = s.host ∧ (s.modPwr f).pcl = s.pcl ∧ (s.modPwr f).tc = s.tc ∧
    (s.modPwr f).pwr = f s.pwr ∧ (s.modPwr f).twin = s.twin ∧ (s.modPwr f).mdl = s.mdl ∧ (s.modPwr f).evPage = s.evPage ∧
    (s.modPwr f).fleet = s.fleet ∧ (s.modPwr f).obs = s.obs ∧ (s.modPwr f).out = s.out :=
  ⟨rfl, rfl, rfl, rfl, rfl, rfl, rfl, rfl, rfl, rfl, rfl, rfl, rfl, rfl, rfl, rfl, rfl, rfl, rfl, rfl, rfl, rfl, rfl, rfl⟩

@[simp] theorem modTwin_fields (f : Twin → Twin) (s : State) :
    (s.modTwin f).pending = s.pending ∧ (s.modTwin f).freeCtr = s.freeCtr ∧ (s.modTwin f).aon = s.aon ∧
    (s.modTwin f).parts = s.parts ∧ (s.modTwin f).tiles = s.tiles ∧ (s.modTwin f).imem = s.imem ∧
    (s.modTwin f).log = s.log ∧ (s.modTwin f).hbm = s.hbm ∧ (s.modTwin f).repairs = s.repairs ∧
    (s.modTwin f).glazeSlabs = s.glazeSlabs ∧ (s.modTwin f).glazeGrans = s.glazeGrans ∧
    (s.modTwin f).glazeKey = s.glazeKey ∧ (s.modTwin f).acts = s.acts ∧ (s.modTwin f).fills = s.fills ∧
    (s.modTwin f).host = s.host ∧ (s.modTwin f).pcl = s.pcl ∧ (s.modTwin f).tc = s.tc ∧ (s.modTwin f).pwr = s.pwr ∧
    (s.modTwin f).twin = f s.twin ∧ (s.modTwin f).mdl = s.mdl ∧ (s.modTwin f).evPage = s.evPage ∧
    (s.modTwin f).fleet = s.fleet ∧ (s.modTwin f).obs = s.obs ∧ (s.modTwin f).out = s.out :=
  ⟨rfl, rfl, rfl, rfl, rfl, rfl, rfl, rfl, rfl, rfl, rfl, rfl, rfl, rfl, rfl, rfl, rfl, rfl, rfl, rfl, rfl, rfl, rfl, rfl⟩

@[simp] theorem modMdl_fields (f : Module → Module) (s : State) :
    (s.modMdl f).pending = s.pending ∧ (s.modMdl f).freeCtr = s.freeCtr ∧ (s.modMdl f).aon = s.aon ∧
    (s.modMdl f).parts = s.parts ∧ (s.modMdl f).tiles = s.tiles ∧ (s.modMdl f).imem = s.imem ∧ (s.modMdl f).log = s.log ∧
    (s.modMdl f).hbm = s.hbm ∧ (s.modMdl f).repairs = s.repairs ∧ (s.modMdl f).glazeSlabs = s.glazeSlabs ∧
    (s.modMdl f).glazeGrans = s.glazeGrans ∧ (s.modMdl f).glazeKey = s.glazeKey ∧ (s.modMdl f).acts = s.acts ∧
    (s.modMdl f).fills = s.fills ∧ (s.modMdl f).host = s.host ∧ (s.modMdl f).pcl = s.pcl ∧ (s.modMdl f).tc = s.tc ∧
    (s.modMdl f).pwr = s.pwr ∧ (s.modMdl f).twin = s.twin ∧ (s.modMdl f).mdl = f s.mdl ∧ (s.modMdl f).evPage = s.evPage ∧
    (s.modMdl f).fleet = s.fleet ∧ (s.modMdl f).obs = s.obs ∧ (s.modMdl f).out = s.out :=
  ⟨rfl, rfl, rfl, rfl, rfl, rfl, rfl, rfl, rfl, rfl, rfl, rfl, rfl, rfl, rfl, rfl, rfl, rfl, rfl, rfl, rfl, rfl, rfl, rfl⟩

@[simp] theorem setEvPage_fields (v : BitVec 4) (s : State) :
    (s.setEvPage v).pending = s.pending ∧ (s.setEvPage v).freeCtr = s.freeCtr ∧ (s.setEvPage v).aon = s.aon ∧
    (s.setEvPage v).parts = s.parts ∧ (s.setEvPage v).tiles = s.tiles ∧ (s.setEvPage v).imem = s.imem ∧
    (s.setEvPage v).log = s.log ∧ (s.setEvPage v).hbm = s.hbm ∧ (s.setEvPage v).repairs = s.repairs ∧
    (s.setEvPage v).glazeSlabs = s.glazeSlabs ∧ (s.setEvPage v).glazeGrans = s.glazeGrans ∧
    (s.setEvPage v).glazeKey = s.glazeKey ∧ (s.setEvPage v).acts = s.acts ∧ (s.setEvPage v).fills = s.fills ∧
    (s.setEvPage v).host = s.host ∧ (s.setEvPage v).pcl = s.pcl ∧ (s.setEvPage v).tc = s.tc ∧ (s.setEvPage v).pwr = s.pwr ∧
    (s.setEvPage v).twin = s.twin ∧ (s.setEvPage v).mdl = s.mdl ∧ (s.setEvPage v).evPage = v ∧
    (s.setEvPage v).fleet = s.fleet ∧ (s.setEvPage v).obs = s.obs ∧ (s.setEvPage v).out = s.out :=
  ⟨rfl, rfl, rfl, rfl, rfl, rfl, rfl, rfl, rfl, rfl, rfl, rfl, rfl, rfl, rfl, rfl, rfl, rfl, rfl, rfl, rfl, rfl, rfl, rfl⟩

@[simp] theorem setFleet_fields (v : Word) (s : State) :
    (s.setFleet v).pending = s.pending ∧ (s.setFleet v).freeCtr = s.freeCtr ∧ (s.setFleet v).aon = s.aon ∧
    (s.setFleet v).parts = s.parts ∧ (s.setFleet v).tiles = s.tiles ∧ (s.setFleet v).imem = s.imem ∧
    (s.setFleet v).log = s.log ∧ (s.setFleet v).hbm = s.hbm ∧ (s.setFleet v).repairs = s.repairs ∧
    (s.setFleet v).glazeSlabs = s.glazeSlabs ∧ (s.setFleet v).glazeGrans = s.glazeGrans ∧
    (s.setFleet v).glazeKey = s.glazeKey ∧ (s.setFleet v).acts = s.acts ∧ (s.setFleet v).fills = s.fills ∧
    (s.setFleet v).host = s.host ∧ (s.setFleet v).pcl = s.pcl ∧ (s.setFleet v).tc = s.tc ∧ (s.setFleet v).pwr = s.pwr ∧
    (s.setFleet v).twin = s.twin ∧ (s.setFleet v).mdl = s.mdl ∧ (s.setFleet v).evPage = s.evPage ∧
    (s.setFleet v).fleet = v ∧ (s.setFleet v).obs = s.obs ∧ (s.setFleet v).out = s.out :=
  ⟨rfl, rfl, rfl, rfl, rfl, rfl, rfl, rfl, rfl, rfl, rfl, rfl, rfl, rfl, rfl, rfl, rfl, rfl, rfl, rfl, rfl, rfl, rfl, rfl⟩

@[simp] theorem modObs_fields (f : Nat × Nat → Nat × Nat) (s : State) :
    (s.modObs f).pending = s.pending ∧ (s.modObs f).freeCtr = s.freeCtr ∧ (s.modObs f).aon = s.aon ∧
    (s.modObs f).parts = s.parts ∧ (s.modObs f).tiles = s.tiles ∧ (s.modObs f).imem = s.imem ∧ (s.modObs f).log = s.log ∧
    (s.modObs f).hbm = s.hbm ∧ (s.modObs f).repairs = s.repairs ∧ (s.modObs f).glazeSlabs = s.glazeSlabs ∧
    (s.modObs f).glazeGrans = s.glazeGrans ∧ (s.modObs f).glazeKey = s.glazeKey ∧ (s.modObs f).acts = s.acts ∧
    (s.modObs f).fills = s.fills ∧ (s.modObs f).host = s.host ∧ (s.modObs f).pcl = s.pcl ∧ (s.modObs f).tc = s.tc ∧
    (s.modObs f).pwr = s.pwr ∧ (s.modObs f).twin = s.twin ∧ (s.modObs f).mdl = s.mdl ∧ (s.modObs f).evPage = s.evPage ∧
    (s.modObs f).fleet = s.fleet ∧ (s.modObs f).obs = f s.obs ∧ (s.modObs f).out = s.out :=
  ⟨rfl, rfl, rfl, rfl, rfl, rfl, rfl, rfl, rfl, rfl, rfl, rfl, rfl, rfl, rfl, rfl, rfl, rfl, rfl, rfl, rfl, rfl, rfl, rfl⟩

@[simp] theorem setAon_fields (v : DWord) (s : State) :
    (s.setAon v).pending = s.pending ∧ (s.setAon v).freeCtr = s.freeCtr ∧ (s.setAon v).aon = v ∧
    (s.setAon v).parts = s.parts ∧ (s.setAon v).tiles = s.tiles ∧ (s.setAon v).imem = s.imem ∧ (s.setAon v).log = s.log ∧
    (s.setAon v).hbm = s.hbm ∧ (s.setAon v).repairs = s.repairs ∧ (s.setAon v).glazeSlabs = s.glazeSlabs ∧
    (s.setAon v).glazeGrans = s.glazeGrans ∧ (s.setAon v).glazeKey = s.glazeKey ∧ (s.setAon v).acts = s.acts ∧
    (s.setAon v).fills = s.fills ∧ (s.setAon v).host = s.host ∧ (s.setAon v).pcl = s.pcl ∧ (s.setAon v).tc = s.tc ∧
    (s.setAon v).pwr = s.pwr ∧ (s.setAon v).twin = s.twin ∧ (s.setAon v).mdl = s.mdl ∧ (s.setAon v).evPage = s.evPage ∧
    (s.setAon v).fleet = s.fleet ∧ (s.setAon v).obs = s.obs ∧ (s.setAon v).out = s.out :=
  ⟨rfl, rfl, rfl, rfl, rfl, rfl, rfl, rfl, rfl, rfl, rfl, rfl, rfl, rfl, rfl, rfl, rfl, rfl, rfl, rfl, rfl, rfl, rfl, rfl⟩

@[simp] theorem modFree_fields (s : State) :
    (s.modFree).pending = s.pending ∧ (s.modFree).freeCtr = s.freeCtr + 1 ∧ (s.modFree).aon = s.aon ∧
    (s.modFree).parts = s.parts ∧ (s.modFree).tiles = s.tiles ∧ (s.modFree).imem = s.imem ∧ (s.modFree).log = s.log ∧
    (s.modFree).hbm = s.hbm ∧ (s.modFree).repairs = s.repairs ∧ (s.modFree).glazeSlabs = s.glazeSlabs ∧
    (s.modFree).glazeGrans = s.glazeGrans ∧ (s.modFree).glazeKey = s.glazeKey ∧ (s.modFree).acts = s.acts ∧
    (s.modFree).fills = s.fills ∧ (s.modFree).host = s.host ∧ (s.modFree).pcl = s.pcl ∧ (s.modFree).tc = s.tc ∧
    (s.modFree).pwr = s.pwr ∧ (s.modFree).twin = s.twin ∧ (s.modFree).mdl = s.mdl ∧ (s.modFree).evPage = s.evPage ∧
    (s.modFree).fleet = s.fleet ∧ (s.modFree).obs = s.obs ∧ (s.modFree).out = s.out :=
  ⟨rfl, rfl, rfl, rfl, rfl, rfl, rfl, rfl, rfl, rfl, rfl, rfl, rfl, rfl, rfl, rfl, rfl, rfl, rfl, rfl, rfl, rfl, rfl, rfl⟩

@[simp] theorem modHbm_fields (f : Hbm → Hbm) (s : State) :
    (s.modHbm f).pending = s.pending ∧ (s.modHbm f).freeCtr = s.freeCtr ∧ (s.modHbm f).aon = s.aon ∧
    (s.modHbm f).parts = s.parts ∧ (s.modHbm f).tiles = s.tiles ∧ (s.modHbm f).imem = s.imem ∧ (s.modHbm f).log = s.log ∧
    (s.modHbm f).hbm = f s.hbm ∧ (s.modHbm f).repairs = s.repairs ∧ (s.modHbm f).glazeSlabs = s.glazeSlabs ∧
    (s.modHbm f).glazeGrans = s.glazeGrans ∧ (s.modHbm f).glazeKey = s.glazeKey ∧ (s.modHbm f).acts = s.acts ∧
    (s.modHbm f).fills = s.fills ∧ (s.modHbm f).host = s.host ∧ (s.modHbm f).pcl = s.pcl ∧ (s.modHbm f).tc = s.tc ∧
    (s.modHbm f).pwr = s.pwr ∧ (s.modHbm f).twin = s.twin ∧ (s.modHbm f).mdl = s.mdl ∧ (s.modHbm f).evPage = s.evPage ∧
    (s.modHbm f).fleet = s.fleet ∧ (s.modHbm f).obs = s.obs ∧ (s.modHbm f).out = s.out :=
  ⟨rfl, rfl, rfl, rfl, rfl, rfl, rfl, rfl, rfl, rfl, rfl, rfl, rfl, rfl, rfl, rfl, rfl, rfl, rfl, rfl, rfl, rfl, rfl, rfl⟩

@[simp] theorem emit_fields (o : Out) (s : State) :
    (emit o s).pending = s.pending ∧ (emit o s).freeCtr = s.freeCtr ∧ (emit o s).aon = s.aon ∧ (emit o s).parts = s.parts ∧
    (emit o s).tiles = s.tiles ∧ (emit o s).imem = s.imem ∧ (emit o s).log = s.log ∧ (emit o s).hbm = s.hbm ∧
    (emit o s).repairs = s.repairs ∧ (emit o s).glazeSlabs = s.glazeSlabs ∧ (emit o s).glazeGrans = s.glazeGrans ∧
    (emit o s).glazeKey = s.glazeKey ∧ (emit o s).acts = s.acts ∧ (emit o s).fills = s.fills ∧ (emit o s).host = s.host ∧
    (emit o s).pcl = s.pcl ∧ (emit o s).tc = s.tc ∧ (emit o s).pwr = s.pwr ∧ (emit o s).twin = s.twin ∧
    (emit o s).mdl = s.mdl ∧ (emit o s).evPage = s.evPage ∧ (emit o s).fleet = s.fleet ∧ (emit o s).obs = s.obs ∧
    (emit o s).out = o :: s.out :=
  ⟨rfl, rfl, rfl, rfl, rfl, rfl, rfl, rfl, rfl, rfl, rfl, rfl, rfl, rfl, rfl, rfl, rfl, rfl, rfl, rfl, rfl, rfl, rfl, rfl⟩

/-! A partition and a tile after a change. -/

theorem part_modPart_self (p : Nat) (f : Part → Part) (s : State) (h : p < s.parts.length) :
    (s.modPart p f).part p = f (s.part p) := by
  simp [State.part, State.modPart, nth, h]

@[simp] theorem part_modPart_other {p q : Nat} (f : Part → Part) (s : State) (h : q ≠ p) :
    (s.modPart p f).part q = s.part q := by
  simp [State.part, State.modPart, nth, Ne.symm h]

theorem tile_modTile_self (t : Nat) (f : Tile → Tile) (s : State) (h : t < s.tiles.length) :
    (s.modTile t f).tile t = f (s.tile t) := by
  simp [State.tile, State.modTile, nth, h]

@[simp] theorem tile_modTile_other {t u : Nat} (f : Tile → Tile) (s : State) (h : u ≠ t) :
    (s.modTile t f).tile u = s.tile u := by
  simp [State.tile, State.modTile, nth, Ne.symm h]

@[simp] theorem tile_modPart (p t : Nat) (f : Part → Part) (s : State) : (s.modPart p f).tile t = s.tile t := rfl
@[simp] theorem part_modTile (p t : Nat) (f : Tile → Tile) (s : State) : (s.modTile t f).part p = s.part p := rfl

end Sys2Proof.Machine
end

