-- ==== Sys2Proof/Laws/Slots.lean ====
section
/-!
SUPPORT. The slots of a bundle: a slot that is a NOP does nothing, and a stream at rest goes on with nothing landing.
-/

namespace Sys2Proof.Machine

@[simp] theorem fld_zero (lo w : Nat) : fld 0 lo w = 0 := by simp [fld]

theorem nop_ctl : nopBundle.ctl = ⟨0, 0, 0, 0, false, 0, 0, 0, 0⟩ := by
  show decodeCtl (fld 0 0 64) = _; rw [fld_zero]; decide
theorem nop_scl : nopBundle.scl = ⟨0, 0, 0, 0, 0⟩ := by
  show decodeScl (fld 0 64 64) = _; rw [fld_zero]; decide
theorem nop_arr : nopBundle.arr = List.replicate 4 ⟨0, 0, 0, false, false, 0, 0, 0, 0, false, 0, false, 0, 0, 0⟩ := by
  show [decodeArr (fld 0 128 96), decodeArr (fld 0 224 96), decodeArr (fld 0 320 96), decodeArr (fld 0 416 96)] = _
  simp only [fld_zero]; decide
theorem nop_vec : nopBundle.vec =
    ⟨0, 0, 0, 0, 0, 0, 0, 0, 0, 0, 0, 0, 0, 0, 0, 0, 0, 0, 0, 0, 0, false, 0, 0, 0, 0⟩ := by
  show decodeVec (fld 0 512 160) = _; rw [fld_zero]; decide
theorem nop_upd : nopBundle.upd = ⟨0, 0, 0, 0, 0, 0, 0, 0⟩ := by
  show decodeUpd (fld 0 672 96) = _; rw [fld_zero]; decide
theorem nop_mov : nopBundle.mov = List.replicate 2 ⟨0, 0, 0, 0, 0, 0⟩ := by
  show [decodeMov (fld 0 768 48), decodeMov (fld 0 816 48)] = _
  simp only [fld_zero]; decide
theorem nop_mem : nopBundle.mem = ⟨0, 0, 0, 0, 0, 0⟩ := by
  show decodeMem (fld 0 864 64) = _; rw [fld_zero]; decide
theorem nop_xch : nopBundle.xch = ⟨0, 0, 0, 0, 0⟩ := by
  show decodeXch (fld 0 928 64) = _; rw [fld_zero]; decide

theorem forEach_id {α σ : Type} (l : List α) (f : α → σ → σ) (h : ∀ a s, f a s = s) (s : σ) : forEach l f s = s := by
  unfold forEach
  induction l with
  | nil => rfl
  | cons a l ih => rw [List.foldl_cons, h]; exact ih

/-! Each slot's NOP. -/

theorem arrOnce_nop (p : Nat) (s : State) : arrOnce p ((nopBundle.arr.zipIdx.map (fun e => (e.2, e.1)))) s = s := by
  rw [nop_arr]
  simp [arrOnce, flipArrays, arrClamps, macSlots, flipsOf, forEach, clampIf, List.replicate, List.zipIdx]

theorem arrCycle_nop (p k H : Nat) (s : State) : arrCycle p ((nopBundle.arr.zipIdx.map (fun e => (e.2, e.1)))) k H s = s := by
  rw [nop_arr]
  refine forEach_id _ _ (fun t s => ?_) s
  simp [accTile, macTile, macSlots, forEach, List.replicate, List.zipIdx]

theorem sclSlot_nop (p : Nat) (skip : Option SReg) (s : State) : sclSlot p nopBundle.scl skip s = s := by
  rw [nop_scl]
  simp [sclSlot, sclAlu, sclKnown, clampIf]

theorem vecOnce_nop (p : Nat) (s : State) : vecOnce p nopBundle.vec s = s := by
  rw [nop_vec]
  simp [vecOnce, vecClamps, vecNop, clampIf]

theorem vecCycle_nop (p : Nat) (sc : Nat → DWord) (k H : Nat) (s : State) : vecCycle p nopBundle.vec sc k H s = s := by
  rw [nop_vec]
  simp [vecCycle, vecNop]

theorem updClamps_nop (p : Nat) (s : State) : updClamps p nopBundle.upd s = s := by
  rw [nop_upd]
  simp [updClamps]

theorem updCycle_nop (p : Nat) (sc : Nat → DWord) (k H : Nat) (s : State) : updCycle p nopBundle.upd sc k H s = s := by
  rw [nop_upd]
  simp [updCycle]

theorem movClamps_nop (p : Nat) (s : State) : movClamps p nopBundle.mov s = s := by
  rw [nop_mov]
  simp [movClamps, forEach, clampIf, movLeaves, movRuns, List.replicate]

theorem movCycles_nop (p k : Nat) (s : State) :
    forEach nopBundle.mov.zipIdx (fun e s => movCycle p (BitVec.ofNat 1 e.2) e.1 k s) s = s := by
  rw [nop_mov]
  simp [forEach, movCycle, movRuns, List.replicate, List.zipIdx]

theorem memSlot_nop (p : Nat) (s : State) : memSlot p nopBundle.mem s = s := by
  rw [nop_mem]
  simp [memSlot]

theorem xchSlot_nop (p : Nat) (s : State) : xchSlot p nopBundle.xch s = s := by
  rw [nop_xch]
  simp [xchSlot]

/-! Changes of one partition, one after another. -/

theorem modPart_modPart (p : Nat) (f g : Part → Part) (s : State) : (s.modPart p f).modPart p g = s.modPart p (fun q => g (f q)) := by
  simp only [State.modPart]
  congr 1
  apply List.ext_getElem
  · simp
  · intro i h1 h2; simp [List.getElem_modify]; split <;> rfl

theorem modPart_congr (p : Nat) (f g : Part → Part) (s : State) (h : f (s.part p) = g (s.part p)) : s.modPart p f = s.modPart p g := by
  simp only [State.modPart]
  congr 1
  apply List.ext_getElem
  · simp
  · intro i h1 h2
    simp only [List.length_modify] at h1 h2
    simp only [List.getElem_modify]
    split
    · rename_i e; subst e; simpa [State.part, nth, h1] using h
    · rfl

/-- With nothing on its way the clock only moves. -/
theorem advance_rest (p c : Nat) (s : State) (h : (s.part p).seq.inflight = []) (hl : (s.part p).seq.loaders = []) :
    advance p c s = s.modPart p (fun q => { q with seq := { q.seq with
      cyc := Nat.max q.seq.cyc c
      hot := if q.seq.hotCyc < c then [] else q.seq.hot
      hotLines := if q.seq.hotCyc < c then [] else q.seq.hotLines
      hotCyc := Nat.max q.seq.hotCyc c } }) := by
  simp only [advance, advanceIf, State.seq, h, List.filter_nil, forEach, List.foldl_nil, State.modSeq, modPart_modPart]
  apply modPart_congr
  simp [h, hl]
/-! A bundle with one slot that acts. -/

theorem slotsOnce_scl (p : Nat) (x : SclSlot) (skip : Option SReg) (s : State) :
    slotsOnce p { nopBundle with scl := x } skip s = sclSlot p x skip s := by
  have h3 : ¬ nopBundle.upd.op = 3 := by rw [nop_upd]; decide
  have h4 : ¬ nopBundle.upd.op = 4 := by rw [nop_upd]; decide
  simp only [slotsOnce, arrsOf, arrOnce_nop, vecOnce_nop, updClamps_nop, h3, h4, if_false, movClamps_nop, memSlot_nop,
    xchSlot_nop]

theorem slotsCycle_scl (p : Nat) (x : SclSlot) (sc : Nat → DWord) (k H : Nat) (s : State) :
    slotsCycle p { nopBundle with scl := x } sc k H s = s := by
  simp only [slotsCycle, arrsOf, arrCycle_nop, vecCycle_nop, updCycle_nop, movCycles_nop]

theorem flips_nop : flipsOf (arrsOf nopBundle) = [] := by
  simp only [arrsOf, nop_arr]; decide

/-- What `State.rested` says. -/
theorem rested_iff (s : State) (p : Nat) : s.rested p = true ↔
    s.Shaped ∧ p < 32 ∧ (s.part p).live = true ∧ (s.part p).ctx.loaded = true ∧ (s.part p).seq.inflight = [] ∧
      (s.part p).seq.gates = [] ∧ (s.part p).seq.loaders = [] ∧ (s.part p).seq.hot = [] ∧ (s.part p).seq.hotLines = [] ∧
      (s.part p).seq.hotCyc = (s.part p).seq.cyc ∧ (s.part p).clampLow = none := by
  simp [State.rested, State.Shaped, and_assoc]

/-- What `State.quiet` says. -/
theorem quiet_iff (s : State) (p : Nat) : s.quiet p = true ↔
    s.rested p = true ∧ maySequence s p = true ∧ s.pwr.stall = false ∧ (s.part p).seq.stall = none ∧
      (s.part p).seq.heldFlip = none ∧ (s.part p).seq.heldLoad = none ∧ (s.part p).ctx.again = none := by
  simp [State.quiet, and_assoc]

theorem rested_of_quiet {s : State} {p : Nat} (h : s.quiet p = true) : s.rested p = true := ((quiet_iff s p).1 h).1

/-- A stream at rest that may issue issues any bundle. -/
theorem mayAlone_of_quiet {s : State} {p : Nat} (h : s.quiet p = true) (b : Bundle) : mayAlone s p b = true := by
  obtain ⟨hr, hm, -, h1, h2, h3, h4⟩ := (quiet_iff s p).1 h
  obtain ⟨-, -, -, hc, -, hg, -⟩ := (rested_iff s p).1 hr
  simp [mayAlone, hm, hc, h1, h2, h3, h4, hg]

/-- Without the limiter's stall every cycle is one in which bundles issue. -/
theorem evenCycle_of_quiet {s : State} {p : Nat} (h : s.quiet p = true) : evenCycle p s = s := by
  simp [evenCycle, ((quiet_iff s p).1 h).2.2.1]

theorem part_of_shaped {p : Nat} (f : Part → Part) (s : State) (hs : s.Shaped) (hp : p < 32) :
    (s.modPart p f).part p = f (s.part p) := by
  have : s.parts.length = 32 := congrArg (·.1) hs
  exact part_modPart_self p f s (by omega)

theorem modPart_id (p : Nat) (f : Part → Part) (s : State) (h : f (s.part p) = s.part p) : s.modPart p f = s := by
  rw [modPart_congr p f id s (by simpa using h)]
  simp [State.modPart, List.modify_id]

/-- A change of a partition's stream to what it is changes nothing. -/
theorem modSeq_id (p : Nat) (f : Seq → Seq) (s : State) (h : f (s.part p).seq = (s.part p).seq) : s.modSeq p f = s :=
  modPart_id p _ s (by rw [h])

/-- With no gate unresolved nothing is charged. -/
theorem chargeAhead_rest (p : Nat) (b : Bundle) (s : State) (h : (s.part p).seq.gates = []) : chargeAhead p b s = s := by
  unfold chargeAhead
  apply modSeq_id
  rw [h, List.map_nil, ← h]

theorem advance_now (p c : Nat) (s : State) (h : s.rested p = true) (hc : c ≤ (s.part p).seq.cyc) : advance p c s = s := by
  obtain ⟨hs, hp, hl, hx, h1, h2, h3, h4, h5, h6, -⟩ := (rested_iff s p).1 h
  rw [advance_rest p c s h1 h3]
  apply modPart_id
  have e1 : Nat.max (s.part p).seq.cyc c = (s.part p).seq.cyc := Nat.max_eq_left hc
  have e2 : Nat.max (s.part p).seq.hotCyc c = (s.part p).seq.hotCyc := by rw [h6]; exact e1
  simp only [e1, e2, h4, h5, ite_self]
  rw [← h4, ← h5]

/-- The state in which a bundle issued alone has counted as issued and opened its first cycle. -/
def opened (p : Nat) (s : State) : State := clampCycle p true (s.modSeq p (fun x => { x with quietAt := x.cyc + 16 }))

/-- A bundle without FLIP and LOAD issues alone at once, on a stream that may issue. -/
theorem slotAlone_quiet (p : Nat) (b : Bundle) (s : State) (h : s.quiet p = true) (hf : flipsOf (arrsOf b) = [])
    (hl : loadFrom (s.part p).seq b = 0) : slotAlone p b s = runSlots p b none (opened p s) := by
  have hg := ((rested_iff s p).1 (rested_of_quiet h)).2.2.2.2.2.1
  have h0 := advance_now p 0 s (rested_of_quiet h) (Nat.zero_le _)
  simp only [slotAlone, mayAlone_of_quiet h, evenCycle_of_quiet h, hf, flipFrom, flipReady, lateFlips, opened]
  simp [forEach, maxL, h0, State.seq, hl, chargeAhead_rest p b s hg]

/-- An SCL slot alone, at rest. -/
theorem sclAlone_rest (p : Nat) (op : BitVec 6) (d a b : SReg) (imm : BitVec 40) (s : State) (h : s.quiet p = true) :
    sclAlone p op d a b imm s =
      clampCycle p false (advance p ((s.part p).seq.cyc + 1) (sclSlot p ⟨op, d, a, b, imm⟩ none (opened p s))) := by
  obtain ⟨hs, hp, -⟩ := (rested_iff s p).1 (rested_of_quiet h)
  have hlf : loadFrom (s.part p).seq { nopBundle with scl := ⟨op, d, a, b, imm⟩ } = 0 := by
    simp only [loadFrom, arrsOf, nop_arr]
    simp [List.replicate, List.zipIdx, maxL]
  have hh : holdOf ({ nopBundle with scl := ⟨op, d, a, b, imm⟩ } : Bundle).ctl.hold = 1 := by
    show holdOf nopBundle.ctl.hold = 1
    rw [nop_ctl]; rfl
  have ec : ((opened p s).part p).seq.cyc = (s.part p).seq.cyc := by
    simp only [opened, clampCycle, State.modSeq, modPart_modPart, part_of_shaped _ s hs hp]
  have hf : flipsOf (arrsOf { nopBundle with scl := ⟨op, d, a, b, imm⟩ }) = [] := flips_nop
  rw [sclAlone, slotAlone_quiet p _ s h hf hlf]
  simp only [runSlots, hf, hh, if_true, now, State.seq, slotsOnce_scl, slotsCycle_scl, forEach, upTo, Nat.add_zero]
  simp [ec]

end Sys2Proof.Machine
end

