-- ==== Sys2Proof/Tests/Slice0.lean ====
section
/-!
SUPPORT. Tests: that a well-formedness check refuses an ill-formed term, what a few commands give, and for every statement with
hypotheses a concrete state and operands that meet them.
-/

namespace Sys2Proof.Tests

set_option Elab.async false

open Sys2Proof.Machine

/-! Sample states. Partition 3 owns granules 0 and 2, its stream is at rest at cycle 1,000, context F holds a program. -/

def ctxS : Ctx := { ctx0 with
  loaded := true, pc := 5, lo := 2, hi := 40, idx := 2, nissued := 4, stack := [9]
  sregs := [(1, 7), (2, 0xFFFFFFFFFFFFFFFF), (3, 0x3F800000), (4, 0x40490FDB), (5, 1)] }
def partS : Part := { part0 with granules := 5, pstate := 1, ctxF := ctxS, seq := { seq0 with cyc := 1000, hotCyc := 1000 } }

/-- The reset state with another partition 3. -/
def withPart (q : Part) : State := { State.reset with parts := State.reset.parts.set 3 q }
def smp : State := withPart partS

/-- `State.Shaped`, as a check. -/
def shaped (s : State) : Bool := decide (s.lens = (32, 128, 32))
theorem shaped_Shaped {s : State} (h : shaped s = true) : s.Shaped := of_decide_eq_true (p := s.lens = (32, 128, 32)) h

/-- The state after a command. -/
def after (c : Instr) (s : State) : State := match exec c s with | .next t => t | _ => s

/-! Scalar slots, gates, contexts (for the statements up to `ContextSwitches`). -/

/-- The CTL slot of the bundle at 5: hold 3, a gate of a class on token 9, RA, GDST 12, GPRS 2. -/
def ctlBytes (cls : Nat) (ra : Bool) : List Byte :=
  leBytes 128 (3 * 2 ^ 51 + cls * 2 ^ 47 + 9 * 2 ^ 39 + (if ra then 2 ^ 38 else 0) + 12 * 2 ^ 32 + 2 * 2 ^ 26)
def gated (cls : Nat) (ra : Bool) (cnt : Nat) (pois : Bool) : State :=
  { withPart { partS with seq := { partS.seq with memTok := [(9, ⟨cnt, if pois then [4] else [], []⟩)] } } with
    imem := State.reset.imem.set 0 (wrBytes [] (128 * 5) (ctlBytes cls ra)) }
def ctl12 (cls : BitVec 4) (ra : Bool) : Bundle := { nopBundle with ctl := ⟨0, 3, cls, 9, ra, 12, 2, 0, 0⟩ }

/-- `StepRunsFront`, `IdleStepTicks`, `CommandsKeepTheirFootprint`, `EveryStepKeepsTheShape`, `FusesOnlyBlow`. -/
theorem witness_Steps : shaped smp = true ∧ smp.pending = [] ∧ smp.mdl.pgood = true ∧ inRun (smp.modPwr (fun w => { w with state := 3 })) = false ∧
    ({ smp with mdl := { smp.mdl with pgood := false } } : State).mdl.pgood = false ∧ exec .evtCtlFrclr smp = .next (after .evtCtlFrclr smp) ∧
    step { smp with pending := [.evtCtlFrclr] } = .next (after .evtCtlFrclr smp) := by
  refine ⟨by decide +kernel, by decide +kernel, by decide +kernel, by decide +kernel, by decide +kernel, rfl, rfl⟩

/-- `SclArithmetic`, `SclScratchpad`, `SclRegisterAccess`, `CheckValueUnit`, `CtlAndProgramEnd`: a stream at rest, in context F, with a return
address; with a feed queued; with a program that an entry started. -/
theorem witness_rest : smp.Shaped ∧ smp.quiet 3 = true ∧ (smp.seq 3).ctxB = false ∧ (smp.part 3).ctx.stack = [9] ∧
    (withPart { partS with cvu := { cvu0 with queue := [[1, 2]] } }).quiet 3 = true ∧
    (withPart { partS with ctxF := { ctxS with head := some ⟨3, 2, true, 9, 1, 0, 0⟩ } }).quiet 3 = true :=
  ⟨rfl, by decide +kernel⟩

theorem witness_BundleIssueEvaluatesItsGate :
    (∀ x ∈ [((0 : BitVec 4), 0), (1, 0), (1, 2)],
      let s := gated x.1.toNat false x.2 true
      s.quiet 3 = true ∧ s.acts = [] ∧ (s.seq 3).ctxB = false ∧ bundleAt s 3 = ctl12 x.1 false ∧
        (mget tok0 (s.seq 3).memTok 9).cnt = x.2 ∧ mget 0 (s.seq 3).came (256 + 9) = 0) ∧
    (∀ c ∈ [998, 999, 1000],
      let s := (gated 1 false 0 true).modSeq 3 (fun q => { q with came := [(256 + 9, c)] })
      s.quiet 3 = true ∧ s.acts = [] ∧ (s.seq 3).ctxB = false ∧ bundleAt s 3 = ctl12 1 false ∧ (s.seq 3).cyc = 1000 ∧
        mget 0 (s.seq 3).came (256 + 9) = c) := by
  decide +kernel

theorem witness_StallsAndRunAhead :
    (let s := gated 1 false 0 true
     s.quiet 3 = true ∧ s.acts = [] ∧ (s.seq 3).ctxB = false ∧ bundleAt s 3 = ctl12 1 false ∧ (mget tok0 (s.seq 3).memTok 9).cnt = 0 ∧
      (⟨5, 990, 1, 9⟩ : Stall).cls = 1) ∧
    (let s := (gated 1 false 0 true).modSeq 3 (fun q => { q with undo := some ⟨5, 20, 77, 1016⟩ })
     let s' := advance 3 1016 (s.modSeq 3 (fun q => { q with undo := none }))
     s.rested 3 = true ∧ (s.seq 3).undo = some ⟨5, 20, 77, 1016⟩ ∧ (s.seq 3).ctxB = false ∧
      ∀ a ∈ (bundleAt s' 3).arr, a.flip = false ∧ a.op ≠ 2 ∧ a.op ≠ 3) ∧
    (let s := gated 1 true 2 true
     s.quiet 3 = true ∧ s.acts = [] ∧ (s.seq 3).ctxB = false ∧ bundleAt s 3 = ctl12 1 true ∧ (mget tok0 (s.seq 3).memTok 9).cnt ≠ 0 ∧
      (s.part 3).ctxF.ractl.getLsbD 0 = true ∧ (s.part 3).ctxF.pc + 1 < (s.part 3).ctxF.hi ∧
      (s.part 3).ctxF.lo ≤ (s.part 3).ctxF.pc + 1) := by
  decide +kernel

/-- A gate on token 9 that the bundle at 5 left unresolved with the prediction `v`, its memory token resolved since. -/
def aheadS (v : DWord) : State :=
  (after (.bundleIssue 3) ((gated 1 true 2 true).modCtx 3 false (Ctx.setSreg 2 v))).modSeq 3 (fun q => { q with memTok := [] })
def queued (a : CqAct) : State := withPart { partS with seq := { partS.seq with commitQ := [⟨7, 1, a⟩] } }
def slX : XchSlot := nopBundle.xch

theorem witness_GatesCommitOrMispredict :
    (let s := aheadS 0
     shaped s = true ∧ maySequence s 3 = true ∧ (s.part 3).ctxF.loaded = true ∧ (s.seq 3).ctxB = false ∧
      (mget tok0 (s.seq 3).memTok 9).cnt = 0 ∧ (s.part 3).queues.isEmpty = true ∧
      (s.seq 3).gates.map (fun g => (g.cls, g.outcome, g.pred, g.sel)) = [(1, none, 0, 9)] ∧
      (s.seq 3).gates.all (fun g => g.flags.isEmpty && g.flips.isEmpty) = true) ∧
    (let s := aheadS 5
     shaped s = true ∧ maySequence s 3 = true ∧ (s.part 3).ctxF.loaded = true ∧ (s.seq 3).ctxB = false ∧
      (mget tok0 (s.seq 3).memTok 9).cnt = 0 ∧
      (s.seq 3).gates.map (fun g => (g.cls, g.outcome, g.pred, g.sel)) = [(1, none, 5, 9)] ∧
      (s.seq 3).gates.all (fun g => g.flags.isEmpty && g.flips.isEmpty) = true) ∧
    (∀ a ∈ [CqAct.complete 4, .cvuMismatch false, .cvuMismatch true, .fault 0x30 8, .memWrite [(0, [], false)] 4 1,
        .xch slX [] false, .swap 2 true []],
      shaped (queued a) = true ∧ ((queued a).seq 3).commitQ.map (·.act) = [a] ∧ ((queued a).seq 3).holder 7 = none) ∧
    (let s := (aheadS 5).modSeq 3 (fun q => { q with commitQ := [⟨q.nextGate - 1, 1, .complete 4⟩] })
     shaped s = true ∧ ((s.seq 3).holder ((s.seq 3).nextGate - 1)).isSome = true) :=
  by
  decide +kernel

def ctxSB : Ctx := { ctxS with pc := 39, stack := [] }

theorem witness_ContextSwitches :
    (let s := withPart { partS with ctxF := ctx0, ctxB := ctxSB }
     shaped s = true ∧ maySequence s 3 = true ∧ (s.seq 3).ctxB = false ∧ (s.part 3).ctxB.loaded = true ∧
      (s.part 3).ctxF.loaded = false ∧ (s.seq 3).gates = [] ∧ (s.seq 3).heldFlip = none ∧ (s.seq 3).heldLoad = none) ∧
    (let s := withPart { partS with ctxB := ctxSB, seq := { partS.seq with ctxB := true, preempt := true, stall := some ⟨3, 1, 1, 1⟩ } }
     maySequence s 3 = true ∧ (s.seq 3).ctxB = true ∧ (s.seq 3).preempt = true ∧ (s.part 3).ctxF.loaded = true ∧
      (s.seq 3).gates = [] ∧ (s.seq 3).stall.isSome = true) ∧
    (let s := withPart { partS with ctxF := ctx0, ctxB := ctxSB, seq := { partS.seq with switch := some ⟨true, 1024⟩ } }
     shaped s = true ∧ (s.seq 3).switch = some ⟨true, 1024⟩ ∧ (s.seq 3).inflight = [] ∧ (s.seq 3).loaders = [] ∧
      (s.part 3).ctxF.loaded = false ∧ (s.part 3).ctxB.again = none) := by
  decide +kernel

/-! Tile units (for the statements `ArrComputes` to `MemOpcodes`). -/

def arrS : ArrSlot := nth (decodeArr 0) nopBundle.arr 0

/-- Bundle 5 flips arrays 0 and 2. -/
def flipS : State := { smp with
  imem := smp.imem.set 0 (wrBytes [] (128 * 5) (leBytes 128 (2 ^ 51 + 2 ^ (85 + 128) + 2 ^ (85 + 128 + 192)))) }

/-- `ArrComputes`, `VecComputes`, `UpdOpcodes`: a stream at rest with tiles, slots without FLIP, a chain of no stages. -/
theorem witness_TileUnits : smp.quiet 3 = true ∧ (smp.part 3).tiles ≠ [] ∧ arrS.flip = false ∧ holdOf 1 = 1 ∧
    arrS.fmt.toNat < 13 ∧ nopBundle.vec.asrc ≠ 7 ∧ nopBundle.vec.dfmt.toNat < 14 ∧
    (vecFmt nopBundle.vec.dfmt.toNat).isMx = false ∧
    (chainRuns (smp.part 3) 0).all (fun x => !sopCross x.sop) = true ∧ nopBundle.vec.msk = 0 ∧
    ckDue smp 3 = false := by
  decide +kernel

theorem witness_ArrLoads :
    (let s := withPart { partS with seq := { partS.seq with
        loaders := [(2, ⟨some ⟨900, 1005, 1006, 0⟩, some ⟨1006, 1100, 1101, 0⟩, none, true⟩)] } }
     shaped s = true ∧ (s.seq 3).inflight = [] ∧ (s.seq 3).heldFlip = none ∧ (s.seq 3).heldLoad = none ∧ (s.seq 3).cyc ≤ 1006) ∧
    (let s := withPart { partS with seq := { partS.seq with loaders := [(2, ⟨some ⟨900, 1005, 1006, 0⟩, none, none, false⟩)] } }
     shaped s = true ∧ (s.seq 3).inflight = [] ∧ (s.seq 3).heldFlip = none ∧ (s.seq 3).heldLoad = none ∧ (s.seq 3).cyc ≤ 1006) := by
  decide +kernel

theorem witness_ArrFlip : flipS.quiet 3 = true ∧ (flipS.part 3).fill.leases = [] ∧
    (flipS.part 3).ctx.lo ≤ (flipS.part 3).ctx.pc + 1 ∧ (flipS.part 3).ctx.pc + 1 < (flipS.part 3).ctx.hi ∧
    bundleAt flipS 3 = { nopBundle with ctl := { nopBundle.ctl with hold := 1 }
                                        arr := nopBundle.arr.zipIdx.map (fun e => { e.1 with flip := (5 : BitVec 4).getLsbD e.2 }) } := by
  decide +kernel

/-! Partition 3 owns slab 5 as its partition slab 0; key slot 3 holds a key. -/
def slab5 : Slab := { slab0 with valid := true, owner := 3, pslot := 0 }
def memS : State := { smp with hbm := { smp.hbm with slabs := [(5, slab5)], keys := [(3, { keyReg0 with k0 := some 1 })] } }
def line0 : LineReq := ⟨0, 7, 1, 64, false, false, none, .scratch, [(1, 2), (4, 9)], 0, some (List.replicate 64 3, false), 3⟩
def crossedS (d n : Nat) : List Nat := match mvRoute (smp.part 3) d n with
  | some (src, ds, _) => ds.flatMap (routeLinks (bit d 57) src)
  | none => []
def landed : Landing := ⟨1006, 0, .mover .lb [1, 17] 640 (List.replicate 64 7) true 5 1⟩
def crumb : CrumbIssue := ⟨3, 1, 4, 2, 3, 100, .lb, 4095, true, 0⟩

theorem witness_MovesAndLineArrivals :
    (let q := smp.part 3
     mvKind (fld (q.reg 0x40) 0 2) ≠ none ∧ (q.tiles.filter (fun n => (mvRoute q (q.reg 0x40) n).isSome)) ≠ [] ∧ mvKind 3 = none ∧
      q.seq.links = [] ∧ bit (q.reg 0x40) 22 = false ∧
      ∀ n ∈ q.tiles, ∀ m ∈ q.tiles, n ≠ m → ∀ x ∈ crossedS (q.reg 0x40) n, x ∉ crossedS (q.reg 0x40) m) ∧
    (let s := memS.modSeq 3 (fun q => { q with inflight := [landed], movTok := [(5, 2)] })
     shaped s = true ∧ (s.seq 3).hot = [] ∧ (s.seq 3).hotLines = [] ∧ (s.seq 3).gates = []) ∧
    (let s := memS.modSeq 3 (fun q => { q with lines := [line0], reqs := [⟨7, 4, 1, 0⟩], memTok := [(4, ⟨1, [], []⟩)] })
     shaped s = true ∧ (s.seq 3).hot = [] ∧ (s.seq 3).hotLines = [] ∧ (s.seq 3).gates = []) ∧
    (let s := memS.modSeq 3 (fun q => { q with crumbs := [crumb] })
     shaped s = true ∧ crumb.next < crumb.len ∧
      (crumb.adb + rdLe (s.tile 1).scratch ((64 * spLine crumb.idxLine + 4 * crumb.next) % 8388608) 4) % 2 ^ 34 < windowEnd s 3 ∧
      (translate s 3 ((crumb.adb + rdLe (s.tile 1).scratch ((64 * spLine crumb.idxLine + 4 * crumb.next) % 8388608) 4) % 2 ^ 34)).isSome = true) ∧
    (let l := { line0 with write := some (List.replicate 64 9, false), arrived := none, dests := [], dev := 5 * 2 ^ 29 + 640 }
     let s := memS.modSeq 3 (fun q => { q with lines := [l] })
     let e := s.slab (slabOf l.dev)
     shaped s = true ∧ e.shared = false ∧ (s.keyReg (slotOf e)).curKey = some 1 ∧ chanServes s (chanOf s l.dev).1 = true ∧
      (s.chan (chanOf s l.dev).1).backlog = false ∧ drainHolds (s.part 3) l.pline = false ∧
      (s.arb (2 * (chanOf s l.dev).1 + (chanOf s l.dev).2.1)).wq.length < 64) := by
  decide +kernel

theorem witness_MemOpcodes : memS.quiet 3 = true ∧ windowEnd memS 3 ≠ 0 ∧ (memS.part 3).reg 0x80 % 4 < 2 ∧
    (memS.part 3).tiles ≠ [] ∧ bit ((memS.part 3).reg 0x80) 2 = false ∧ (translate memS 3 0).isSome = true ∧
    lineShared memS 3 0 = false ∧ ((withPart { partS with regs := [(0x80, 2)] }).part 3).reg 0x80 % 4 = 2 := by
  decide +kernel

/-! The collective link (for the statements `LinkComesUp` to `LinkLossAndIdle`). Partition 3 owns topologies 0 (a ring) and 2
(storage); port 0 is UP with frames waiting, port 1 idles, ports 2 and 6 train. -/

def topW0 (kind owner job d rank vc : Nat) : DWord := BitVec.ofNat 64 (kind + 4 * owner + 128 * job + 2 ^ 23 * (d - 1) + 2 ^ 39 * rank + 2 ^ 55 * vc)
def topW1 (dn0 up0 dn1 up1 ch : Nat) : DWord := BitVec.ofNat 64 (dn0 + 8 * up0 + 64 * dn1 + 512 * up1 + 4096 * ch)
def frameS (i : Nat) : Frame :=
  ⟨2, true, 1, 5, 0xFFFFFF, 1, 9, 77, 3, 0, BitVec.ofNat 16 i, 0, false, true, 2, 3, 1, false, false, 1, 0, true, List.replicate 32 7⟩
def vcS : Vc := { vc0 with credits := 10, seq := 7, expect := 4, sent := [(5, frameS 4), (5, frameS 5), (7, frameS 6)], again := 2, owed := 5000, nak := true }
def portLive : Port := { port0 with state := 3, vcs := [(1, { vcS with sent := [] }), (2, vcS)] }
def portTrains : Port := { port0 with state := 2, echoAt := some 100 }
def pclS : Pcl := { pcl0 with
  id := 0x123456, roles := [(0, 1), (1, 1), (2, 1), (3, 1), (4, 2), (6, 3)]
  vcImg := [(0, BitVec.ofNat 64 (2 ^ 32 * (3 + 32 + 256 * 16)))]
  topo := [(0, topW0 1 3 77 4 1 2), (1, topW1 1 0 7 7 0), (8, topW0 2 3 78 4 1 3), (9, topW1 1 0 0 1 0), (16, topW0 3 3 79 4 1 4), (17, topW1 0 7 7 7 10)]
  slots := [(3, BitVec.ofNat 64 (4 + 256 * 8))]
  ports := [(0, portLive), (1, { portLive with vcs := [], lpi := true, lpiSent := true, lpiGot := true }), (2, portTrains),
            (3, { portLive with vcs := [(0, { vc0 with credits := 99 })] }), (4, portLive), (6, portTrains)] }
def linkS : State := { smp with pcl := pclS, aon := 1234567 }

/-- `FlitOk`, as a check. -/
def flitOk (q typ lop : Nat) (w : Flit) (s : State) : Bool :=
  decide (2 ≤ (s.port q).state.toNat) && decide (fld w.toNat 0 4 = typ) && decide (typ = 4 → fld w.toNat 8 4 = lop) &&
    decide (fld w.toNat 224 32 = closeFrame.crc32cOf (leBytes 28 (w.toNat % 2 ^ 224)))

theorem flitOk_FlitOk {q typ lop : Nat} {w : Flit} {s : State} (h : flitOk q typ lop w s = true) : FlitOk q typ lop w s := by
  simp only [flitOk, Bool.and_eq_true, decide_eq_true_eq] at h
  exact ⟨h.1.1.1, h.1.1.2, h.1.2, h.2⟩

def haltS (job : Nat) : Flit := closeFlit 3 (haltBits 99 7 job 5)
def vcresetS (job : Nat) : Flit := closeFlit 4 (vcresetBits 2 job)

theorem witness_LinkComesUp :
    (linkS.port 2).lpi = false ∧ (linkS.port 2).state = 2 ∧ roleOf linkS 2 = 1 ∧ roleOf linkS 7 = 0 ∧ (linkS.port 7).lpi = false ∧
    (∀ r ∈ [1, 5], flitOk 2 4 0 (closeFlit 4 (helloBits 0x77 0 r)) linkS = true ∧
      fld (closeFlit 4 (helloBits 0x77 0 r)).toNat 43 3 = r) ∧
    flitOk 2 4 1 (closeFlit 4 (echoBits 0 66)) linkS = true ∧ flitOk 2 4 2 (closeFlit 4 (echoBits 1 100)) linkS = true ∧
    fld (closeFlit 4 (echoBits 1 100)).toNat 128 32 = 100 % 2 ^ 32 ∧
    (linkS.port 2).echoAt = some 100 ∧ ((linkS.port 2).vc 0).queue = [] ∧ ((linkS.port 2).vc 0).rstDue = false ∧
    (let s := { linkS with pcl := { pclS with ports := [(6, portTrains)] } }
     (s.port 2).lpi = false ∧ roleOf s 2 ≠ 0 ∧ (s.port 2).state.toNat < 2 ∧ s.mdl.fatal = false) ∧
    (let s := { linkS with mdl := { linkS.mdl with fatal := true } }
     (s.port 2).lpi = false ∧ s.mdl.fatal = true) := by
  decide +kernel

theorem witness_LinkFlowControl :
    linkS.twin.detach = none ∧ (linkS.port 0).state = 3 ∧ (linkS.port 0).lpi = false ∧ ((linkS.port 0).vc 2).queue = [] ∧
    ((linkS.port 0).vc 2).sent.filter (fun e => !decide ((4 - e.2.seq).toNat < 32768)) ≠ [] ∧ ((linkS.port 0).vc 2).again < 15 ∧
    ((linkS.port 0).vc 2).rst = false ∧ vcGlazed linkS 0 2 = false ∧
    (∀ n ∈ [0, 1], let w := closeFlit 1 (creditBits 2 n 9 4)
      flitOk 0 1 0 w linkS = true ∧ fld w.toNat 4 3 = 2 ∧ bit w.toNat 7 = decide (n = 1) ∧ fld w.toNat 20 16 = 4) ∧
    (∀ k ∈ [5, 6, 7, 8, 9], fcrcOk k (frameS 4) = false) ∧ (linkS.port 5).state.toNat < 2 ∧
    (0xE ≤ fld (0xE : Flit).toNat 0 4) ∧
    (fld (1 : Flit).toNat 0 4 < 0xE ∧ fld (1 : Flit).toNat 224 32 ≠ closeFrame.crc32cOf (leBytes 28 ((1 : Flit).toNat % 2 ^ 224))) := by
  decide +kernel

theorem witness_LinkLossAndIdle :
    shaped linkS = true ∧ topoKind linkS 0 ≠ 0 ∧ (topoPorts linkS 0).contains 0 = true ∧ linkS.twin.detach = none ∧
    2 ≤ (linkS.port 0).state.toNat ∧ topoOwner linkS 0 = 3 ∧
    (let s := linkS.modCtx 3 true (fun _ => ctxS); (s.part 3).live = true ∧ (s.part 3).ctxB.loaded = true) ∧
    topoJob linkS 0 = 77 ∧ (77 : Half) ∉ linkS.pcl.halted ∧ flitOk 0 3 0 (haltS 77) linkS = true ∧ fld (haltS 77).toNat 96 16 = 77 ∧
    (let s := linkS.modPcl (fun p => { p with halted := [77] }); (77 : Half) ∈ s.pcl.halted ∧ flitOk 0 3 0 (haltS 77) s = true) ∧
    (∀ job ∈ [77, 76], flitOk 0 4 3 (vcresetS job) linkS = true ∧ fld (vcresetS job).toNat 4 3 = 2 ∧ fld (vcresetS job).toNat 96 16 = job) ∧
    ((linkS.port 0).vc 2).queue = [] ∧ topoAt linkS 0 2 = some 0 ∧ (linkS.port 0).lpi = false ∧
    flitOk 3 4 5 (closeFlit 4 lpiBits) linkS = true ∧ flitOk 0 4 5 (closeFlit 4 lpiBits) linkS = true ∧
    flitOk 0 4 4 (closeFlit 4 (waketolBits 300)) linkS = true ∧ (linkS.port 0).state = 3 ∧
    (linkS.port 3).state = 3 ∧ (linkS.port 3).lpi = false ∧ (linkS.port 3).lpiSent = false ∧
    (linkS.port 3).vcs.all (fun e => e.2.queue == [] && e.2.sent == []) = true ∧
    (linkS.port 0).lpiSent = false ∧ (linkS.port 0).vcs.all (fun e => e.2.queue == [] && e.2.sent == []) = false ∧
    (linkS.port 1).lpi = true ∧ (linkS.port 1).vcs.all (fun e => e.2.queue == [] && e.2.sent == []) = true := by
  decide +kernel

/-! Exchanges (for the statements `XchOpcodes` to `WindowsAndLedger`). Descriptors 0 to 5: a SEND, a reduction on the ring, a
broadcast on topology 1, a reduction on the tree 2, a reduction of another format, a gather. -/

def dscS (kind topo rest pg ec dspa sc cr : Nat) : List Nat :=
  [kind + 4 * topo + rest, pg + 0x55 * 2 ^ 34, 0, ec, dspa + 2 ^ 17 * sc + 2 ^ 34 * cr, 100, 200, 0]
def descsS : List (List Nat) := [dscS 0 0 0 0 100 10 20 30, dscS 3 0 (2 ^ 7) 4096 4096 10 20 30, dscS 2 1 (2 * 2 ^ 5) 8192 128 10 20 30,
  dscS 1 2 (2 ^ 18) 4096 4096 10 20 30, dscS 3 0 0 4096 4096 10 20 30, dscS 2 0 0 8192 4096 40 20 300]
def regsX : Map DWord := descsS.zipIdx.flatMap (fun e => e.1.zipIdx.map (fun f => (0x4000 + 8 * e.2 + f.2, BitVec.ofNat 64 f.1)))
def bkS (d : Nat) : Bucket := { bucket0 with opened := true, step := 5, tag := 9, owner := 3, gen := 0, desc := nth [] descsS d }
def xchS : State := { linkS with
  parts := linkS.parts.set 3 { partS with regs := regsX }
  pcl := { pclS with buckets := [(4, { bkS 0 with opened := false }), (5, bkS 0), (6, bkS 1), (7, bkS 2), (8, bkS 3), (9, { bkS 4 with opened := false })] } }
def slotX (d bs : Nat) : XchSlot := ⟨0, 44, BitVec.ofNat 5 d, 3, BitVec.ofNat 8 bs⟩
def usedX (d : Nat) : Bool := (List.range 8).all (fun j => !(xchS.part 3).isFresh (0x4000 + 8 * d + j))

theorem witness_XchOpcodes :
    xchS.quiet 3 = true ∧ slotBase xchS 3 = 4 ∧ slotCount xchS 3 = 8 ∧ usedX 0 = true ∧ usedX 1 = true ∧ usedX 4 = true ∧
    (∀ k ∈ [0, 1, 2], topoKind xchS k ≠ 0 ∧ topoOwner xchS k = 3) ∧ topoKind xchS 3 = 0 ∧
    ((withPart { partS with regs := [(0x4000, BitVec.ofNat 64 12)] }).part 3).isFresh 0x4000 = false ∧
    (xchS.bucket 5).waits = [] ∧ (xchS.bucket 5).opened = true ∧ (xchS.bucket 4).waits = [] ∧ (xchS.bucket 4).opened = false ∧
    (xchS.bucket 4).copying = false ∧ xchS.pcl.early = [] ∧ (xchS.bucket 5).kind = 0 ∧ (xchS.bucket 5).contrib = false ∧
    (xchS.bucket 5).winOpen = none ∧ (xchS.bucket 5).desc = (List.range 8).map (fun j => (xchS.part 3).reg (0x4000 + j)) ∧
    (xchS.bucket 6).kind = 3 ∧ (xchS.bucket 6).contrib = false ∧ (xchS.bucket 6).winOpen = none ∧
    (xchS.bucket 6).desc = (List.range 8).map (fun j => (xchS.part 3).reg (0x4008 + j)) ∧ (xchS.bucket 9).opened = false ∧
    (xchS.port 0).state = 3 ∧ flitOk 0 2 0 (closeFlit 2 (breadyBits 2 9 77 5)) xchS = true ∧ (xchS.bucket 5).topo = 0 ∧
    topoJob xchS 0 = 77 ∧ (5 ∈ xchS.pcl.buckets.map (·.1)) ∧ (xchS.part 3).tiles ≠ [] ∧
    (xchS.tiles.all (fun t => t.spoison.isEmpty)) = true := by
  decide +kernel

/-- A frame of 64 bytes of the ring's job with its check value. -/
def closedF (typ : Nat) (f : Frame) : Frame :=
  let g := { f with nflit := BitVec.ofNat 6 (f.payload.length / 32) }
  { g with fcrc := BitVec.ofNat 32 (closeFrame.crc32cOf (headBytes typ g ++ g.payload)) }
def frameX : Frame := ⟨2, true, 2, 5, 0x123456, 0, 9, 77, 5, 0, 4, 0, false, false, 2, 0, 1, false, false, 1, 0, true, List.replicate 64 6⟩
def rxS (n : Nat) (b : Bucket) (q v : Nat) : State :=
  ((xchS.modVc q v (fun x => { x with sent := [], expect := 4 })).modPcl (fun p => { p with buckets := [(n, b)] }))

theorem witness_BucketFramesArrive_send :
    (let r := rxAccept 0 5 (closedF 5 { frameX with dst := 0x99 }) (rxS 5 (bkS 0) 0 2)
     r.2 = true ∧ topoAt r.1 0 2 = some 0 ∧ (0x99 : BitVec 24) ≠ r.1.pcl.id ∧ frameX.hop.toNat < 0xFFFE ∧ topoDn r.1 0 0 < 6) ∧
    (let r := rxAccept 0 5 (closedF 5 { frameX with step := 6 }) (rxS 5 (bkS 0) 0 2)
     r.2 = true ∧ topoAt r.1 0 2 = some 0 ∧ frameX.dst = r.1.pcl.id ∧ findSlot r.1 0 { frameX with step := 6 } = none) ∧
    (let f := closedF 5 { frameX with offset := 0 }
     let r := rxAccept 0 5 f (rxS 5 (bkS 0) 0 2)
     let b := r.1.bucket 5
     let ts := (xchS.part 3).tiles
     shaped (rxS 5 (bkS 0) 0 2) = true ∧ r.2 = true ∧ topoAt r.1 0 2 = some 0 ∧ f.dst = r.1.pcl.id ∧ findSlot r.1 0 f = some 5 ∧
      b.kind = 0 ∧ b.acked = false ∧ r.1.pcl.buckets.map (·.1) = [5] ∧ (r.1.seq b.owner).hot = [] ∧ ts ≠ [] ∧ b.ec ≤ 8388608 ∧
      b.received + Nat.min f.payload.length (ts.length * b.ec) < ts.length * b.ec) := by
  decide +kernel

theorem witness_BucketFramesArrive_reduce :
    (let r := rxAccept 0 6 (closedF 6 frameX) (rxS 6 (bkS 1) 0 2)
     r.2 = true ∧ topoAt r.1 0 2 = some 0 ∧ findSlot r.1 0 frameX = some 6) ∧
    (let f := closedF 7 { frameX with fmt := 2 }
     let r := rxAccept 0 7 f (rxS 6 (bkS 1) 0 2)
     let b := r.1.bucket 6
     r.2 = true ∧ topoAt r.1 0 2 = some 0 ∧ findSlot r.1 0 f = some 6 ∧ b.contrib = false ∧ b.localLate = false ∧ b.winOpen = none ∧
      b.lateParts.length = 0 ∧ f.attempt.toNat = b.attempt ∧ bTree r.1 b = false) ∧
    (let f := closedF 7 { frameX with fmt := 2, attempt := 1 }
     let r := rxAccept 0 7 f (rxS 6 (bkS 1) 0 2)
     let b := r.1.bucket 6
     r.2 = true ∧ topoAt r.1 0 2 = some 0 ∧ findSlot r.1 0 f = some 6 ∧ b.winOpen = none ∧ b.attempt < f.attempt.toNat) ∧
    (let f := closedF 7 { frameX with fmt := 2, vc := 4, job := 79 }
     let r := rxAccept 0 7 f (rxS 8 (bkS 3) 0 4)
     let b := r.1.bucket 8
     r.2 = true ∧ (topoAt r.1 0 4).bind (fun k => findSlot r.1 k f) = some 8 ∧ b.contrib = false ∧ b.localLate = false ∧ b.winOpen = none ∧
      b.lateParts.length = 0 ∧ f.attempt.toNat = b.attempt ∧ bTree r.1 b = true ∧ f.empty = false ∧ (frameBlocks b f).length ≠ 0) ∧
    (let f := closedF 9 frameX
     let r := rxAccept 0 9 f (rxS 6 (bkS 1) 0 2)
     let b := r.1.bucket 6
     r.2 = true ∧ topoAt r.1 0 2 = some 0 ∧ findSlot r.1 0 f = some 6 ∧ bTree r.1 b = false ∧ f.attempt.toNat = b.attempt ∧
      (b.trailers.filter (fun e => e.1 == dirOf r.1 b 0)).length + 1 < bD r.1 b) ∧
    (let f := closedF 8 { frameX with offset := 1 }
     let r := rxAccept 0 8 f (rxS 6 (bkS 5) 0 2)
     let b := r.1.bucket 6
     let dir := dirOf r.1 b 0
     let c := sched r.1 b dir f.hop.toNat
     let h := halfOf r.1 b dir c
     let cnt := Nat.min (frameBlocks b f).length (h.1 + h.2 - f.offset.toNat)
     r.2 = true ∧ topoAt r.1 0 2 = some 0 ∧ findSlot r.1 0 f = some 6 ∧ bTree r.1 b = false ∧ (r.1.seq b.owner).hot = [] ∧ b.kind ≠ 1 ∧ b.bcast = false ∧
      bTb r.1 b * b.osize ≤ 8388608 ∧ cnt ≠ 0 ∧
      gatherAll r.1 { b with gathered := mset 0 b.gathered (2 * c + dir) (mget 0 b.gathered (2 * c + dir) + cnt) } = false) := by
  decide +kernel

def windowS : State := xchS.modBucket 6 (fun b => { b with winOpen := some 5, desc := dscS 3 0 (2 ^ 7 + 2 ^ 31 * 100) 4096 4096 10 20 30 })

theorem witness_WindowsAndLedger :
    shaped windowS = true ∧ 2 < slotCount windowS 3 ∧ (xchS.bucket 6).winOpen = none ∧
    (let b := windowS.bucket 6
     b.winOpen = some 5 ∧ 5 + b.win ≤ windowS.aon.toNat ∧ b.opened = true ∧ b.reduces = true ∧ b.winClosed = false ∧ b.win ≠ 0 ∧
      bTree windowS b = false ∧ b.contrib = false ∧ b.held.length = 0 ∧ b.trailers.length = 0 ∧ 2 ≤ bD windowS b ∧ b.lateParts.length = 0 ∧
      b.copying = false) ∧
    (let s := windowS.modBucket 6 (fun b => { b with contrib := true, arrived := List.range 8, seen := (List.range 20).map (fun k => (k, 999)) })
     let b := s.bucket 6
     b.contrib = true ∧ b.localLate = false ∧ b.held.length = 0 ∧ bD s b ≤ 4 ∧
      (∀ dir ∈ topoDirs s b.topo, inKey dir (sched s b dir 0) ∈ b.arrived ∧
        ∀ k ∈ [1, 2, 3], halfCount s b dir (sched s b dir k) ≤ mget 0 b.seen (inKey dir (sched s b dir k)))) ∧
    (let s := windowS.modBucket 6 (fun b => { b with copying := true, booked := ⟨[(localKey, 1)], []⟩ })
     (s.bucket 6).copying = true ∧ (s.bucket 6).waits = [] ∧ (s.bucket 6).opened = true ∧ bBlocks s (s.bucket 6) ≠ 0 ∧
      (s.bucket 6).booked.wants.all (fun e => e.1 != localKey || decide (e.2 ≤ 1)) = true) ∧
    (let s := windowS.modBucket 6 (fun b => { b with
       opened := false, copying := true, ledgers := [(1, some ⟨9, 5, 0, true, [], [], b.desc, [(localKey, 1)]⟩)] })
     (s.bucket 6).copying = true ∧ (s.bucket 6).waits = [] ∧ (s.bucket 6).opened = false ∧ (s.bucket 6).step.toNat % 2 = 1 ∧
      (mget none (s.bucket 6).ledgers 1).map (·.wants) = some [(localKey, 1)]) := by
  decide +kernel

/-! Checkpoints, Crusts and Fillings, keys (for the statements `StorageFrames` to `KeysRotate`): a module in Ready whose store
is a storage endpoint behind port 4, with a Crust of two slabs; queue 2 of partition 3 holds one entry. -/

def cfgOf (l : List (Nat × Nat)) : List Byte := l.foldl (fun c e => c.set e.1 (BitVec.ofNat 8 e.2)) (List.replicate 0x2600 0)
def cfgS : List Byte := cfgOf [(0x348, 1), (0x349, 4), (0x34A, 7), (0x34C, 1), (0x350, 9), (0x340, 1), (0x464, 100), (0x466, 50),
  (0x468, 10), (0x46A, 40), (0x148, 20), (0x14A, 2), (0x14C, 5), (0x2000, 1), (0x2001, 15)]
def queueS : Queue := { queue0 with en := true, sqbase := 0x1000, cqbase := 0x8000, cqs := 4, sqs := 4, cqtail := 15, opened := 1, ep := 2 }
def headS : EntryHead := ⟨2, true, 0x44⟩
def ckJobS : CkJob := { bound := 12, target := none, digest := [], secs := [(1, [CkSrc.bytes [1, 2, 3]]), (3, [.lines 7 20 (some 1)])]
                        cap := 0, sps := [], captured := true, next := 0, acked := 0, sent := [], extra := [], works := [], tick := 0 }
def modS : State := { linkS with
  tc := { linkS.tc with cfg := cfgS, phase8 := true, hasCfg := true, ready := true, mode := 2, cmdctr := 4 }
  parts := linkS.parts.set 3 { partS with ctxB := { ctxS with idx := 99 }, queues := [(2, queueS)]
                                          ckp := { partS.ckp with jobs := [ckJobS, { ckJobS with captured := false }] } }
  host := { linkS.host with mods := 15, posted := 1, nonposted := 9 } }

/-- The bytes of an entry with a body from byte 8 on, and the entry at the front of queue 2. -/
def entryS (typ : Nat) (body : List Byte) : List Byte := padTo 64 ([BitVec.ofNat 8 typ, 1, 0, 0, 0x44, 0, 0, 0] ++ body)
def withBody (typ : Nat) (body : List Byte) (s : State) : State :=
  s.modQueue 3 2 (fun u => { u with fetched := [⟨2, 5, entryS typ body⟩] })
def withEntry (typ : Nat) (s : State) : State := withBody typ [] s
def flagsS (l : List Bool) : Byte := BitVec.ofNat 8 (l.zipIdx.foldl (fun n e => n + (if e.1 then 2 ^ e.2 else 0)) 0)

/-- `EntryReady` and `MgmtPasses`, as checks. -/
def entryIs (p : Nat) (h : EntryHead) (typ : Nat) (is : List Byte → Bool) (s : State) : Bool :=
  !entryWaits s p h.q.toNat && (s.queue p h.q.toNat).en && decide ((s.queue p h.q.toNat).cqs ≤ 16) &&
    match (s.queue p h.q.toNat).fetched with
    | [e] => spells typ h is e.bytes && e.ep == (s.queue p h.q.toNat).ep
    | _ => false
def entryOk (p : Nat) (h : EntryHead) (typ : Nat) (s : State) : Bool := entryIs p h typ anyBody s

theorem entryIs_ready {p : Nat} {h : EntryHead} {typ : Nat} {is : List Byte → Bool} {s : State} (hk : entryIs p h typ is s = true) :
    EntryReady p h typ is s := by
  unfold entryIs at hk
  split at hk
  · rename_i e he
    simp only [Bool.and_eq_true, Bool.not_eq_true', decide_eq_true_eq, beq_iff_eq] at hk
    exact ⟨hk.1.1.1, hk.1.1.2, hk.1.2, e, he, hk.2.1, hk.2.2⟩
  · simp at hk

def mgmtOk (op role : Nat) (env : Env) (s : State) : Bool :=
  mgmtRuns s && mgmtAllows s op && (!mgmtSigned s ||
    (env.serial == s.tc.serial && env.sigOk && anchorOk s env.anchor.toNat role && decide (s.tc.cmdctr.toNat < env.counter.toNat)))

theorem mgmtOk_passes {op role : Nat} {env : Env} {s : State} (hk : mgmtOk op role env s = true) : MgmtPasses op role env s := by
  simp only [mgmtOk, Bool.and_eq_true, Bool.or_eq_true, Bool.not_eq_true', decide_eq_true_eq, beq_iff_eq] at hk
  refine ⟨hk.1.1, hk.1.2, fun h => ?_⟩
  rcases hk.2 with h' | h'
  · rw [h] at h'
    cases h'
  · exact ⟨h'.1.1.1, h'.1.1.2, h'.1.2, h'.2⟩

def envS : Env := ⟨0, 0, 9, true⟩

theorem witness_StorageFrames : roleOf modS 4 = 2 ∧ roleOf modS 3 ≠ 2 ∧
    (let f := closedF 0xC { frameX with vc := 0, seq := 0, tag := 9, offset := 50, dst := 0xFFFFFF, job := 0 }
     let r := rxAccept 4 0xC f (modS.modPcl (fun p => { p with srds := [⟨4, 9, 50, 3, .gone, [1], 0⟩] }))
     r.2 = true ∧ f.nflit ≠ 0 ∧ r.1.pcl.srds = [⟨4, 9, 50, 3, .gone, [1], 0⟩]) := by
  decide +kernel

theorem witness_CheckpointCourse : shaped modS = true ∧ ckTgt modS = 1 ∧ (modS.part 3).ckp.kper = 0 ∧ (modS.part 3).ctxB.loaded = true ∧
    ckTgt smp = 0 ∧ entryOk 3 headS 7 (withEntry 7 modS) = true ∧
    entryOk 3 headS 7 (withEntry 7 { modS with tc := linkS.tc }) = true ∧ ckTgt { modS with tc := linkS.tc } = 0 ∧
    (modS.part 3).ckp.jobs.find? (fun j => !j.captured) = some { ckJobS with captured := false } ∧
    (modS.tiles.all (fun t => t.spoison.isEmpty)) = true ∧ (smp.part 3).ckp.jobs.isEmpty = true ∧ portUp modS (ckPort modS) = true ∧
    (modS.part 3).seq.lines = [] ∧
    (let l : LineReq := { id := 0, req := 0, cls := 2, dev := 0, crumb := false, miss := false, write := some ([], false), kind := .scratch
                          dests := [], gid := 0, arrived := none, pline := 9 }
     let s := modS.modSeq 3 (fun x => { x with lines := [l] })
     (s.part 3).seq.lines.find? (fun l => l.write.isSome && drainHolds (s.part 3) l.pline) = some l ∧ unitMay s 2 3 [9] = true ∧
      16 ≤ ckRoom s) ∧
    ckRoom (modS.modPart 3 (fun q => { q with ckp := { q.ckp with jobs := [{ ckJobS with next := 4096 }] } })) = 0 := by
  decide +kernel

def descS (i : Nat) (st pins : Nat) (s : State) : State :=
  s.modFills (fun x => { x with descs := mset desc0 x.descs i { desc0 with state := BitVec.ofNat 3 st, pins := pins, gen := 7, wlen := 2, digest := [1, 2] } })
def stageB : StageBody := ⟨0, 0, 120, 0x5000, 3, 4, 5⟩
def withStage (s : State) : State := withBody 3 ([0, 0] ++ leBytes 2 120 ++ leBytes 4 0 ++ leBytes 8 0x5000 ++ leBytes 8 3 ++ leBytes 8 4 ++ leBytes 8 5) s
def withEvict (force : Bool) (i : Nat) (s : State) : State := withBody 4 ([flagsS [force], 0] ++ leBytes 2 i) s
def stageJ : StageJob := ⟨⟨3, 2, true, 0x44, 3, 2, 0⟩, stageB, true, some (List.replicate 128 0), List.replicate 128 9, true, false⟩

theorem witness_FillingsStageAndEvict :
    shaped (withStage modS) = true ∧ standbyRefuses (withStage modS) 3 = false ∧
    entryIs 3 headS 3 (fun bs => stageBody bs == stageB) (withStage modS) = true ∧
    inRangeOf modS 3 120 = true ∧ inRangeOf modS 3 20 = false ∧ (modS.desc 120).state = 0 ∧ modS.stage 120 = none ∧
    stageB.src = 0 ∧ (∀ force ∈ [false, true], ∀ i ∈ [120, 20],
      let s := withEvict force i modS
      entryIs 3 headS 4 (fun bs => evictBody bs == (force, BitVec.ofNat 14 i)) s = true ∧ standbyRefuses s 3 = false) ∧
    (∀ force ∈ [false, true], ∀ x ∈ [(0, 0), (2, 0), (3, 0), (2, 5), (3, 5), (4, 5)],
      let s := withEvict force 120 (descS 120 x.1 x.2 modS)
      entryIs 3 headS 4 (fun bs => evictBody bs == (force, 120)) s = true ∧ inRangeOf s 3 120 = true ∧ (s.desc 120).state.toNat = x.1 ∧
        (s.desc 120).pins = x.2) := by
  decide +kernel

def batchS : Batch := ⟨1, [⟨120, 7, 0, 2⟩, ⟨121, 7, 2, 2⟩], 1, [0, 1, 2, 3, 4], 3, false⟩
def sortS (copying : Option Nat) (rel : Nat) (written : Bool) : State := modS.modPart 3 (fun q => { q with fill := { q.fill with
  batch := some { batchS with written := written }, srec := leBytes 16 (2 ^ 17 + 2 ^ 64 * 50 + 2 ^ 32 * 3 + 15 * 2 ^ 19)
  copied := 1, copying := copying, released := rel, named := 2 } })

theorem witness_StagingCourse :
    walkCovers modS 120 = false ∧ stageB.src ≠ 2 ∧ modS.stage 120 = none ∧
    (let s := (descS 120 1 0 modS).setStage 120 (some { stageJ with begun := false, hdr := none })
     (s.stage 120).map (fun j => (j.begun, j.hdr, j.bad, j.body)) = some (false, none, true, stageB) ∧ walkCovers s 120 = false) ∧
    (let s := (descS 120 1 0 modS).setStage 120 (some { stageJ with bad := true })
     (s.stage 120).map (fun j => (j.hdr.isSome, j.bad, j.img.length, j.body)) = some (true, true, 64 * (s.desc 120).wlen, stageB) ∧
      (s.desc 120).state = 1) ∧
    (let s := (descS 120 1 0 modS).setStage 120 (some { stageJ with bad := false })
     (s.stage 120).map (fun j => (j.hdr.isSome, j.bad, j.img.length, j.body)) = some (true, false, 64 * (s.desc 120).wlen, stageB) ∧
      (s.desc 120).state = 1) ∧
    (let s := modS.modFills (fun x => { x with walkNext := [120] })
     s.fills.walk = none ∧ s.fills.walkNext ≠ []) ∧
    (let s := sortS none 0 false
     shaped s = true ∧ (s.part 3).fill.batch = some batchS ∧ (s.seq 3).hot = [] ∧ srecEn (s.part 3).fill.srec = true ∧
      (s.part 3).fill.copied < batchS.units ∧ (s.part 3).fill.copying = none ∧ (s.part 3).fill.copied < (s.part 3).fill.released + 2 ∧
      (s.part 3).live = true ∧ (s.part 3).fill.released + 2 ≤ (s.part 3).fill.named ∧ (s.seq 3).gates = []) ∧
    (let s := sortS (some 1) 1 true
     shaped s = true ∧ (s.part 3).fill.copying = some 1 ∧ batchS.groups[1 % Nat.max 1 batchS.groups.length]? = some ⟨121, 7, 2, 2⟩ ∧
      ((s.desc 121).layers ≤ 0 ∨ slicesMay 3 (s.desc 121) 0 (Nat.min (s.desc 121).slice (srecLen (s.part 3).fill.srec)) s = true) ∧
      (s.part 3).fill.named < (s.part 3).fill.released + 2 ∧
      (s.part 3).fill.batch = some { batchS with written := true }) :=
  ⟨by decide +kernel, by decide +kernel, by decide +kernel, by decide +kernel, by decide +kernel, by decide +kernel,
    by decide +kernel, by decide +kernel, by decide +kernel⟩

/-- For any image there is a recorded digest that is not its own and has a byte that is not 0. -/
theorem witness_StagingCourse_digest (img : List Byte) : ∃ d : List Byte, Config.sha384 img ≠ d ∧ ∃ b ∈ d, b ≠ 0 := by
  by_cases h : Config.sha384 img = [1]
  · exact ⟨[2], by rw [h]; decide, 2, by decide, by decide⟩
  · exact ⟨[1], h, 1, by decide, by decide⟩

def crustL : CrustLoad := ⟨9, true, 0, 7, 0x999, List.replicate 512 0, 4, 0, []⟩

theorem witness_CrustsComeAndGo :
    (let s := modS.modCrust 0 (fun _ => ⟨3, [1]⟩); (s.crust 0).state = 3 ∧ crustFills s 0 = 0) ∧ (modS.crust 0).state = 0 ∧
    mgmtOk 0x120 1 envS modS = true ∧ crustSlabs modS 0 ≠ 0 ∧ crustSlabs modS 1 = 0 ∧ roleOf modS 4 = 2 ∧
    (∀ n ∈ crustRegion modS 0, (modS.slab n).avail = true) ∧
    (let s := (modS.setLoad 0 (some crustL)).modCrust 0 (fun _ => ⟨1, []⟩)
     s.load 0 = some crustL ∧ crustL.checked = 4 ∧ crustL.img.length = 64 * crustL.lines ∧ (s.crust 0).state = 1 ∧
      mgmtOk 0x121 1 envS s = true) ∧
    (let s := modS.modCrust 0 (fun _ => ⟨2, [5]⟩)
     mgmtOk 0x121 1 envS s = true ∧ (s.crust 0).state = 2 ∧ crustFills s 0 = 0) ∧
    (let s := (modS.modFills (fun x => { x with descs := [(100, { desc0 with state := 2 })] })).modCrust 0 (fun _ => ⟨2, [5]⟩)
     mgmtOk 0x121 1 envS s = true ∧ (s.crust 0).state = 2 ∧ 0 < crustFills s 0) := by
  decide +kernel

def slab9 : Slab := { slab0 with valid := true, owner := 3, pslot := 0 }
def dev9 : Nat := 9 * 2 ^ 29 + 64 * 5
def meta9 : LineMeta := ⟨mdMake false false 3, [70, 70, 70, 70]⟩
def hbmS : State := (modS.modHbm (fun h => { h with slabs := [(9, slab9)], cells := wrBytes [] dev9 [1, 2, 3]
                                                    lines := [(dev9, some meta9)] })).modKey 3 (fun x => { x with k0 := some 70 })

theorem witness_KeysRotate :
    shaped (withEntry 9 modS) = true ∧ entryOk 3 headS 9 (withEntry 9 modS) = true ∧ (modS.keyReg 3).running = false ∧ (modS.keyReg 3).loading = none ∧
    (modS.keyReg 3).flipDue = false ∧ (modS.keyReg 3).waiting = false ∧ slotNo (.part 3) = 3 ∧ glazesFor modS 3 = false ∧
    entryOk 3 headS 9 (withEntry 9 (modS.modKey 3 (fun x => { x with waiting := true }))) = true ∧
    entryOk 3 headS 9 (withEntry 9 (modS.modKey 3 (fun x => { x with running := true, loading := some (true, 44), flipDue := true }))) = true ∧
    (let s := modS.modKey 3 (fun x => { x with sweep := some ⟨0, 0, 0, []⟩ }); (s.keyReg 3).sweep.isSome = true ∧ slotSlabs s 3 = []) ∧
    (∀ cur : Bool, let s := hbmS.modKey 3 (fun x => { x with k1 := some 71, cur := cur, sweep := some ⟨9, 5, 0, []⟩ })
     shaped s = true ∧ (s.keyReg 3).sweep = some ⟨9, 5, 0, []⟩ ∧ (slotSlabs s 3).filter (fun i => decide (9 ≤ i)) = [9] ∧ mget none s.glazeSlabs 9 = none ∧
      (s.slab 9).avail = true ∧ slotOf (s.slab 9) = 3 ∧ c3May s dev9 = true ∧ mget none s.hbm.lines dev9 = some meta9 ∧
      mget [] s.hbm.flaws dev9 = [] ∧ mdEpoch meta9.md = false ∧ (s.keyReg 3).cur = cur ∧ metaOk s dev9 meta9.md = true ∧
      mdPois meta9.md = false ∧ (s.keyReg 3).key false = some 70 ∧ (s.keyReg 3).key true = some 71) ∧
    (let s := modS.modKey 3 (fun x => { x with waiting := true })
     (s.keyReg 3).waiting = true ∧ (s.keyReg 3).running = false ∧ (s.keyReg 3).loading = none) ∧
    mgmtOk 0x122 1 envS modS = true ∧ (∀ v ∈ [0, 1], (modS.crust v).state ≠ 1) ∧ (modS.keyReg 36).running = false ∧
    (modS.keyReg 36).waiting = false ∧ (modS.keyReg 36).loading = none := by
  decide +kernel

/-! The HBM system and partitions (for the statements `LineSlots` to `PartitionResets`). -/

def req9 (cls : Nat) (miss : Bool) : LineReq := { line0 with id := 7, cls := cls, dev := dev9, crumb := miss, miss := miss, arrived := none }
def wanting (l : LineReq) : State := (hbmS.modSeq 3 (fun x => { x with lines := [l] })).modHbm (fun h => { h with ways := [(3, 5)] })
def chan9 : Nat × Nat := ((chanOf hbmS dev9).1, (chanOf hbmS dev9).2.1)
def arb9 : Nat := 2 * chan9.1 + chan9.2
def keys9 (s : State) (md : Half) : Bool := metaOk s dev9 md && !mdPois md &&
  decide ((s.keyReg (slotOf (s.slab (slabOf dev9)))).key (mdEpoch md) = some 70)
def sound9 (s : State) : Bool := keys9 s meta9.md && decide (mget none s.hbm.lines dev9 = some meta9) && decide (mget [] s.hbm.flaws dev9 = [])
def floor9 (s : State) : Bool := decide ((s.therm (chan9.1 / 32)).level = 2) && decide (7 ≤ (s.arb arb9).hot) && !(s.arb arb9).wq.isEmpty
def third9 (s : State) : Bool := c3Pending s arb9 && decide (31 ≤ (s.arb arb9).c3gap)
def nobody9 (s : State) (cls : Nat) (but : Nat) : Bool :=
  (List.range 32).all (fun q => q == but || ((s.seq q).lines.find? (waitsAt s arb9 cls)).isNone)
def copy9 : CacheLine := ⟨0, dev9, { bytes := List.replicate 64 5, md := meta9.md, keys := meta9.keys }⟩

theorem witness_LineSlots :
    shaped hbmS = true ∧ chan9.1 < 256 ∧
    (∀ x ∈ [(0, false), (0, true), (1, false)], let s := wanting (req9 x.1 x.2)
      shaped s = true ∧ chanServes s chan9.1 = true ∧ sound9 s = true ∧ third9 s = false ∧ floor9 s = false ∧ (s.arb arb9).c0run < 16 ∧
        (s.arb arb9).batch = 0 ∧ (s.seq 3).lines.find? (waitsAt s arb9 x.1) = some (req9 x.1 x.2) ∧ nobody9 s x.1 3 = true ∧
        (x.1 = 1 → nobody9 s 0 32 = true) ∧ bit (mget 0 s.hbm.ways 3).toNat 0 = true ∧ s.hbm.cache = []) ∧
    (let s := hbmS.modHbm (fun h => { h with arbs := [(arb9, { pcArb0 with wq := [3, 4], batch := 2 })] })
     (s.arb arb9).wq = [3, 4] ∧ nobody9 s 0 32 = true ∧ nobody9 s 1 32 = true ∧ chanServes s chan9.1 = true ∧ third9 s = false) ∧
    (let s := (wanting (req9 0 false)).modHbm (fun h => { h with
       arbs := [(arb9, { pcArb0 with wq := [3, 4], hot := 7 })], therm := [(chan9.1 / 32, { therm0 with level := 2 })] })
     floor9 s = true ∧ third9 s = false ∧ chanServes s chan9.1 = true) ∧
    chanServes (hbmS.modChan chan9.1 (fun x => { x with hold := some .retrain })) chan9.1 = false ∧
    (let s := hbmS.modHbm (fun h => { h with arbs := [(arb9, { pcArb0 with c3gap := 31 })], wbq := [⟨dev9, copy9.line, false⟩] })
     third9 s = true) ∧
    (∀ b : Bool, let s := hbmS.modHbm (fun h => { h with wbq := [⟨dev9, copy9.line, b⟩] })
      s.hbm.wbq.find? (fun w => (chanOf s w.dev).1 / 32 == chan9.1 / 32 && c3May s w.dev) = some ⟨dev9, copy9.line, b⟩) ∧
    (let s := (wanting { req9 0 false with crumb := true }).modHbm (fun h => { h with crumbQ := [(chan9.1 / 32, [(3, 7)])] })
     mget [] s.hbm.crumbQ (chan9.1 / 32) = [(3, 7)] ∧ (s.seq 3).lines.find? (fun x => x.id == 7) = some { req9 0 false with crumb := true } ∧
      keys9 s copy9.line.md = true ∧ copy9.line.bytes.length = 64 ∧ copy9.line.keys = [70, 70, 70, 70] ∧
      (let t := s.modChan chan9.1 (fun x => { x with hold := some .retrain })
       chanServes t (chanOf t dev9).1 = false ∧ t.hbm.cache = [])) := by
  decide +kernel

/-- A line cache that holds a line, whatever set it falls in, and one that has a free way for it. -/
theorem witness_LineSlots_cache (k : Nat) :
    (mget [] [(k, [copy9])] k).find? (fun e => e.dev == dev9) = some copy9 ∧ (mget ([] : List CacheLine) [] k).find? (fun e => e.dev == dev9) = none ∧
    (∀ e ∈ mget ([] : List CacheLine) [] k, e.way ≠ 0) :=
  ⟨by simp [mget, copy9], by simp [mget], by simp [mget]⟩

/-- The row of `dev9`, its 16 lines written and sound; a row repair store under way in stack 2. -/
def row9 : Nat := rowOf hbmS dev9
def rowS (f : RowRep → RowRep) : State :=
  (hbmS.modHbm (fun h => { h with lines := (rowDevs hbmS row9).foldl (fun m d => mset none m d (some meta9)) [] })).modRowRep 2 f

theorem witness_HbmUpkeep :
    (let s := rowS (fun r => { r with marked := [row9] })
     shaped s = true ∧ (s.rowRep 2).marked = [row9] ∧ (s.rowRep 2).copying = none ∧ (s.rowRep 2).used < 512 ∧ s.hbm.wbq.isEmpty = true ∧
      (rowDevs s row9).all (c3Serves s) = true ∧ ((rowDevs s row9).take 1).all (c3May s) = true ∧
      (rowDevs s row9).all (fun d => decide (mget [] s.hbm.flaws d = []) && decide (mget none s.hbm.lines d = some meta9) && metaOk s d meta9.md) = true) ∧
    (let s := rowS (fun r => { r with copying := some row9 })
     (s.rowRep 2).copying = some row9 ∧ (rowDevs s row9).all (c3Serves s) = true ∧ s.repairs.length < 8184 ∧
      (let t := s.modHbm (fun h => { h with therm := (upTo 8).map (fun i => (i, { therm0 with level := 1 })) })
       (rowDevs t row9).any (fun d => !c3Serves t d) = true)) ∧
    (∀ line ∈ [5, 2 ^ 23 - 1], let dev := 9 * 2 ^ 29 + 64 * line
     let s := hbmS.modHbm (fun h => { h with scrubSlab := 9, scrubLine := line, lines := [(dev, some meta9)] })
     scrubs s s.hbm.scrubSlab = true ∧ s.hbm.scrubLine < 2 ^ 23 ∧ s.hbm.scrubWaits = [] ∧ c3May s dev = true ∧
      mget none s.hbm.lines dev = some meta9 ∧ mget [] s.hbm.flaws dev = [] ∧ metaOk s dev meta9.md = true) ∧
    (let s := hbmS.modHbm (fun h => { h with scrubSlab := 9, scrubLine := 7, scrubWaits := [dev9] })
     scrubs s s.hbm.scrubSlab = true ∧ dev9 ∈ s.hbm.scrubWaits) ∧
    (let s := hbmS.modTherm 2 (fun x => { x with next := some 2 }); (s.therm 2).next = some 2 ∧ (s.therm 2).level ≠ 3) ∧
    (hbmS.therm 2).next = none ∧ (hbmS.chan 3).hold = none ∧ (hbmS.chan 3).lost = false ∧ (hbmS.chan 3).lastHold = none ∧
    hbmS.hbm.chans.all (fun e => e.2.hold != some .retrain) = true ∧ (hbmS.therm (3 / 32)).level.toNat < 2 ∧
    nth 0x3F (hbmS.chan 3).susp 0 = 0x3F ∧
    (let s := hbmS.modChan 3 (fun x => { x with susp := [0x3F, 7] })
     nth 0x3F (s.chan 3).susp 1 = 7 ∧ nth 0x3F (s.chan 3).spares 2 = 0x3F ∧ (s.chan 3).spares.length = 4 ∧ (s.chan 3).hold = none ∧ (s.chan 3).lastHold = none) ∧
    (let s := hbmS.modChan 3 (fun x => { x with hold := some .retrain }); (s.chan 3).hold = some .retrain ∧ (s.chan 3).lost = false ∧
      s.hbm.chans.any (fun e => e.2.hold == some .retrain) = true) ∧
    (let s := hbmS.modChan 3 (fun x => { x with hold := some (.repair 1), susp := [0x3F, 7] })
     (s.chan 3).hold = some (.repair 1) ∧ nth 0x3F (s.chan 3).susp 1 = 7 ∧ nth 0x3F (s.chan 3).spares 2 = 0x3F ∧ (s.chan 3).spares.length = 4) := by
  decide +kernel

/-- The module with the programs of partition 3 ended. -/
def idleS : State := hbmS.modPart 3 (fun q => { q with ctxF := ctx0, ctxB := ctx0, ckp := partS.ckp })

theorem witness_OwnershipCommandsAreTaken :
    shaped idleS = true ∧ idleS.acts = [] ∧ (idleS.part 3).reset = none ∧ (idleS.part 3).pstate = 1 ∧ (idleS.part 3).granules = 5 ∧
    [0x101, 0x102, 0x103, 0x104, 0x105, 0x106, 0x107, 0x108, 0x109, 0x10A].all (fun op => mgmtOk op 0 envS idleS) = true ∧
    granFree idleS 3 = true ∧ granFree idleS 2 = false ∧ (idleS.part 3).ctxF.loaded = false ∧ (idleS.part 3).ctxB.loaded = false ∧
    slabFree idleS 30 = true ∧ pslotTaken idleS [] 3 4 = false ∧ slabFree idleS 9 = false ∧
    (∀ n ∈ crustRegion idleS 0, slabBusy idleS 3 n = false) ∧ crustRegion idleS 0 ≠ [] ∧
    (let s := idleS.modSeq 3 (fun q => { q with lines := (crustRegion idleS 0).map (fun n => { req9 0 false with dev := n * 2 ^ 29 }) })
     ∃ n ∈ crustRegion s 0, slabBusy s 3 n = true) ∧
    (idleS.slab 9).valid = true ∧ (idleS.slab 9).shared = false ∧ (idleS.slab 9).owner = 3 ∧ (idleS.slab 10).valid = false ∧
    pslotTaken idleS [] 6 8 = false ∧
    (let s := State.reset; let t := { idleS with parts := s.parts }
     (t.part 3).pstate = 0 ∧ (t.part 3).reset = none ∧ mgmtOk 0x10A 0 envS t = true ∧ t.acts = []) := by
  decide +kernel

/-- An ownership action of partition 3 waits. -/
def actS (op : Nat) (mask : Word) (slabs : List (Nat × Nat)) (stage : Nat) (s : State) : State :=
  { s with acts := [⟨op, 3, 0, mask, slabs, 0, 9, stage⟩] }
def calmActs (s : State) : Bool := s.acts.all (fun a => a.stage != 5 && !actBusy s 3 a)

theorem witness_OwnershipTakesEffect :
    (∀ x ∈ [(0x101, 8, []), (0x101, 8, [(30, 6)]), (0x102, 4, [(9, 0)]), (0x105, 0, [(9, 0)])],
      let s := actS x.1 x.2.1 x.2.2 0 idleS
      shaped s = true ∧ calmActs s = true ∧ actDue s 3 = s.acts.head? ∧ (s.part 3).reset = none ∧ (s.part 3).pstate ≠ 4 ∧ (s.part 3).resize = none ∧
        (s.part 3).ctxF.loaded = false ∧ (s.part 3).ctxB.loaded = false) ∧ actDue idleS 3 = none ∧ idleS.acts = [] ∧
    (let s := actS 0x105 0 [(9, 0)] 0 (idleS.modSeq 3 (fun q => { q with lines := [req9 0 false] }))
     s.acts.all (actBusy s 3) = true ∧ s.acts.all (fun a => a.stage != 5) = true ∧ actDue s 3 = s.acts.head?) ∧
    (let s := actS 0x108 0 [] 5 idleS; s.acts.all (fun a => a.stage == 5 && a.p == 3 && a.op == 0x108 && !actBusy s 3 a) = true) := by
  decide +kernel

/-- Partition 3 runs a program that may be resized, with a gate at 5. -/
def runS (cls : Nat) : State :=
  let s := hbmS.modPart 3 (fun q => { q with ctxF := { ctxS with hdr := List.replicate 12 0 ++ [1] ++ List.replicate 115 0 }, ctxB := ctx0, ckp := partS.ckp })
  { s with imem := s.imem.set 0 (wrBytes [] (128 * 5) (ctlBytes cls false)) }

theorem witness_OwnershipTakesEffect_resize :
    (let s := actS 0x101 8 [] 0 (runS 0)
     calmActs s = true ∧ actDue s 3 = s.acts.head? ∧ (s.part 3).pstate = 1 ∧ (s.part 3).ctx.loaded = true ∧ atGate s 3 = false) ∧
    (let s := actS 0x101 8 [] 0 (runS 1)
     calmActs s = true ∧ actDue s 3 = s.acts.head? ∧ (s.part 3).pstate = 1 ∧ (s.part 3).reset = none ∧ (s.part 3).resize = none ∧ atGate s 3 = true ∧
      s.acts.all (fun a => a.mask != 0) = true) ∧
    (let s := (after (.ownershipActionEffect 3) (actS 0x101 8 [] 0 (runS 1)))
     (s.part 3).resize.map (·.quiet) = some false ∧ (actTaking s 3).map (·.op) = some 0x101 ∧ (s.part 3).seq.reqs = [] ∧
      (s.part 3).seq.crumbs = [] ∧ (s.part 3).seq.lines = [] ∧ (s.part 3).seq.movTok = [] ∧
      (let t := after (.resizeQuiesceEnd 3) s; (t.part 3).resize.map (·.quiet) = some true ∧ (actTaking t 3).map (·.op) = some 0x101)) ∧
    (idleS.part 3).resize = none := by
  decide +kernel

theorem witness_OwnershipTakesEffect_glaze :
    (let s := idleS.modGlazeSlabs (fun _ => [(30, some ⟨some (3, 4), 7, [], none⟩)])
     c3May s (30 * 2 ^ 29 + 64 * 7) = true ∧ mget none s.glazeSlabs 30 = some ⟨some (3, 4), 7, [], none⟩) ∧
    mget none idleS.glazeSlabs 30 = none ∧ mget none idleS.glazeGrans 2 = none ∧
    mget none (idleS.modGlazeSlabs (fun _ => [(30, some ⟨some (3, 4), 2 ^ 23, [], none⟩)])).glazeSlabs 30 = some ⟨some (3, 4), 2 ^ 23, [], none⟩ ∧
    (let t := after (.ownershipActionEffect 3) (actS 0x102 4 [] 0 idleS); mget none t.glazeGrans 2 = some ⟨3, none, false⟩) := by
  decide +kernel

theorem witness_PartitionResets :
    (let s := withEntry 8 hbmS
     shaped s = true ∧ entryOk 3 headS 8 s = true ∧ (s.part 3).pstate = 1 ∧ (s.part 3).reset = none) ∧
    mgmtOk 0x110 0 envS hbmS = true ∧ (hbmS.part 4).pstate = 0 ∧
    (let s := after (.partReset 3 headS) (withEntry 8 hbmS)
     shaped s = true ∧ (s.part 3).reset.isSome = true ∧ resetMayEnd s 3 = true ∧ (s.part 3).granules ≠ 0 ∧ (s.part 3).pstate = 2 ∧ s.acts = []) := by
  decide +kernel

/-! The host side and the SIU (for the statements `HostTransactions` to `SamplesFlow`): the module in Run, its host link up. -/

def upS (f : Part → Part) : State :=
  let s := hbmS.modPart 3 f
  { s with mdl := { s.mdl with pgood := true, mrstN := true } }
def workS (typ : Nat) : Work := ⟨3, 2, true, 0x44, typ, 2, 0⟩
def withQ (u : Queue) (s : State) : State := s.modPart 3 (fun q => { q with queues := [(2, u)] })

theorem witness_HostTransactions :
    shaped (upS id) = true ∧ hostReaches (upS id) = true ∧ hostUp (upS id) = true ∧ (upS id).tc.ready = true ∧ hostReaches smp = false ∧
    smp.tc.ready = false ∧ hostUp smp = false ∧ ((upS id).queue 3 2).en = true ∧ ((upS id).queue 3 5).en = false ∧ (upS id).host.held = [] ∧
    mget none (upS id).host.mrds 0 = none ∧
    (let m : Mrd := ⟨.entry 3 2 2 0, 0x1000, 64, [], 0, 0, 64⟩
     let s := (withQ { queueS with opened := 3, fetched := [⟨2, 0, []⟩] } (upS id)).modHost (fun h => { h with mrds := [(0, some m)] })
     mget none s.host.mrds 0 = some m ∧ hostUp s = true ∧ s.host.waiting.length = 0 ∧
      (s.queue 3 2).fetched = [⟨2, 0, []⟩] ∧ (s.queue 3 2).ep = 2 ∧ badEntry (entryS 5 []) = none ∧ (entryS 5 []).length = 64) ∧
    (let s := (upS id).modHost (fun h => { h with posted := 0, held := [Out.mwr 3 0 4 []] })
     hostUp s = true ∧ s.host.held = [Out.mwr 3 0 4 []] ∧ (Out.mwr 3 0 4 []).isPosted = true) ∧
    (let o := Out.cpl { workS 2 with notify := false } 0 7 [1, 2]
     let s := (upS id).modHost (fun h => { h with posted := 0, held := [o] })
     hostUp s = true ∧ s.host.held = [o] ∧ (s.part 3).gen = (workS 2).gen ∧ (s.queue 3 2).en = true ∧ (s.queue 3 2).ep = (workS 2).ep ∧
      (s.queue 3 2).cqs ≤ 16) := by
  decide +kernel

theorem witness_HostLinkGoesAndComes :
    (upS id).host.mods &&& ~~~(1#4 <<< 2) ≠ 0 ∧ (upS id).host.siteOn = true ∧ (upS id).tc.phase8 = true ∧ hostUp (upS id) = true ∧
    (let s := after .hostLinkDown (upS id); s.host.siteOn = true ∧ s.tc.phase8 = true ∧ hostUp s = false ∧
      s.host.mods &&& ~~~(1#4 <<< 2) = 0) ∧ smp.tc.phase8 = false := by
  decide +kernel

theorem witness_QueuePairs :
    (let s := upS id
     shaped s = true ∧ (s.part 3).frozen = false ∧ inRun s = true ∧ (s.queue 3 2).en = true ∧ (s.queue 3 2).sqs ≤ 16 ∧
      (s.queue 3 5).en = false ∧ 3 < 2 ^ (s.queue 3 2).cqs ∧ (s.queue 3 2).chead.toNat < 2 ^ (s.queue 3 2).cqs ∧ (s.queue 3 2).ntfOut = false ∧
      nextFetch s ≠ some 194) ∧ inRun ((upS id).modPwr (fun w => { w with state := 3 })) = false ∧
    (let s := withQ { queueS with tail := 5, chead := 3, ntfOut := true, ien := true, flags := [false, true] } (upS id)
     nextFetch s = some (64 * 3 + 2) ∧ (s.queue 3 2).sqbase.toNat % 64 = 0 ∧ (s.queue 3 2).sqs ≤ 16 ∧ (s.part 3).frozen = false ∧ inRun s = true ∧
      (s.queue 3 2).en = true ∧ (s.queue 3 2).ntfOut = true ∧ (s.queue 3 2).ien = true ∧ true ∈ (s.queue 3 2).flags ∧
      (s.queue 3 2).chead = 3 ∧ 3 < 2 ^ (s.queue 3 2).cqs ∧ (s.part 3).pstate ≠ 4) := by
  decide +kernel

def runB (b sp : Bool) (srca : Nat) : RunBody := ⟨b, sp, false, 0, 77, BitVec.ofNat 64 srca⟩
def withRun (b : RunBody) (s : State) : State :=
  withBody 1 ([flagsS [b.ctxB, b.srcPart, b.tgtv], 0] ++ leBytes 2 b.target.toNat ++ leBytes 4 b.idx.toNat ++ leBytes 8 b.srca.toNat) s
def runIs (b : RunBody) (bs : List Byte) : Bool := runBody bs == b
/-- Lines 5 to 8 of partition 3 have been written, with zeros from line 6 on. -/
def linesS (s : State) : State := s.modHbm (fun h => { h with lines := (upTo 4).map (fun i => (dev9 + 64 * i, some meta9)) })
def image : List Byte := [0x52, 0x50, 0x47, 0x4D, 1, 0, 0, 0, 2, 0, 0, 0] ++ List.replicate 244 0 ++ List.replicate 256 7

theorem witness_ProgramsRun :
    (∀ b ∈ [runB false false 0x123400, runB true false 0x123400, runB false true 5],
      let s := withRun b (linesS (upS id))
      entryIs 3 headS 1 (runIs b) s = true ∧ shaped s = true ∧ (s.part 3).ctxF.loaded = true ∧ (s.part 3).ctxB.loaded = true ∧
        (b.srcPart = true → runMay 3 b s = true)) ∧
    (∀ b ∈ [runB false false 0x123400, runB true false 0x123404, runB true true 5],
      let s := withRun b (linesS (upS (fun q => { q with ctxF := ctx0, ctxB := ctx0 })))
      entryIs 3 headS 1 (runIs b) s = true ∧ (s.part 3).ctxF.loaded = false ∧ (s.part 3).ctxB.loaded = false ∧ (s.part 3).runs.isEmpty = true ∧
        standbyRefuses s 3 = false ∧ (s.part 3).ckp.restore.isSome = false ∧ b.tgtv = false ∧ (b.srcPart = true → runMay 3 b s = true) ∧ (freeTag s).isSome = true) ∧
    runMay 3 (runB true true 5) ((upS id).modChan chan9.1 (fun x => { x with hold := some .retrain })) = false ∧
    (let j : RunJob := ⟨workS 1, runB false false 0x123400, image, false, true⟩
     let s := upS (fun q => { q with ctxF := ctx0, runs := [j] })
     shaped s = true ∧ (s.part 3).live = true ∧ (s.part 3).runs.find? (fun j => j.body.ctxB == false && j.ok) = some j) ∧
    (let j : RunJob := ⟨workS 1, runB true false 0x123400, image, false, true⟩
     let s := upS (fun q => { q with ctxF := ctx0, ctxB := ctx0, runs := [j] })
     shaped s = true ∧ (s.part 3).live = true ∧ (s.part 3).runs.find? (fun j => j.body.ctxB == true && j.ok) = some j ∧ (s.part 3).ckp.restores = false ∧
      (s.part 3).ctxF.loaded = false) := by
  decide +kernel

def stepB (rows inlen : Nat) : StepBody :=
  ⟨3, BitVec.ofNat 16 rows, true, true, false, true, 107, 0x5000, BitVec.ofNat 32 inlen, 0x9000, 64, padTo 16 [1, 2, 3]⟩
def withStep (b : StepBody) (s : State) : State :=
  withBody 2 (leBytes 2 b.ctx.toNat ++ leBytes 2 b.rows.toNat ++ [flagsS [b.bind, b.release, b.none_, b.cv], 0] ++ leBytes 2 b.fidx.toNat ++
    leBytes 8 b.ina.toNat ++ leBytes 8 b.inlen.toNat ++ leBytes 8 b.outa.toNat ++ leBytes 8 b.outmax.toNat ++ b.param) s
def stepS (inlen : Nat) : Step := ⟨workS 2, stepB 30 inlen, true, false, 0, [], false⟩
def delS : Delivery := ⟨workS 2, { stepB 30 0 with release := false }, 6, 0, true, true⟩

theorem witness_TokenSteps :
    (∀ b ∈ [stepB 30 0, stepB 300 0, stepB 0 0, { stepB 30 0 with ctx := 40 }],
      entryIs 3 headS 2 (fun bs => stepBody bs == b) (withStep b (upS id)) = true ∧ standbyRefuses (withStep b (upS id)) 3 = false) ∧
    shaped (upS id) = true ∧ (3 : Nat) < ccount (upS id) 3 ∧ ccount (upS id) 3 ≤ 40 ∧
    stepHead (upS id) 3 2 = none ∧ mget none ((upS id).part 3).dlv 7 = none ∧ (stepB 30 0).rows ≠ 0 := by
  decide +kernel

theorem witness_TokenSteps_prepare :
    (let s := upS (fun q => { q with dlvCount := 4, dlvNext := 6, dlvLine := 131071, steps := [(2, [stepS 0])] })
     stepHead s 3 2 = some (stepS 0) ∧ (s.part 3).ctxF.loaded = true ∧ (s.part 3).live = true ∧ (s.part 3).dlvCount ≠ 0 ∧
      (s.ctxRec (cbase s 3 + 3)).inflight = false ∧ slotFree (s.part 3) (6 % 4) = true ∧ (s.seq 3).ctxB = false ∧ (s.seq 3).hot = []) ∧
    (let s := upS (fun q => { q with dlvCount := 4, dlvNext := 6, dlvLine := 131071, steps := [(2, [stepS 999])],
                                      ctxF := { q.ctxF with hdr := List.replicate 32 0 ++ [2] ++ List.replicate 223 0 } })
     stepHead s 3 2 = some (stepS 999) ∧ hdrInsz (s.part 3).ctxF.hdr ≠ 0 ∧ (freeTag s).isSome = true) ∧
    (let s := upS (fun q => { q with steps := [(2, [{ stepS 0 with prepared := true }])] }); stepHead s 3 2 = some { stepS 0 with prepared := true }) := by
  decide +kernel

theorem witness_TokenSteps_complete :
    (let s := upS (fun q => { q with dlv := [(7, some delS)], dlvLine := 5 })
     mget none (s.part 3).dlv 7 = some delS ∧ delS.stored = true ∧ hostUp s = true ∧ (s.queue 3 2).en = true ∧ (s.queue 3 2).cqs ≤ 16 ∧
      delS.head = workS 2 ∧ workStarted 3 headS 2 s = workS 2 ∧ delS.body.release = false ∧ stepServes s 3 delS = false) ∧
    (let s := upS (fun q => { q with dlv := [(7, some delS)], dlvLine := 5 })
     let s := { s with
       fills := { s.fills with ctxs := [(13, { ctxRec0 with none_ := true, inflight := true, tokens := 4 })], crusts := [(0, { crust0 with state := 2 })] }
       hbm := { s.hbm with slabs := [(20, { slab0 with valid := true, shared := true, grant := 8 })] } }
     shaped s = true ∧ mget none (s.part 3).dlv 7 = some delS ∧ hostUp s = true ∧ stepServes s 3 delS = true ∧
      s.tiles.all (fun t => t.spoison.isEmpty) = true) ∧
    (let s := upS (fun q => { q with dlv := [(7, some { delS with stored := false })] }); mget none (s.part 3).dlv 7 = some { delS with stored := false }) := by
  decide +kernel

def moveS (toHost : Bool) (n : Nat) : MoveJob := ⟨workS 5, toHost, 0x12340, 4, 3, n, false⟩

def moveB (toHost : Bool) (n : Nat) : MoveBody := ⟨toHost, 0x12345, 0, BitVec.ofNat 25 n⟩
def withMove (b : MoveBody) (s : State) : State :=
  withBody 5 ([flagsS [b.toHost], 0, 0, 0, 0, 0, 0, 0] ++ leBytes 8 b.haddr.toNat ++ leBytes 8 b.pline.toNat ++ leBytes 8 b.nlines.toNat) s
def withAttest (n : Nat) (s : State) : State :=
  withBody 10 (List.replicate 8 0 ++ leBytes 8 0x999 ++ leBytes 8 n ++ List.replicate 32 7) s

theorem witness_MovesAndRecipes :
    (∀ b ∈ [moveB false 5, moveB true 0], entryIs 3 headS 5 (fun bs => moveBody bs == b) (withMove b (upS id)) = true) ∧
    ((upS id).part 3).moves = [] ∧ (freeTag (upS id)).isSome = true ∧ (writeClamp (upS id) 3 0 5).2.1 ≠ 0 ∧
    windowEnd (upS id) 3 ≠ 0 ∧ windowEnd ((upS id).modHbm (fun h => { h with slabs := [] })) 3 = 0 ∧
    (let s := upS (fun q => { q with moves := [moveS false 3] })
     (s.part 3).moves.find? (fun m => m.toHost || decide (m.n ≤ m.done)) = some (moveS false 3) ∧ workStarted 3 headS 5 s = workS 5 ∧
      (s.queue 3 2).en = true ∧ (s.queue 3 2).cqs ≤ 16) ∧
    (let m := { moveS true 0 with line := 5, n := 1 }
     let s := upS (fun q => { q with moves := [m] })
     (s.part 3).moves.find? (fun m => m.toHost || decide (m.n ≤ m.done)) = some m ∧ m.work = workS 5 ∧
      (let r := moveOut 3 m 1 0 (s.modHbm (fun h => { h with slabs := [] })); r.2.2 = false ∧ m.n ≤ r.2.1) ∧
      unitMay (s.modChan chan9.1 (fun x => { x with hold := some .retrain })) 1 3 [m.line + m.done] = false) ∧
    (∀ n ∈ [719, 720], entryIs 3 headS 10 (fun bs => attestBody bs == (0x999, BitVec.ofNat 32 n, List.replicate 32 7)) (withAttest n (upS id)) = true) ∧
    (upS id).tc.work = [] ∧ workStarted 3 headS 10 (upS id) = workS 10 ∧
    ((upS id).queue 3 2).en = true := by
  decide +kernel

def feedS (f : Siu → Siu) : State := upS (fun q => { q with siu := f q.siu })
def liveU (u : Siu) : Siu :=
  { u with live := true, k := 3, oring := 20, obase := 40, wbase := 10, whalf := 50, rposW := 5, kept := 7, cfg := [10, 6, 200, 33] }
def srcS (src len : Nat) : FeedSrc := ⟨BitVec.ofNat 2 src, 5, 0x7000, BitVec.ofNat 64 len⟩
def goingS : SiuFeed := ⟨workS 6, .data, 0, 5, 0x7000, 100, true, 50, 40, false, [], none⟩

/-- An SIU_FEED entry of an OP with the fields of every OP: K 30, SLOT 1, DICTID 5, SEED or FOFF 9, SKIP 6. -/
def withFeed (op : Nat) (f : FeedSrc) (s : State) : State :=
  withBody 6 ([BitVec.ofNat 8 op, BitVec.ofNat 8 (f.src.toNat + 4 * f.port.toNat), 30, 1] ++ leBytes 4 5 ++ leBytes 8 f.srca.toNat ++
    leBytes 8 f.len.toNat ++ leBytes 8 9 ++ leBytes 4 6) s
def feedIs (op : Nat) (f : FeedSrc) (bs : List Byte) : Bool :=
  feedOp bs == op && feedBody bs == f && entryBits bs 10 0 5 == 30 && entryFlag bs 11 0 && entryBits bs 12 0 32 == 5 && entryBits bs 32 0 64 == 9 &&
    entryBits bs 40 0 32 == 6
/-- Every feed of a source may stand at the head of the queue. -/
def feedsOk (f : FeedSrc) (s : State) : Bool := (List.range 5).all (fun op => entryIs 3 headS 6 (feedIs op f) (withFeed op f s))

theorem witness_FeedsAreTaken :
    (let s := feedS id; shaped s = true ∧ feedsOk (srcS 0 9) s = true ∧ feedsOk (srcS 3 9) s = true ∧ feedsOk (srcS 1 9) s = true ∧
      (s.siu 3).live = false ∧ (s.siu 3).feeds = [] ∧ (s.siu 3).ends = [] ∧ (srcS 3 9).src = 3 ∧ isStorage s 5 = false ∧ (freeTag s).isSome = true) ∧
    (let s := feedS (fun u => { liveU u with feeds := [goingS] })
     feedsOk (srcS 0 9) s = true ∧ (s.siu 3).feeds = [goingS] ∧ goingS.op = .data ∧ goingS.begun = true ∧ (s.siu 3).live = true ∧ goingS.left ≠ 0 ∧
      goingS.pois = false) ∧
    (let s := feedS liveU
     feedsOk (srcS 0 9) s = true ∧ feedsOk (srcS 0 0) s = true ∧ (s.siu 3).feeds = [] ∧ (s.siu 3).ends = [] ∧ (s.siu 3).live = true ∧
      (s.siu 3).wins = [] ∧ (srcS 0 9).src = 0 ∧ (srcS 0 9).len ≠ 0 ∧ (srcS 0 0).len = 0) ∧
    (let s := feedS (fun u => { liveU u with wins := [⟨1, false, [], 2, 3, 4⟩] })
     feedsOk (srcS 0 9) s = true ∧ (s.siu 3).feeds = [] ∧ (s.siu 3).live = true ∧ (s.siu 3).wins ≠ []) := by
  decide +kernel

/-- A frame of one raw block, one with a window of 16 MiB, one that names a dictionary, a skippable one, the first bytes of one, and
none. -/
def zRaw (content : List Byte) : List Byte :=
  leBytes 4 0xFD2FB528 ++ [0x20, BitVec.ofNat 8 content.length] ++ leBytes 3 (1 + 8 * content.length) ++ content
def zWindow : List Byte := leBytes 4 0xFD2FB528 ++ [0x00, 0x70] ++ leBytes 3 1
def zDict : List Byte := leBytes 4 0xFD2FB528 ++ [0x21, 9, 0] ++ leBytes 3 1
def zSkip : List Byte := leBytes 4 0x184D2A51 ++ [3, 0, 0, 0, 1, 2, 3]
def recZ (crc : List Byte) : List Byte := leBytes 4 3 ++ crc ++ [1, 2, 3] ++ List.replicate 5 0
def decodeS (buf : List Byte) (got : Nat) : State :=
  feedS (fun u => { liveU u with feeds := [{ goingS with buf := buf ++ [1, 2], left := buf.length + 2, got := got }], off := 100 })
/-- The first frame of a buffer is whole, and what comes behind it is not its. -/
def zEnds (buf : List Byte) : Bool := match (zFrame (buf ++ [1, 2])).end_ with | .done n _ => n == buf.length | _ => false
def zHolds (crc : List Byte) : Bool :=
  let buf := zRaw (recZ crc) ++ [1, 2]
  match (zFrame buf).end_ with
  | .done n plain => zContent [] (buf.take n) plain true == (recZ crc, true)
  | _ => false

theorem witness_SamplesFlow_frames :
    (let s := decodeS zSkip 100
     shaped s = true ∧ (s.part 3).live = true ∧ (s.siu 3).live = true ∧ (s.siu 3).wins = [] ∧ (s.siu 3).passing = 0 ∧
      (s.siu 3).feeds.map (fun f => (f.op, f.begun, f.src, f.pois, f.rest.isNone, decide (f.left = 0))) = [(.data, true, 0, false, true, false)]) ∧
    (∀ b ∈ [zSkip, zWindow, zDict, zRaw (recZ [1, 1, 1, 1]), zRaw (recZ (leBytes 4 (crc32c [1, 2, 3])))], zEnds b = true) ∧
    (zFrame (zSkip ++ [1, 2])).skippable = true := by
  decide +kernel

theorem witness_SamplesFlow_kinds :
    (let z := zFrame (zWindow ++ [1, 2]); z.skippable = false ∧ z.dictId = 0 ∧ 8388608 < z.window) ∧
    (let z := zFrame (zDict ++ [1, 2]); z.skippable = false ∧ z.dictId = 9 ∧ (feedS liveU).siu 3 = { (feedS liveU).siu 3 with dicts := [] }) ∧
    (∀ crc ∈ [[1, 1, 1, 1], leBytes 4 (crc32c [1, 2, 3])],
      let z := zFrame (zRaw (recZ crc) ++ [1, 2]); z.skippable = false ∧ z.window ≤ 8388608 ∧ z.dictId = 0 ∧ crc.length = 4 ∧ zHolds crc = true) ∧
    leNat [1, 1, 1, 1] ≠ crc32c [1, 2, 3] ∧ leNat (leBytes 4 (crc32c [1, 2, 3])) = crc32c [1, 2, 3] ∧
    (zFrame [0x28, 0xB5]).end_ = .more ∧
    (let z := zFrame [1, 2, 3, 4, 5, 6, 7]; z.skippable = false ∧ z.dictId = 0 ∧ z.window ≤ 8388608 ∧ z.end_ = .bad 0 (some [])) := by
  decide +kernel

/-- The record that is next in window 5, of `n` bytes from line `line` on. -/
def recS7 (n line : Nat) : SiuRec := ⟨7, line, (16 + n + 63) / 64, n⟩
def ringS (n line prod cons : Nat) : State := (feedS (fun u => { liveU u with
  k := 1, wins := [⟨5, true, [recS7 n line, recS7 n line], 2, 3, 4⟩], prod := prod, cons := cons })).modHbm (fun h => { h with slabs := [] })

theorem witness_SamplesFlow :
    (∀ x ∈ [(100, 0, 0), (100, 10, 0), (100, 19, 0), (100, 19, 10), (100, 30, 10), (1300, 0, 0)],
      let s := ringS x.1 70 x.2.1 x.2.2
      shaped s = true ∧ (s.part 3).live = true ∧ (s.siu 3).nexti < 2 ^ (s.siu 3).k ∧ (s.siu 3).oring = 20 ∧
        (s.siu 3).wins.map (fun w => (w.closed, w.recs[perm (s.siu 3).seed 5 1 (s.siu 3).nexti]?)) = [(true, some (recS7 x.1 70))]) ∧
    (let s := ringS 100 70 0 0
     unitMay s 1 3 [70, 71] = true ∧ (upTo (recS7 100 70).room).map (70 + ·) = [70, 71] ∧ (siuData 3 (recS7 100 70) s).2.2 = false) ∧
    (let s := { ringS 100 5 0 0 with hbm := hbmS.hbm }.modChan chan9.1 (fun x => { x with hold := some .retrain })
     unitMay s 1 3 [5, 6] = false) ∧
    (let s := (feedS (fun u => { liveU u with waits := true })).modHbm (fun h => { h with slabs := [] })
     (s.siu 3).waits = true ∧ unitMay s 1 3 [(s.siu 3).obase + 1] = true ∧ (partRead 1 3 ((s.siu 3).obase + 1) s).2.2 = false) ∧
    (let s := (feedS (fun u => { liveU u with waits := true, obase := 4 })).modChan chan9.1 (fun x => { x with hold := some .retrain })
     unitMay s 1 3 [(s.siu 3).obase + 1] = false) ∧
    ((feedS liveU).siu 3).waits = false := by
  decide +kernel

/-! Management, start-up, sideband (for the statements `CommandsAreChecked` to `Sideband`). -/

theorem witness_CommandsAreChecked :
    mgmtRuns hbmS = true ∧ mgmtRuns smp = false ∧ mgmtSigned hbmS = true ∧ mgmtAllows hbmS 0x101 = true ∧ envS.serial = hbmS.tc.serial ∧ envS.sigOk = true ∧
    anchorOk hbmS 0 0 = true ∧ hbmS.tc.cmdctr < envS.counter ∧ (4 : DWord) ≤ hbmS.tc.cmdctr ∧ (1 : BitVec 128) ≠ hbmS.tc.serial ∧ anchorOk hbmS 1 0 = false ∧
    mgmtOk 0x101 0 envS hbmS = true ∧
    (let s := { hbmS with tc := { hbmS.tc with mode := 3 } }; mgmtRuns s = true ∧ mgmtAllows s 0x101 = false) := by
  decide +kernel

theorem witness_OperatorsCommands :
    mgmtOk 0x141 3 envS hbmS = true ∧ mgmtOk 0x130 2 envS hbmS = true ∧ mgmtOk 0x140 3 envS hbmS = true ∧ hbmS.tc.fwCopy = false ∧ hbmS.tc.cfgCopy = false ∧
    hbmS.tc.hasCfg = true ∧ mgmtAllows hbmS 0x150 = true ∧ envS.serial = hbmS.tc.serial ∧ envS.sigOk = true ∧ (List.replicate 48 (9 : Byte)).length = 48 ∧
    hbmS.tc.cmdctr.toNat < envS.counter.toNat ∧ hbmS.tc.ophash.find? (fun e => e.1 == 1) = none ∧ hbmS.tc.oprevoke.getLsbD 1 = false ∧
    mget [] { hbmS.tc with ophash := [(1, [5])] }.ophash 1 ≠ [] ∧ mgmtRuns hbmS = true ∧ mgmtRuns smp = false ∧ hbmS.tc.work = [] ∧
    ({ hbmS with tc := { hbmS.tc with hasCfg := false } } : State).tc.sessions < maxSessions { hbmS with tc := { hbmS.tc with hasCfg := false } } ∧
    maxSessions hbmS ≤ hbmS.tc.sessions := by
  decide +kernel

/-- An operator's key certificate that the module's root key signed, for `ENROLL`. -/
def certS : List Byte := leBytes 4 0x5452434B ++ [2, 0, 0, 0] ++ List.replicate 312 0
def rootS : State := { hbmS with tc := { hbmS.tc with roothash := sha48 ((certS.drop 112).take 96) } }

theorem witness_OperatorsCommands_cert : keyCertValid rootS 2 certS true = true ∧ mgmtRuns rootS = true ∧ mgmtAllows rootS 0x150 = true ∧
    envS.serial = rootS.tc.serial ∧ envS.sigOk = true ∧ rootS.tc.cmdctr.toNat < envS.counter.toNat ∧
    rootS.tc.ophash.find? (fun e => e.1 == 1) = none ∧ rootS.tc.oprevoke.getLsbD 1 = false := by
  refine ⟨?_, by decide +kernel, by decide +kernel, by decide +kernel, by decide +kernel, by decide +kernel, by decide +kernel, by decide +kernel⟩
  have h : (sha48 ((certS.drop 112).take 96) == rootS.tc.roothash) = true := beq_self_eq_true _
  unfold keyCertValid
  simp only [h, Bool.and_true]
  decide +kernel

/-- A weight key whose halves differ, and one whose do not: the unwrapped key may be either, or none. -/
theorem witness_OperatorsCommands_key : ∃ key : List Byte, some key = some (List.replicate 32 (1 : Byte) ++ List.replicate 32 2) ∧
    key.take 32 ≠ (key.drop 32).take 32 := ⟨_, rfl, by decide⟩

theorem padTo_length (bs : List Byte) : (padTo 48 bs).length = 48 := by
  simp only [padTo, List.length_append, List.length_take, List.length_replicate]
  omega

/-- A Crust package of one wrap entry, this device's, whose plain fields pass. -/
def pkgS : List Byte :=
  let e := sha48 (identityPub smp.tc) ++ List.replicate 80 0
  ([0x43, 0x52, 0x53, 0x54, 1, 0, 0, 0] ++ List.replicate 72 0 ++ [1, 0, 0, 0] ++ List.replicate 100 0) ++
    (padTo 48 (Config.sha384 e) ++ (List.replicate 280 0 ++ e))

theorem witness_OperatorsCommands_package :
    let s : State := { smp with tc := { smp.tc with cfg := cfgOf [(0x2200, 1)] } }
    let l : CrustLoad := ⟨9, true, 0, 7, 0x999, pkgS, ldSig, 0, []⟩
    pkgOk s 0 l = true ∧ (l.mine s.tc).isSome = true := by
  have hd : pkgS.drop 184 = padTo 48 (Config.sha384 (sha48 (identityPub smp.tc) ++ List.replicate 80 0)) ++
      (List.replicate 280 0 ++ (sha48 (identityPub smp.tc) ++ List.replicate 80 0)) := rfl
  have he : pkgS.drop 512 = sha48 (identityPub smp.tc) ++ List.replicate 80 0 := by
    have : pkgS.drop 512 = ((pkgS.drop 184).drop 48).drop 280 := by rw [List.drop_drop, List.drop_drop]
    rw [this, hd, List.drop_left' (padTo_length _)]
    rfl
  have hi : (sha48 (identityPub smp.tc)).length = 48 := by
    simp only [sha48, List.length_take, List.length_append, List.length_replicate]
    omega
  have hg : (pkgS.drop 184).take 48 = padTo 48 (Config.sha384 (pkgS.drop 512)) := by
    rw [hd, he, List.take_left' (padTo_length _)]
  have hl : (pkgS.drop 512).length = 128 := by
    rw [he, List.length_append, hi]
    rfl
  have hn : CrustLoad.ndev ⟨9, true, 0, 7, 0x999, pkgS, ldSig, 0, []⟩ = 1 := rfl
  constructor
  · have h1 : (pkgS.drop 184).take 48 == padTo 48 (Config.sha384 ((pkgS.drop 512).take (128 * 1))) := by
      rw [List.take_of_length_le (Nat.le_of_eq hl), hg]
      exact beq_self_eq_true _
    unfold pkgOk
    rw [hn]
    simp only [Bool.and_eq_true]
    exact ⟨⟨⟨⟨⟨rfl, rfl⟩, rfl⟩, by decide +kernel⟩, h1⟩, by decide +kernel⟩
  · have h2 : ((pkgS.drop (512 + 128 * 0)).take 128).take 48 = sha48 (identityPub smp.tc) := by
      rw [List.take_of_length_le (Nat.le_of_eq hl), show pkgS.drop (512 + 128 * 0) = pkgS.drop 512 from rfl, he, List.take_left' hi]
    have h3 : identityPub ({ smp.tc with cfg := cfgOf [(0x2200, 1)] } : Tc) = identityPub smp.tc := rfl
    unfold CrustLoad.mine
    rw [hn]
    simp [upTo, CrustLoad.entry, h2, h3]

/-- A copy of the firmware in flash, which no anchor's digest refuses. -/
def headFw : List Byte := [0x50, 0x5A, 0x46, 0x57, 1, 0, 0, 0, 5, 0xFF, 0xFF, 0xFF, 0, 0, 0, 0] ++ List.replicate 8 0xFF ++
  [0, 0x10, 0, 0, 1, 0, 0, 0, 0, 0x20, 0, 0, 1, 0, 0, 0] ++ List.replicate 96 0xFF ++ [0x4B, 0x43, 0x52, 0x54, 1, 0xFF, 0xFF, 0xFF, 3, 0, 0, 0] ++
  List.replicate 492 0xFF
def rootOf (h : List Byte) : List Byte := sha48 ((((h.drop 136).take 320).drop 112).take 96)
def flashS : State := { State.reset with
  tc := { tc0 with flash := (headFw.zipIdx.filter (fun e => e.1 != 0xFF)).map (fun e => (e.2, ~~~e.1)), roothash := rootOf headFw }
  mdl := { State.reset.mdl with pgood := true, mrstN := false } }
def verdictS : BootVerdict := ⟨true, false, true, false, false, false, true, []⟩

theorem hdrValid_of (s : State) (h : List Byte) (hr : leNat ((h.drop 12).take 4) = 0) (ht : s.tc.roothash = rootOf h)
    (hk : (let n (off k : Nat) := leNat ((h.drop off).take k)
      n 0 4 == 0x57465A50 && n 4 4 == 1 && decide (n 8 1 ≤ 127) && decide (s.tc.fwfloor ≤ n 8 1) &&
        [(n 24 4, n 28 4, 262144), (n 32 4, n 36 4, 33554432)].all (fun x => x.1 % 4096 == 0 && decide (1 ≤ x.2.1) && decide (x.2.1 ≤ x.2.2) &&
          decide (0x1000 ≤ x.1) && decide (x.1 + x.2.1 ≤ 0x3000000)) &&
        (let m (off k : Nat) := leNat ((((h.drop 136).take 320).drop off).take k)
         m 0 4 == 0x5452434B && m 4 1 == 1 && decide (m 8 4 < 32) && !(s.tc.keyrevoke.getLsbD (m 8 4)))) = true) :
    hdrValid s h true = true := by
  have hr' : (sha48 ((((h.drop 136).take 320).drop 112).take 96) == s.tc.roothash) = true := by rw [ht]; exact beq_self_eq_true _
  simp only [List.all_cons, List.all_nil, Bool.and_true] at hk
  simp only [hdrValid, keyCertValid, hr, hr', Nat.zero_le, decide_true, Bool.true_and, Bool.and_true, ← Bool.and_assoc] at hk ⊢
  exact hk

theorem fwValid_of {s : State} {b sigs : Bool} {h : List Byte} (hh : fwHeader s b = h) (hv : hdrValid s h sigs = true) :
    fwValid s b sigs = true := by
  subst hh
  exact hv

theorem headFw_in_flashS : fwHeader flashS false = headFw := by decide +kernel

theorem fwValid_flashS : fwValid flashS false true = true :=
  fwValid_of headFw_in_flashS (hdrValid_of flashS headFw (by decide +kernel) rfl (by decide +kernel))

theorem witness_ModuleStartsAndStops_boot : shaped flashS = true ∧ flashS.mdl.pgood = true ∧ flashS.mdl.mrstN = false ∧
    (chooseFw flashS verdictS).1 = some false ∧ flashS.tc.mode = 0 ∧ flashS.tc.hasCfg = false ∧ verdictS.trainFail = [] ∧
    recordedLost flashS = [] := by
  refine ⟨by decide +kernel, by decide +kernel, by decide +kernel, ?_, by decide +kernel, by decide +kernel, by decide +kernel, by decide +kernel⟩
  have h1 := fwValid_flashS
  have h2 : fwValid flashS true false = false := by simp [fwValid, hdrValid]
  simp [chooseFw, verdictS, h1, h2, chooseCopy]

theorem witness_ModuleStartsAndStops :
    (let s := after .menDeassert (upS id); shaped s = true ∧ s.mdl.pgood = false ∧ s.mdl.overv = false) ∧ (upS id).mdl.pgood = true ∧ (upS id).mdl.mrstN = true ∧
    shaped (upS id) = true ∧ mgmtOk 0x142 3 envS (upS id) = true ∧ (upS id).twin.detach = none ∧ (upS id).twin.sync = false ∧
    (let s := after .mrstNAssert (upS id)
     s.mdl.pgood = true ∧ s.mdl.mrstN = false ∧ s.tc.phase8 = false ∧ (chooseFw s ⟨false, false, false, false, false, false, false, []⟩).1 = none) ∧
    (let s := { upS id with tc := { (upS id).tc with mode := 1, ready := false } }; s.tc.phase8 = true ∧ s.tc.ready = false ∧ s.tc.mode = 1) ∧
    (let s := { upS id with tc := { (upS id).tc with mode := 0, ready := false, cfg := cfgOf [(0x460, 6), (0x188, 1), (0x838, 0x31)] } }
     s.tc.phase8 = true ∧ s.tc.ready = false ∧ s.tc.mode = 0 ∧ secPart s.tc.cfg 3 0 4 ≠ 0) := by
  decide +kernel

def sideS (st got n : Nat) : State := { upS id with mdl := { (upS id).mdl with
  daddr := some 9, recState := st, recLen := 1000, recGot := got, recHdr := List.replicate n 5 } }

theorem witness_Sideband :
    (upS id).mdl.pgood = true ∧ (upS id).mdl.mrstN = true ∧ (upS id).mdl.daddr = none ∧ (after .menDeassert (upS id)).mdl.pgood = false ∧
    (sideS 0 0 0).mdl.daddr ≠ none ∧ (sideS 0 0 0).tc.mode = 2 ∧
    (let s := { sideS 0 0 0 with tc := { (sideS 0 0 0).tc with mode := 0 } }; s.tc.mode ≠ 2 ∧ s.mdl.daddr ≠ none ∧ s.mdl.pgood = true ∧ s.mdl.mrstN = true) ∧
    (sideS 1 0 0).mdl.recState = 1 ∧ (sideS 1 0 0).mdl.recGot = 0 ∧ (sideS 1 638 638).mdl.recHdr.length + 2 = 640 ∧
    (sideS 1 640 640).mdl.recHdr.length = 640 ∧ (sideS 1 1000 640).mdl.recGot = (sideS 1 1000 640).mdl.recLen ∧
    (sideS 1 1000 7).mdl.recHdr.length < 640 := by
  decide +kernel

/-! Power, clocks, the event log, the twin, and the rules stated whole (for the last statements). -/

def pwrS (f : Pwr → Pwr) : State := (upS id).modPwr f

theorem witness_PowerStates :
    shaped (upS id) = true ∧ inRun (upS id) = true ∧ (upS id).pwr.change = none ∧ mayEnter (upS id) 0 = true ∧ hostUp (upS id) = true ∧
    (upS id).host.l1 = false ∧ inRun (pwrS (fun w => { w with state := 3 })) = false ∧
    (let s := { pwrS (fun w => { w with permit := 1, elig := [(1, 5)] }) with tc := { (upS id).tc with cfg := cfgOf [(0x108, 4)] } }
     s.pwr.change = none ∧ s.pwr.state.toNat < s.pwr.permit.toNat ∧ mayEnter { s with parts := State.reset.parts } 1 = true) ∧
    (∀ x ∈ [1, 3, 4], (pwrS (fun w => { w with change := some (x, true) })).pwr.change = some (x, true)) ∧
    (let s := { pwrS (fun w => { w with state := 4, change := some (0, false) }) with host := { (upS id).host with l1 := true } }
     s.pwr.change = some (0, false) ∧ s.pwr.state = 4 ∧ s.host.l1 = true) := by
  decide +kernel

def limS (aclk target last below level : Nat) : State := { upS id with
  aon := 100000
  pwr := { (upS id).pwr with aclk := aclk, target := target, lastStep := last, below := below, level := BitVec.ofNat 2 level }
  tc := { (upS id).tc with cfg := cfgOf [(0x100, 0xB8), (0x101, 0xB), (0x104, 0xE8), (0x105, 3)] } }

theorem witness_ClocksAndLimits :
    (upS id).pwr.reflost = false ∧ (pwrS (fun w => { w with reflost := true })).pwr.reflost = true ∧ (mget [] (upS id).log.bufs 5).length < 4 ∧
    aclkRuns (limS 2000 700 0 0 0) = true ∧ aclkRuns (limS 0 700 0 0 0) = false ∧ 500 ≤ pkgLim (limS 2000 700 0 0 0) ∧ aclkMax (limS 2000 700 0 0 0) = 3000 ∧
    (700 : Nat) * 95 ≤ 680 * 100 ∧ (600 : Nat) * 100 < 700 * 95 ∧ (limS 2000 700 0 90000 0).pwr.below + 3199 ≤ 100000 ∧
    (limS 2000 700 90000 0 1).pwr.lastStep + 319 ≤ 100000 ∧ (limS 1000 700 0 0 1).pwr.level = 1 ∧
    vinBad (pwrS (fun w => { w with vinHist := List.replicate 9 30000 })).pwr.vinHist = false ∧ vinBad ((30000 :: List.replicate 9 30000).take 10) = true ∧
    hostOver 100 (List.replicate 9 300) = false ∧ hostOver 100 ((300 :: List.replicate 9 300).take 10) = true ∧ (upS id).host.siteOn = true ∧
    (after .hostSiteSwitchOff (upS id)).host.siteOn = false ∧ (upS id).mdl.lidt.toNat < 60 := by
  decide +kernel

def reportS (cls : Nat) : Report := ⟨cls, 5, 7, 3, 99, 1234⟩
def logS (wr rd fused cls : Nat) : State := { upS id with log := { (upS id).log with
  wr := BitVec.ofNat 11 wr, rd := BitVec.ofNat 11 rd, fused := fused, bufs := [(5, [reportS cls])] } }

theorem witness_EventsAreLogged :
    nextBuf (upS id).log = none ∧
    (∀ x ∈ [(7, 5, 0, 3), (1983, 0, 3, 3), (1983, 0, 64, 4), (1983, 0, 0, 1), (0, 0, 0, 4)],
      let l := (logS x.1 x.2.1 x.2.2.1 x.2.2.2).log
      nextBuf l = some 5 ∧ mget [] l.bufs 5 = [reportS x.2.2.2] ∧ l.wr.toNat < 1984 ∧ coalesceAt l (reportS x.2.2.2) = none) ∧
    (let s := after .eventLogIntake (logS 7 5 0 3)
     let l := { s.log with bufs := [(5, [reportS 3])] }
     nextBuf l = some 5 ∧ coalesceAt l (reportS 3) = some 7 ∧ (mget none l.recs 7).isSome = true) := by
  decide +kernel

/-- TP is up and the module's twin is paired. -/
def twinS (f : Twin → Twin) : State :=
  let s := (upS (fun q => { q with fill := partS.fill })).modPort 6 (fun x => { x with state := 3, echoAt := none, vcs := [(0, { vc0 with credits := 32 }), (1, { vc0 with credits := 64 }), (2, { vc0 with credits := 64 })] })
  { s with
    twin := f { s.twin with paired := true, role := 2, sync := true }
    pcl := { s.pcl with buckets := [] }
    fills := fills0
    tc := { s.tc with cfg := cfgOf [(0x340, 1), (0x348, 1), (0x349, 4), (0x34A, 7), (0x464, 100), (0x466, 50), (0x468, 10), (0x46A, 40)] } }
def recS (s : State) (kind vc part off : Nat) (pl : List Byte) : Frame :=
  let f := { mkFrame s vc kind 0 part off pl with cval := false, src := 7, seq := ((s.port 6).vc vc).expect }
  { f with fcrc := BitVec.ofNat 32 (closeFrame.crc32cOf (headBytes 0xD f ++ f.payload)) }

/-- A record is taken, and nothing else waits for its acknowledgement. -/
def takenS (s : State) (f : Frame) : Bool :=
  let r := rxAccept 6 0xD f s
  r.2 && twinRuns r.1 && r.1.pcl.buckets.isEmpty && r.1.fills.stages.isEmpty && r.1.twin.detach.isNone && r.1.twin.stale == 0 && !r.1.twin.resync &&
    r.1.twin == s.twin

theorem witness_TwinRecordsArrive :
    portUp { twinS id with pcl := { (twinS id).pcl with ports := [] } } 6 = false ∧ shaped (twinS id) = true ∧
    takenS (twinS id) (recS (twinS id) 1 0 0 0 [1]) = true ∧ (twinS id).twin.tpFail = false ∧ portUp (twinS id) 6 = true ∧
    (let s := twinS (fun w => { w with tpFail := true }); takenS s (recS s 1 0 0 0 [1]) = true ∧ s.twin.tpFail = true ∧ portUp s 6 = true) ∧
    (∀ k ∈ [3, 4, 5], takenS (twinS id) (recS (twinS id) k 0 3 0 []) = true) ∧ (twinS id).twin.role = 2 ∧ (twinS id).twin.sync = true ∧
    mirroredNow (twinS id) 3 = true ∧
    (let s := twinS (fun w => { w with sync := false }); takenS s (recS s 3 0 3 0 []) = true ∧ s.twin.role = 2 ∧ s.twin.sync = false) ∧
    (let s := twinS (fun w => { w with role := 1 }); takenS s (recS s 3 0 3 0 []) = true ∧ s.twin.role ≠ 2) ∧
    inRangeOf (twinS id) 3 107 = true ∧ inRangeOf (twinS id) 3 7 = false := by
  decide +kernel

theorem witness_TwinRecordsArrive_mirror :
    (let f := recS (twinS id) 0x10 1 3 0 (leBytes 8 107 ++ List.replicate 56 3); takenS (twinS id) f = true ∧ f.vc = 1 ∧ f.tag.toNat % 256 = 0x10) ∧
    (let f := recS (twinS id) 0x11 1 3 0 (leBytes 2 107 ++ leBytes 6 0 ++ List.replicate 64 3)
     takenS (twinS id) f = true ∧ f.tag.toNat % 256 = 0x11 ∧
      (let s := (twinS id).modFills (fun x => { x with descs := [(107, { desc0 with wlen := 9 })] }); takenS s f = true ∧
        (f.payload.length - 8) / 64 ≤ (s.desc 107).wlen)) ∧
    (let f := recS (twinS id) 0x12 1 3 0 (leBytes 8 7 ++ List.replicate 32 3); takenS (twinS id) f = true ∧ f.payload.length / 40 = 1 ∧ 7 < ccount (twinS id) 3) ∧
    (let f := recS (twinS id) 0x13 1 3 0 (leBytes 8 7 ++ List.replicate 32 3); takenS (twinS id) f = true ∧ f.tag.toNat % 256 = 0x13) ∧
    (let f := recS (twinS id) 0x14 1 3 0 []; takenS (twinS id) f = true ∧ f.tag.toNat % 256 = 0x14) := by
  decide +kernel

theorem witness_TwinTimers :
    shaped (twinS id) = true ∧ twinRuns (twinS id) = true ∧ portUp (twinS id) 6 = true ∧ twinRuns smp = false ∧
    (twinS id).pcl.buckets.isEmpty = true ∧ (twinS id).fills.stages.isEmpty = true ∧ (twinS id).twin.detach = none ∧ (twinS id).twin.stale = 0 ∧
    (twinS id).twin.resync = false ∧ (twinS id).twin.paired = true ∧ (twinS id).twin.lastRx + 320000 ≤ (twinS id).aon.toNat ∧
    (twinS id).twin.sense = false ∧ (twinS (fun w => { w with sense := true, role := 1 })).twin.sense = true ∧
    (twinS (fun w => { w with lastRx := 1234567 })).twin.lastRx + 320000 > 1234567 ∧
    (let s := { twinS (fun w => { w with role := 0, paired := false }) with aon := 32000000 }
     twinRuns s = true ∧ s.twin.role = 0 ∧ s.twin.readyAt + 32000000 ≤ s.aon.toNat ∧ twRole s = 1) ∧
    (let s := { twinS (fun w => { w with role := 0, sense := true }) with aon := 32000000, tc := { (twinS id).tc with cfg := cfgOf [(0x340, 2)] } }
     twinRuns s = true ∧ s.twin.role = 0 ∧ s.twin.readyAt + 32000000 ≤ s.aon.toNat ∧ twRole s ≠ 1 ∧ s.twin.sense = true) ∧
    (let s := twinS (fun w => { w with role := 3, released := some 7 }); s.twin.released = some 7 ∧ s.twin.role = 3 ∧ 7 + 320000 ≤ s.aon.toNat) ∧
    (let s := twinS (fun w => { w with detach := some (9, 77) })
     s.twin.detach = some (9, 77) ∧ 77 + 640000 ≤ s.aon.toNat ∧ s.twin.stale = 0 ∧ s.twin.resync = false ∧ mirrorDrained s = true) ∧
    (let s := after (.partReset 3 headS) (withEntry 8 hbmS); (s.part 3).reset.map (·.mirror) = some true ∧
      ((s.modPart 3 (fun q => { q with reset := q.reset.map (fun r => { r with mirror := false }) })).part 3).reset.map (·.mirror) = some false) ∧
    (smp.part 3).reset = none := by
  decide +kernel

/-- `ReservedFormatLoadsNothing`, `FloorsRiseAtCommit`, `LinesOfAnEmptyEpoch`. -/
theorem witness_WholeRules :
    smp.quiet 3 = true ∧ ({ arrS with fmt := 13 } : ArrSlot).flip = false ∧ ({ arrS with fmt := 13 } : ArrSlot).fmt.toNat = 13 ∧
    mgmtOk 0x141 3 envS hbmS = true ∧ secNum (cfgOf [(16, 1)]) 16 1 = 1 ∧
    (let s := { flashS with tc := { flashS.tc with fwfloor := 9 } }; fwSvn s false < s.tc.fwfloor) ∧
    (let s := hbmS.modKey 3 (fun x => { x with k0 := none })
     shaped s = true ∧ (s.slab (slabOf dev9)).shared = false ∧ (s.keyReg (slotOf (s.slab (slabOf dev9)))).curKey = none ∧
      (s.slab (slabOf dev9)).valid = true ∧ mget none s.glazeSlabs (slabOf dev9) = none ∧
      mget none s.hbm.lines dev9 = some meta9 ∧ mget [] s.hbm.flaws dev9 = [] ∧
      (s.keyReg (slotOf (s.slab (slabOf dev9)))).key (mdEpoch (mdMake false false 3)) = none) := by
  decide +kernel

/-! Records with any payload, for the clauses of `TwinRecordsArrive` on ATTACH and on checkpoint units. -/

theorem crcStep_lt (c : Nat) (b : Byte) (hc : c < 2 ^ 32) : closeFrame.step c b < 2 ^ 32 := by
  have h : ∀ (l : List Nat) (x : Nat), x < 2 ^ 32 →
      l.foldl (fun c _ => if c % 2 = 1 then Nat.xor (c / 2) 0x82F63B78 else c / 2) x < 2 ^ 32 := by
    intro l
    induction l with
    | nil => intro x hx; exact hx
    | cons a l ih =>
      intro x hx
      rw [List.foldl_cons]
      apply ih
      split
      · exact Nat.xor_lt_two_pow (by omega) (by decide)
      · omega
  exact h _ _ (Nat.xor_lt_two_pow hc (Nat.lt_of_lt_of_le b.isLt (by decide)))

theorem crc_lt (bs : List Byte) : closeFrame.crc32cOf bs < 2 ^ 32 := by
  have h : ∀ (l : List Byte) (x : Nat), x < 2 ^ 32 → l.foldl closeFrame.step x < 2 ^ 32 := by
    intro l
    induction l with
    | nil => intro x hx; exact hx
    | cons b l ih => intro x hx; exact ih _ (crcStep_lt x b hx)
  exact Nat.xor_lt_two_pow (h bs _ (by decide)) (by decide)

def openRec (vc : BitVec 3) (tag : Half) (n : BitVec 6) (b : List Byte) : Frame :=
  ⟨vc, false, 0, 7, 0xFFFFFF, 0, tag, 0, 3, 0, 0, 0, false, false, 0, 0, 0, false, false, n, 0, true, b⟩
def anyRec (vc : BitVec 3) (tag : Half) (n : BitVec 6) (b : List Byte) : Frame :=
  { openRec vc tag n b with fcrc := BitVec.ofNat 32 (closeFrame.crc32cOf (headBytes 0xD (openRec vc tag n b) ++ b)) }

theorem anyRec_ok {vc : BitVec 3} {tag : Half} {n : BitVec 6} {b : List Byte} (hn : n.toNat ≤ 32) (hb : b.length = 32 * n.toNat) :
    fcrcOk 0xD (anyRec vc tag n b) = true := by
  have h : (BitVec.ofNat 32 (closeFrame.crc32cOf (headBytes 0xD (openRec vc tag n b) ++ b))).toNat =
      closeFrame.crc32cOf (headBytes 0xD (openRec vc tag n b) ++ b) := by
    rw [BitVec.toNat_ofNat, Nat.mod_eq_of_lt (crc_lt _)]
  have hh : headBytes 0xD (anyRec vc tag n b) = headBytes 0xD (openRec vc tag n b) := rfl
  simp only [fcrcOk, hh, Bool.and_eq_true, decide_eq_true_eq, beq_iff_eq]
  exact ⟨⟨⟨rfl, hn⟩, hb⟩, h⟩

theorem anyRec_taken {s : State} {vc : BitVec 3} {tag : Half} {n : BitVec 6} {b : List Byte} (hn : n.toNat ≤ 32) (hb : b.length = 32 * n.toNat)
    (hu : portUp s 6 = true) (hr : ((s.port 6).vc vc.toNat).rst = false) (he : ((s.port 6).vc vc.toNat).expect = 0)
    (hg : vcGlazed (s.modVc 6 vc.toNat (fun x => { x with expect := x.expect + 1, nak := false })) 6 vc.toNat = false) :
    rxAccept 6 0xD (anyRec vc tag n b) s = (s.modVc 6 vc.toNat (fun x => { x with expect := x.expect + 1, nak := false }), true) := by
  have hf := anyRec_ok (vc := vc) (tag := tag) hn hb
  have h1 : (anyRec vc tag n b).vc = vc := rfl
  have h2 : (anyRec vc tag n b).cval = false := rfl
  have h3 : (anyRec vc tag n b).seq = 0 := rfl
  have h4 : rxWake 6 s = s := rfl
  have h5 : frameHome (s.modVc 6 vc.toNat (fun x => { x with expect := x.expect + 1, nak := false })) 6 0xD (anyRec vc tag n b) = true := rfl
  unfold rxAccept
  simp only [h1, h2, h3, h4, hf, hu, hr, he, Bool.not_true, Bool.false_eq_true, if_false, ne_eq, not_true_eq_false]
  simp only [h5, hg, Bool.not_true, Bool.false_eq_true, if_false]

theorem witness_TwinRecordsArrive_any (vc : BitVec 3) (hv : vc = 0 ∨ vc = 2) (tag : Half) (n : BitVec 6) (b : List Byte) (hn : n.toNat ≤ 32)
    (hb : b.length = 32 * n.toNat) : ∃ u, rxAccept 6 0xD (anyRec vc tag n b) (twinS id) = (u, true) ∧ twinRuns u = true ∧
      u.pcl.buckets = [] ∧ u.fills.stages = [] ∧ u.twin = (twinS id).twin := by
  rcases hv with rfl | rfl
  · exact ⟨_, anyRec_taken hn hb (by decide +kernel) (by decide +kernel) (by decide +kernel) (by decide +kernel),
      by decide +kernel, by decide +kernel, by decide +kernel, by decide +kernel⟩
  · exact ⟨_, anyRec_taken hn hb (by decide +kernel) (by decide +kernel) (by decide +kernel) (by decide +kernel),
      by decide +kernel, by decide +kernel, by decide +kernel, by decide +kernel⟩

/-- ATTACH of this module's configuration with either role of the peer, and of another configuration: the payload of an
`anyRec` of 64 bytes may be any of them. -/
theorem witness_TwinRecordsArrive_attach (s : State) (peer : Byte) :
    (∃ b : List Byte, b.length = 64 ∧ b.take 48 = attachDigest s ∧ nth 0 b 48 = peer) ∧ (∃ b : List Byte, b.length = 64 ∧ b.take 48 ≠ attachDigest s) := by
  have hl : (attachDigest s).length = 48 := padTo_length _
  refine ⟨⟨attachDigest s ++ peer :: List.replicate 15 0, by simp [hl], List.take_left' hl, ?_⟩, ?_⟩
  · simp [nth, hl]
  · by_cases h : attachDigest s = List.replicate 48 1
    · exact ⟨List.replicate 64 2, by simp, by rw [h]; decide⟩
    · exact ⟨List.replicate 64 1, by simp, fun hc => h hc.symm⟩

/-! Ill-formed terms that the check refuses, one for each check of `WellFormed.lean`. -/

theorem test_wf_port : Instr.wf (.linkBringUp 7) = false ∧ Instr.wf (.linkBringUp 6) = true := by decide
theorem test_wf_link : Instr.wf (.lpi 6 0) = false ∧ Instr.wf (.lpi 5 0) = true := by decide
theorem test_wf_slab : Instr.wf (.slabGlazeEnd 768) = false ∧ Instr.wf (.slabGlazeEnd 767) = true := by decide
theorem test_wf_source : Instr.wf (.fillingStage 0 headS { stageB with src := 1, port := 6 }) = false ∧ Instr.wf (.fillingStage 0 headS stageB) = true := by decide
theorem test_wf_errors : Instr.wf (.patrolScrubRead [(72, 1)]) = false ∧ Instr.wf (.patrolScrubRead [(3, 1), (3, 2)]) = false ∧
    Instr.wf (.patrolScrubRead [(71, 1), (3, 2)]) = true := by decide
theorem test_wf_unit : Instr.wf (.swr 0 1 2 []) = false := by decide
theorem test_wf_count : Instr.wf (.srd 0 1 2 0) = false ∧ Instr.wf (.srd 0 1 2 1) = true := by decide
theorem test_wf_crust : Instr.wf (.crustLoad envS 0 false 6 0 0) = false ∧ Instr.wf (.crustLoad envS 0 true 6 0 0) = true := by decide
theorem test_wf_param : Instr.wf (.tokenStep 0 headS { stepB 1 0 with param := [1] }) = false := by decide
theorem test_wf_nonce : Instr.wf (.attestDev envS [1]) = false := by decide
theorem test_wf_slabs : Instr.wf (.grantGran envS 0 1 [(768, 0)]) = false ∧ Instr.wf (.reclaimGran envS 0 1 [768]) = false ∧
    Instr.wf (.moveGran envS 0 1 1 [(767, 0)]) = true := by decide
theorem test_wf_hash : Instr.wf (.enroll envS 0 false [1] certS true) = false ∧ Instr.wf (.enroll envS 0 false (List.replicate 48 1) [1] true) = false ∧
    Instr.wf (.enroll envS 0 false (List.replicate 48 1) certS true) = true := by decide +kernel
theorem test_wf_flash : Instr.wf (.flashWrite envS false false 0 (List.replicate 1048577 0) true) = false := by
  simp only [Instr.wf, List.length_replicate]
  decide
theorem test_wf_wwr : Instr.wf (.wwr 0 [1]) = false := by decide
theorem test_wf_mcpl : Instr.wf (.mcpl 0 []) = false ∧ Instr.wf (.mcpl 0 [1]) = true := by decide
theorem test_wf_temps : Instr.wf (.dieTempRead []) = false ∧ Instr.wf (.telemetryRefresh ⟨0, 0, 0, 0, 0, []⟩) = false := by decide
theorem test_wf_recovery : Instr.wf (.recData 0 [] true) = false ∧ Instr.wf (.recData 0 [1] true) = true := by decide
theorem test_wf_twin : Instr.wf (.heartbeat { frameX with vc := 1 }) = false ∧ Instr.wf (.fdesc { frameX with vc := 0 }) = false ∧
    Instr.wf (.ckpt { frameX with vc := 0 }) = false := by decide

/-! Worked examples of the spec. -/

/-- R407's check values over the ASCII bytes "123456789". -/
theorem test_crc : (List.range 3).map (fun alg => crcOf alg [0x31, 0x32, 0x33, 0x34, 0x35, 0x36, 0x37, 0x38, 0x39]) =
    [0xE3069283, 0xCBF43926, 0x6C40DF5F0B497347] := by decide +kernel

/-- R13: tile (13, 6) is tile 109, of granule 30. -/
theorem test_granule : granuleOf (16 * 6 + 13) = 30 := by decide

/-- Device overview: a partition of granules 9, 10, 17 and 18 holds the 4 × 4 block of tiles x = 2–5, y = 2–5. -/
theorem test_partition_tiles : { part0 with granules := 0x60600#32 }.tiles = [34, 35, 36, 37, 50, 51, 52, 53, 66, 67, 68, 69, 82, 83, 84, 85] := by
  decide +kernel

/-- Memory system: partition byte address 0x2_4ABC_DE40 with slab 209 at PSLOT 18 is device address 0x1A_2ABC_DE40, in channel
181, pseudo-channel 1. -/
theorem test_translate :
    let s := smp.modHbm (fun h => { h with slabs := [(209, { slab0 with valid := true, owner := 3, pslot := 18 })] })
    translate s 3 (0x24ABCDE40 / 64) = some 0x1A2ABCDE40 ∧ (chanOf s 0x1A2ABCDE40).1 = 181 ∧ (chanOf s 0x1A2ABCDE40).2.1 = 1 ∧
      stackOf 181 = 5 := by
  decide +kernel

/-- R13: the window of partition 5 begins at 0x24_0000; its SQ base of queue 0 lies 0x2000 further on. -/
theorem test_window : ((after (.registerWrite 0x242000 0x12345) (upS id)).queue 5 0).sqbase = 0x12000 := by decide +kernel

/-- The header of R348, field by field: TYPE 2 (WRD), LEN 8 from bit 8, TAG 5 from bit 21, ADDR 0x1000 from bit 64; a TYPE of 0xA
spells no command. -/
theorem test_transaction : let h (typ : Nat) : BitVec 128 := BitVec.ofNat 128 (typ + 8 * 2 ^ 8 + 5 * 2 ^ 21 + 0x1000 * 2 ^ 64)
    transactionOf (h 2) [] = some (.wrd 0x1000 8 5) ∧ transactionOf (h 0xA) [] = none := by decide +kernel

/-! A few commands. -/

/-- s[D] + s[A], wrapping (R104): s2 is 2^64 − 1, s1 is 7. -/
theorem test_scl_add : ((advance 3 1001 (after (.sclAdd 3 9 1 2) smp)).part 3).ctx.sreg 9 = 6 := by decide +kernel

/-- A taken JMP of hold 1 takes a bubble (R103). -/
theorem test_ctl_jmp : let t := after (.ctlJmp 3 1 20) smp; (t.part 3).ctx.pc = 20 ∧ (t.seq 3).cyc = 1002 := by decide +kernel

/-- Commands are taken in the order they came in. -/
theorem test_queue : (match step { smp with pending := [.ctlJmp 3 1 20, .evtCtlFrclr] } with | .next t => t.pending | _ => []) = [.evtCtlFrclr] := by
  decide +kernel

end Sys2Proof.Tests
end

/-!
A bundle whose one ARR slot is that of one array, issued on a stream at rest, and the LOAD of a reserved format (R50).
-/

namespace Sys2Proof.Machine

/-! The ARR slots of a bundle that carries one: what the other three arrays' NOPs add. -/

/-- The ARR slot of 96 zero bits: a NOP. -/
def nopArr : ArrSlot := decodeArr 0

@[simp] theorem nopArr_op : nopArr.op = 0 := by decide
@[simp] theorem nopArr_flip : nopArr.flip = false := by decide

/-- The bundle that `arrAlone` issues. -/
def arrBundle (a : Nat) (sl : ArrSlot) (hold : BitVec 9) : Bundle := { holding hold with arr := nopBundle.arr.set a sl }

theorem arrAlone_eq (p a : Nat) (sl : ArrSlot) (hold : BitVec 9) (s : State) :
    arrAlone p a sl hold s = slotAlone p (arrBundle a sl hold) s := rfl

theorem nopBundle_arr : nopBundle.arr = List.replicate 4 nopArr := by
  rw [nop_arr]; decide

theorem cases_of_lt_four {a : Nat} (ha : a < 4) : a = 0 ∨ a = 1 ∨ a = 2 ∨ a = 3 := by omega

theorem arrsOf_arrBundle {a : Nat} (ha : a < 4) (sl : ArrSlot) (hold : BitVec 9) :
    arrsOf (arrBundle a sl hold) = (upTo 4).map (fun n => (n, if n = a then sl else nopArr)) := by
  simp only [arrsOf, arrBundle, nopBundle_arr]
  rcases cases_of_lt_four ha with rfl | rfl | rfl | rfl <;> rfl

/-- Doing for each ARR slot what leaves a NOP's state alone is doing it for the one slot. -/
theorem forEach_arrBundle {f : Nat × ArrSlot → State → State} (hf : ∀ n s, f (n, nopArr) s = s) {a : Nat} (ha : a < 4)
    (sl : ArrSlot) (hold : BitVec 9) (s : State) : forEach (arrsOf (arrBundle a sl hold)) f s = f (a, sl) s := by
  rw [arrsOf_arrBundle ha]
  rcases cases_of_lt_four ha with rfl | rfl | rfl | rfl <;> simp [forEach, upTo, List.range_succ, hf]

/-- No ARR slot has what neither a NOP nor the one slot has. -/
theorem filter_arrBundle {g : Nat × ArrSlot → Bool} (hg : ∀ n, g (n, nopArr) = false) {a : Nat} (ha : a < 4)
    {sl : ArrSlot} (hold : BitVec 9) (hsl : g (a, sl) = false) : (arrsOf (arrBundle a sl hold)).filter g = [] := by
  rw [arrsOf_arrBundle ha, List.filter_eq_nil_iff]
  intro e he
  obtain ⟨n, -, rfl⟩ := List.mem_map.1 he
  by_cases hn : n = a
  · simp [hn, hsl]
  · simp [hn, hg]

theorem flipsOf_arrBundle {a : Nat} (ha : a < 4) {sl : ArrSlot} (hold : BitVec 9) (hf : sl.flip = false) :
    flipsOf (arrsOf (arrBundle a sl hold)) = [] := by
  rw [flipsOf, filter_arrBundle (fun _ => nopArr_flip) ha hold hf, List.map_nil]

theorem macSlots_arrBundle {a : Nat} (ha : a < 4) {sl : ArrSlot} (hold : BitVec 9) (h1 : sl.op ≠ 1) (h3 : sl.op ≠ 3) :
    macSlots (arrsOf (arrBundle a sl hold)) = [] :=
  filter_arrBundle (by simp) ha hold (by simpa using ⟨h1, h3⟩)

/-- A LOAD of a reserved format waits for no place in its loader. -/
theorem loadFrom_reserved (q : Seq) {a : Nat} (ha : a < 4) {sl : ArrSlot} (hold : BitVec 9) (hr : 13 ≤ sl.fmt.toNat) :
    loadFrom q (arrBundle a sl hold) = 0 := by
  have hsl : ¬ sl.fmt.toNat < 13 := by omega
  rw [loadFrom, arrsOf_arrBundle ha]
  rcases cases_of_lt_four ha with rfl | rfl | rfl | rfl <;> simp [upTo, List.range_succ, maxL, hsl]

/-! What such a bundle does once and in each cycle of its hold. -/

theorem slotsOnce_arr (p a : Nat) (sl : ArrSlot) (hold : BitVec 9) (skip : Option SReg) (s : State) :
    slotsOnce p (arrBundle a sl hold) skip s = arrOnce p (arrsOf (arrBundle a sl hold)) s := by
  have h3 : ¬ nopBundle.upd.op = 3 := by rw [nop_upd]; decide
  have h4 : ¬ nopBundle.upd.op = 4 := by rw [nop_upd]; decide
  have hb : arrBundle a sl hold = { nopBundle with ctl := (holding hold).ctl, arr := nopBundle.arr.set a sl } := rfl
  simp only [hb, slotsOnce, sclSlot_nop, vecOnce_nop, updClamps_nop, h3, h4, if_false, movClamps_nop, memSlot_nop,
    xchSlot_nop]

theorem slotsCycle_arr (p a : Nat) (sl : ArrSlot) (hold : BitVec 9) (sc : Nat → DWord) (k H : Nat) (s : State) :
    slotsCycle p (arrBundle a sl hold) sc k H s = arrCycle p (arrsOf (arrBundle a sl hold)) k H s := by
  have hb : arrBundle a sl hold = { nopBundle with ctl := (holding hold).ctl, arr := nopBundle.arr.set a sl } := rfl
  simp only [hb, slotsCycle, vecCycle_nop, updCycle_nop, movCycles_nop]

/-- A LOAD without FLIP acts once: its clamps aside, it is `arrLoad`. -/
theorem arrOnce_load (p : Nat) {a : Nat} (ha : a < 4) {sl : ArrSlot} (hold : BitVec 9) (hop : sl.op = 2)
    (hf : sl.flip = false) (s : State) : arrOnce p (arrsOf (arrBundle a sl hold)) s = arrLoad p a sl s := by
  have hflips : flipArrays p (flipsOf (arrsOf (arrBundle a sl hold))) s = s := by
    rw [flipsOf_arrBundle ha hold hf]; rfl
  have hclamps : arrClamps p (arrsOf (arrBundle a sl hold)) s = s := by
    rw [arrClamps, macSlots_arrBundle ha hold (by simp [hop]) (by simp [hop]), forEach_arrBundle (by simp [clampIf]) ha]
    simp [clampIf, hop]
  simp only [arrOnce, hflips, hclamps]
  rw [forEach_arrBundle (by simp) ha]
  simp [hop]

/-- A LOAD has no part in the cycles of a hold. -/
theorem arrCycle_load (p : Nat) {a : Nat} (ha : a < 4) {sl : ArrSlot} (hold : BitVec 9) (hop : sl.op = 2) (k H : Nat)
    (s : State) : arrCycle p (arrsOf (arrBundle a sl hold)) k H s = s := by
  refine forEach_id _ _ (fun t s => ?_) s
  have hmac : macTile p t (arrsOf (arrBundle a sl hold)) k H s = s := by
    rw [macTile, macSlots_arrBundle ha hold (by simp [hop]) (by simp [hop])]
  rw [hmac, forEach_arrBundle (by simp [accTile]) ha]
  simp [accTile, hop]

/-! A clamp in the one cycle of a bundle, on a stream at rest. -/

/-- COUNT rises by 1 and saturates (R343). -/
theorem clampCount_toNat (c : Word) :
    (if c = 0xFFFFFFFF then c else c + 1).toNat = min 0xFFFFFFFF (c.toNat + 1) := by
  have hc := c.isLt
  split
  · next h => subst h; rfl
  · next h =>
    have hne : c.toNat ≠ 0xFFFFFFFF := fun e => h (BitVec.eq_of_toNat_eq e)
    rw [BitVec.toNat_add]
    show (c.toNat + 1) % 2 ^ 32 = _
    omega

theorem cyc_opened (p : Nat) (s : State) (h : s.rested p = true) : ((opened p s).part p).seq.cyc = (s.part p).seq.cyc := by
  obtain ⟨hs, hp, -⟩ := (rested_iff s p).1 h
  simp only [opened, clampCycle, State.modSeq, modPart_modPart, part_of_shaped _ s hs hp]

/-- The cycle of a bundle that does nothing but count one clamp, from its opening to its end. -/
theorem clamp_in_cycle (p src : Nat) (s : State) (h : s.rested p = true) (hsrc : src ≤ 15) :
    clampCycle p false (advance p ((s.part p).seq.cyc + 1) (clamp p src (opened p s))) = (clamp p src s).clocked p 1 := by
  obtain ⟨hs, hp, -, -, hfl, -, hld, hhot, hlines, hcyc, hlow⟩ := (rested_iff s p).1 h
  have hsrc' : ¬ 15 < src := by omega
  simp only [clamp, opened, clampCycle, State.modSeq, State.clocked, modPart_modPart]
  rw [advance_rest]
  · simp only [modPart_modPart]
    apply modPart_congr
    simp [Part.lastSrc, hlow, hhot, hlines, hcyc, hsrc']
  · simp [part_of_shaped _ s hs hp, hfl]
  · simp [part_of_shaped _ s hs hp, hld]

/-- A LOAD of a reserved format, on a stream that may issue: one clamp of the bundle stream, one cycle, and nothing else. -/
theorem arrAlone_load_reserved {p a : Nat} (ha : a < 4) {sl : ArrSlot} {s : State} (h : s.quiet p = true) (hop : sl.op = 2)
    (hf : sl.flip = false) (hr : 13 ≤ sl.fmt.toNat) : arrAlone p a sl 1 s = (clamp p 1 s).clocked p 1 := by
  have hrest := rested_of_quiet h
  have hflips := flipsOf_arrBundle ha 1 hf
  have hone : holdOf (arrBundle a sl 1).ctl.hold = 1 := rfl
  have hload (s : State) : arrLoad p a sl s = clamp p 1 s := if_pos hr
  rw [arrAlone_eq, slotAlone_quiet p _ s h hflips (loadFrom_reserved _ ha _ hr), ← clamp_in_cycle p 1 s hrest (by decide)]
  simp only [runSlots, hflips, hone, slotsOnce_arr, slotsCycle_arr, arrOnce_load _ ha _ hop hf, arrCycle_load _ ha _ hop, hload]
  simp [forEach, upTo, now, State.seq, cyc_opened p s hrest]

/-- Settles O57: the command is one clamp and one cycle, neither of which touches a tile, a loader or a plane's record. -/
theorem reservedFormatLoadsNothing : Obligations.ReservedFormatLoadsNothing := by
  intro s p a sl h hf hr
  obtain ⟨hs, hp, -⟩ := (rested_iff s p.toNat).1 (rested_of_quiet h)
  have hexec : exec (.arrLoad p a sl) s = .next ((clamp p.toNat 1 s).clocked p.toNat 1) :=
    congrArg Host.Outcome.next (arrAlone_load_reserved a.isLt h (sl := { sl with op := 2 }) rfl hf hr)
  refine ⟨_, hexec, rfl, ?_⟩
  simp only [State.seq, State.clocked, clamp, modPart_modPart, part_of_shaped _ s hs hp, true_and]
  exact ⟨rfl, clampCount_toNat _⟩

end Sys2Proof.Machine

/-!
Writes and reads of a line whose epoch holds no key (R264): the write becomes a clamp, the read fails the metadata check.
-/

namespace Sys2Proof.Machine

/-! A write. -/

/-- A clamp counts for its own partition, up to saturation (R343). -/
theorem clamp_clampCount {p : Nat} (src : Nat) {s : State} (hs : s.Shaped) (hp : p < 32) :
    ((clamp p src s).part p).clampCount.toNat = min 0xFFFFFFFF ((s.part p).clampCount.toNat + 1) := by
  rw [clamp, part_of_shaped _ s hs hp]
  exact clampCount_toNat _

theorem writeLine_of_curKey_none (p : Nat) {dev : Nat} (bytes : List Byte) (pois : Bool) {s : State}
    (hprivate : (s.slab (slabOf dev)).shared = false)
    (hkey : (s.keyReg (slotOf (s.slab (slabOf dev)))).curKey = none) :
    writeLine p dev bytes pois s = clamp p 9 s := by
  simp only [writeLine, hprivate, Bool.false_eq_true, if_false, hkey]

/-! A read that meets no symbol in error: the line decodes to what was stored. -/

@[simp] theorem residueOf_nil : residueOf [] [] = [] := by decide

@[simp] theorem decodeErrs_nil (susp : Nat) : decodeErrs susp [] = .clean [] := rfl

@[simp] theorem spoilLine_nil (s : State) (dev : Nat) (l : Line) : spoilLine s dev l [] (metaErr []) = l := rfl

theorem heldLine_of_written {s : State} {dev : Nat} {m : LineMeta} (hline : mget none s.hbm.lines dev = some m) :
    heldLine s dev = (⟨rdBytes s.hbm.cells dev 64, m.keys, m.md⟩, false) := by
  rw [heldLine, hline]

theorem decodeLine_of_flawless {s : State} {dev : Nat} {m : LineMeta} (scrub : Bool)
    (hline : mget none s.hbm.lines dev = some m) (hflaws : mget [] s.hbm.flaws dev = []) :
    decodeLine dev [] scrub s =
      (s.modHbm (fun h => { h with flaws := mset [] h.flaws dev [] }),
        some ⟨rdBytes s.hbm.cells dev 64, m.keys, m.md⟩) := by
  simp [decodeLine, heldLine_of_written hline, hflaws]

/-! The metadata check. -/

/-- What stands wrong in the cells does not enter the metadata check. -/
theorem metaOk_modHbm_flaws (s : State) (dev : Nat) (md : Half) (f : Hbm → Map (List SymErr)) :
    metaOk (s.modHbm (fun h => { h with flaws := f h })) dev md = metaOk s dev md := rfl

/-- R251: a line whose EPOCH names an epoch that is not loaded fails. -/
theorem metaOk_of_key_none {s : State} {dev : Nat} {md : Half} (hvalid : (s.slab (slabOf dev)).valid = true)
    (hglaze : mget none s.glazeSlabs (slabOf dev) = none)
    (hkey : (s.keyReg (slotOf (s.slab (slabOf dev)))).key (mdEpoch md) = none) : metaOk s dev md = false := by
  simp [metaOk, hvalid, hglaze, hkey]

theorem judgeLine_of_metaOk_false {s : State} {dev : Nat} {l : Line} (scrub : Bool) (h : metaOk s dev l.md = false) :
    (judgeLine dev l scrub s).2 = (List.replicate 64 0, true) := by
  simp [judgeLine, h]

/-- R251, R252: a line that decodes without error and fails the metadata check is delivered poisoned. -/
theorem readLine_of_metaOk_false {s : State} {dev : Nat} {m : LineMeta} (scrub : Bool)
    (hline : mget none s.hbm.lines dev = some m) (hflaws : mget [] s.hbm.flaws dev = [])
    (hmeta : metaOk s dev m.md = false) : (readLine dev [] scrub s).2 = (List.replicate 64 0, true) := by
  rw [readLine, decodeLine_of_flawless scrub hline hflaws]
  exact judgeLine_of_metaOk_false scrub ((metaOk_modHbm_flaws s dev m.md _).trans hmeta)

/-- Settles O60: the write is one clamp of its partition, which touches no memory; the line read decodes as it was stored
and fails the metadata check by its epoch. -/
theorem linesOfAnEmptyEpoch : Obligations.LinesOfAnEmptyEpoch := by
  intro s p dev bytes pois scrub hs
  refine ⟨fun hprivate hcur => ?_, fun m hvalid hglaze hline hflaws hkey => ?_⟩
  · rw [writeLine_of_curKey_none p.toNat bytes pois hprivate hcur]
    exact ⟨rfl, clamp_clampCount 9 hs p.isLt⟩
  · have hmeta := metaOk_of_key_none hvalid hglaze hkey
    exact ⟨hmeta, readLine_of_metaOk_false scrub hline hflaws hmeta⟩

end Sys2Proof.Machine

/-!
The one-time fuses (R379, R391): only COMMIT moves a floor or blows a KEYREVOKE bit, and what a firmware header and a
configuration section are judged by hangs on them.
-/

namespace Sys2Proof.Machine

/-! What keeps the fuses. -/

/-- The footprint of a command that may change everything but the fuses. -/
def allButFuses : Foot where
  free := true
  aon := true
  parts := true
  tiles := true
  imem := true
  log := true
  hbm := true
  repairs := true
  glazeSlabs := true
  glazeGrans := true
  glazeKey := true
  acts := true
  fills := true
  host := true
  pcl := true
  tc := true
  pwr := true
  twin := true
  mdl := true
  evPage := true
  fleet := true
  obs := true
  out := true

@[simp] theorem allButFuses_marks :
    allButFuses.free = true ∧ allButFuses.parts = true ∧ allButFuses.tiles = true ∧ allButFuses.imem = true ∧
    allButFuses.aon = true ∧ allButFuses.log = true ∧ allButFuses.hbm = true ∧ allButFuses.repairs = true ∧
    allButFuses.glazeSlabs = true ∧ allButFuses.glazeGrans = true ∧ allButFuses.glazeKey = true ∧
    allButFuses.acts = true ∧ allButFuses.fills = true ∧ allButFuses.host = true ∧ allButFuses.pcl = true ∧
    allButFuses.tc = true ∧ allButFuses.pwr = true ∧ allButFuses.twin = true ∧ allButFuses.mdl = true ∧
    allButFuses.evPage = true ∧ allButFuses.fleet = true ∧ allButFuses.obs = true ∧ allButFuses.out = true := by
  decide

/-- What the `_erase` lemmas say of this footprint is that the fuses stay. -/
theorem fuses_of_erase {s t : State} (h : t.erase allButFuses = s.erase allButFuses) : t.fuses = s.fuses := by
  show (t.erase allButFuses).fuses = (s.erase allButFuses).fuses
  rw [h]

theorem respond_fuses (op status : Nat) (counter : DWord) (body : List Byte) (sig : Bool) (s : State) :
    (respond op status counter body sig s).fuses = s.fuses := rfl

theorem countCommand_fuses (c : DWord) (s : State) : (countCommand c s).fuses = s.fuses := rfl

theorem wakeUp_fuses (s : State) : (wakeUp s).fuses = s.fuses := fuses_of_erase (by simp)

/-- A management command changes of the fuses what its effect changes of them. `g` is the part of the fuses that is
looked at. -/
theorem mgmtChecked_fuses {α : Type} (g : Fuses → α) {f : State → State} (hf : ∀ s, g (f s).fuses = g s.fuses) (op : Nat)
    (env : Env) (okSig wakes : Bool) (s : State) : g (mgmtChecked op env okSig wakes f s).fuses = g s.fuses := by
  unfold mgmtChecked
  split
  · rw [respond_fuses]
  split
  · rw [respond_fuses]
  split
  · rw [respond_fuses]
  rw [hf]
  split
  · rw [wakeUp_fuses, countCommand_fuses]
  · rw [countCommand_fuses]

theorem mgmtCommand_fuses {f : State → State} (hf : ∀ s, (f s).fuses = s.fuses) (op role : Nat) (env : Env) (s : State) :
    (mgmtCommand op role env f s).fuses = s.fuses := by
  unfold mgmtCommand
  split
  · rfl
  split
  · rfl
  split
  · exact hf s
  · exact mgmtChecked_fuses id hf _ _ _ _ _

/-! A module reset, and what may end in one: the `_erase` lemmas speak of these for a module of the right shape only. -/

theorem moduleReset_fuses (s : State) : (moduleReset s).fuses = s.fuses := rfl

theorem powerOff_fuses (s : State) : (powerOff s).fuses = s.fuses := rfl

theorem detachSettle_fuses (s : State) : (detachSettle s).fuses = s.fuses := by
  unfold detachSettle
  split
  · rfl
  split
  · rfl
  · rw [moduleReset_fuses]
    exact fuses_of_erase (by simp)

theorem twinSettle_fuses (s : State) : (twinSettle s).fuses = s.fuses := by
  rw [twinSettle, detachSettle_fuses]
  exact fuses_of_erase (by simp)

/-- The settling of the twin after what leaves the fuses leaves them too. -/
theorem twinSettle_fuses_of_erase {s t : State} (h : t.erase allButFuses = s.erase allButFuses) :
    (twinSettle t).fuses = s.fuses :=
  (twinSettle_fuses t).trans (fuses_of_erase h)

theorem rxTwin_fuses {act : State → State} (hact : ∀ s, (act s).erase allButFuses = s.erase allButFuses) (kind : Nat)
    (f : Frame) (s : State) : (rxTwin kind f act s).fuses = s.fuses :=
  twinSettle_fuses_of_erase (by simp [hact, apply_ite (State.erase allButFuses)])

theorem rxFlit_fuses {act : Nat → State → State} (hact : ∀ x s, (act x s).fuses = s.fuses) (q typ lop : Nat) (w : Flit)
    (s : State) : (rxFlit q typ lop w act s).fuses = s.fuses := by
  unfold rxFlit
  dsimp only
  split
  · rfl
  split
  · rfl
  split
  · rfl
  split
  · rfl
  · exact hact _ s

theorem detachTimeout_fuses (s : State) : (detachTimeout s).fuses = s.fuses := by
  unfold detachTimeout
  split
  · split
    · exact twinSettle_fuses_of_erase (by simp [forEach_erase])
    · rfl
  · rfl

theorem moduleResetCmd_fuses (counter : DWord) (s : State) : (moduleResetCmd counter s).fuses = s.fuses := by
  unfold moduleResetCmd
  split
  · rfl
  split
  · exact twinSettle_fuses_of_erase (by simp)
  · rfl

/-! The commands. -/

/-- Every command but COMMIT and ENROLL leaves the fuses as they are (R379): those that may end in a module reset by the lemmas
above, all others by their footprint. -/
theorem exec_fuses {c : Instr} {s t : State} (h : exec c s = .next t) (hcommit : ∀ env, c ≠ .commit env)
    (henroll : ∀ env slot revoke hash cert certSig, c ≠ .enroll env slot revoke hash cert certSig) : t.fuses = s.fuses := by
  cases c
  case commit env => exact absurd rfl (hcommit env)
  case enroll env slot revoke hash cert certSig => exact absurd rfl (henroll env slot revoke hash cert certSig)
  all_goals
    clear hcommit henroll
    obtain rfl := Host.Outcome.next.inj h
    clear h
  case moduleReset env => exact mgmtCommand_fuses (moduleResetCmd_fuses env.counter) _ _ env s
  case menDeassert => exact powerOff_fuses s
  case vinUndervoltage => exact powerOff_fuses s
  case vinOvervoltage => exact powerOff_fuses s
  case mrstNAssert =>
    split
    · exact moduleReset_fuses s
    · rfl
  case detachDrainTimeout => exact detachTimeout_fuses s
  case heartbeatLoss => exact twinSettle_fuses_of_erase (by simp)
  case portDown q => exact twinSettle_fuses_of_erase (by simp)
  case credit q w =>
    refine rxFlit_fuses (fun x s => ?_) q.toNat tCredit 0 w s
    split
    · exact twinSettle_fuses_of_erase (by simp)
    · rfl
  case heartbeat | attach | handover | fail | syncdone | fdesc | fimg | twinCtx | prog | preset | ckpt =>
    exact rxTwin_fuses (by simp [apply_ite (State.erase allButFuses)]) _ _ s
  case arrLoadDeferredStart | flipHeldRelease | breadyRepeat | stragglerWindowClose | ledgerCopyDone =>
    refine fuses_of_erase ?_
    split <;> simp [apply_ite (State.erase allButFuses)]
  all_goals exact fuses_of_erase (by simp [apply_ite (State.erase allButFuses)])

end Sys2Proof.Machine

/-!
The floors of the firmware and of the configuration (R383, R386, R388, R391): what is judged by them, and what COMMIT and
ENROLL make of them.
-/

namespace Sys2Proof.Machine

/-! What a firmware header and a configuration section are judged by. -/

/-- The fuses by which a firmware header or a configuration section is too old, or its key revoked: ROOTHASH, KEYREVOKE,
FWFLOOR, CFGFLOOR. -/
def Fuses.floors (f : Fuses) : List Byte × Word × Nat × Nat := (f.roothash, f.keyrevoke, f.fwfloor, f.cfgfloor)

theorem floors_eq_iff {s t : State} : t.fuses.floors = s.fuses.floors ↔
    t.tc.roothash = s.tc.roothash ∧ t.tc.keyrevoke = s.tc.keyrevoke ∧ t.tc.fwfloor = s.tc.fwfloor ∧
      t.tc.cfgfloor = s.tc.cfgfloor := by
  simp only [Fuses.floors, State.fuses, Prod.mk.injEq]

/-- A firmware header is as valid in one state as in another with the same floors (R383, R386). -/
theorem hdrValid_congr {s t : State} (h : t.fuses.floors = s.fuses.floors) (hdr : List Byte) (sigs : Bool) :
    hdrValid t hdr sigs = hdrValid s hdr sigs := by
  obtain ⟨hroot, hrevoke, hfw, -⟩ := floors_eq_iff.1 h
  simp only [hdrValid, keyCertValid, hroot, hrevoke, hfw]

/-- A copy below FWFLOOR is invalid (R386, R391). -/
theorem fwValid_of_svn_lt {s : State} {b : Bool} (sigs : Bool) (h : fwSvn s b < s.tc.fwfloor) : fwValid s b sigs = false := by
  have hle : ¬ s.tc.fwfloor ≤ leNat (((fwHeader s b).drop 8).take 1) := Nat.not_le.2 h
  simp [fwValid, hdrValid, hle]

/-- A section below CFGFLOOR is not accepted (R388, R391). -/
theorem cfgAccepted_of_svn_lt {s : State} {c : List Byte} (sig : Bool) (h : secNum c 16 1 < s.tc.cfgfloor) :
    cfgAccepted s c sig = false := by
  have hle : ¬ s.tc.cfgfloor ≤ secNum c 16 1 := Nat.not_le.2 h
  simp [cfgAccepted, hle]

/-! ENROLL blows a fuse of its slot and no other. -/

theorem enroll_floors (counter : DWord) (slot : Nat) (revoke : Bool) (hash : List Byte) (s : State) :
    (enroll counter slot revoke hash s).fuses.floors = s.fuses.floors := by
  unfold enroll
  dsimp only
  split
  · rfl
  split
  · rfl
  · rfl

theorem execEnroll_floors {env : Env} {slot : BitVec 2} {revoke : Bool} {hash cert : List Byte} {certSig : Bool}
    {s t : State} (h : exec (.enroll env slot revoke hash cert certSig) s = .next t) : t.fuses.floors = s.fuses.floors := by
  obtain rfl := Host.Outcome.next.inj h
  split
  · rfl
  split
  · rfl
  · exact mgmtChecked_fuses Fuses.floors (enroll_floors env.counter slot.toNat revoke hash) _ _ _ _ _

/-- No command but COMMIT moves a floor or blows a KEYREVOKE bit (R391). -/
theorem exec_floors {c : Instr} {s t : State} (h : exec c s = .next t) (hcommit : ∀ env, c ≠ .commit env) :
    t.fuses.floors = s.fuses.floors := by
  by_cases henroll : ∃ env slot revoke hash cert certSig, c = .enroll env slot revoke hash cert certSig
  · obtain ⟨env, slot, revoke, hash, cert, certSig, rfl⟩ := henroll
    exact execEnroll_floors h
  · refine congrArg Fuses.floors (exec_fuses h hcommit fun env slot revoke hash cert certSig hc => henroll ?_)
    exact ⟨env, slot, revoke, hash, cert, certSig, hc⟩

/-! COMMIT. -/

/-- A signed command that passes its checks is counted and carried out (R397). -/
theorem mgmtCommand_of_passes {op role : Nat} {env : Env} {s : State} (f : State → State) (h : MgmtPasses op role env s)
    (hcfg : s.tc.hasCfg = true) (hrole : 2 ≤ role) : mgmtCommand op role env f s = f (countCommand env.counter s) := by
  obtain ⟨hruns, hallows, hsigned⟩ := h
  obtain ⟨hserial, hsig, hanchor, hcounter⟩ := hsigned hcfg
  have hwake : ¬ role < 2 := Nat.not_lt.2 hrole
  have hnew : ¬ env.counter.toNat ≤ s.tc.cmdctr.toNat := Nat.not_le.2 hcounter
  simp [mgmtCommand, mgmtChecked, mgmtSigned, hruns, hallows, hcfg, hserial, hsig, hanchor, hwake, hnew]

/-- Without a configuration section the module takes no COMMIT (R390). -/
theorem hasCfg_of_commit_passes {env : Env} {s : State} (h : MgmtPasses 0x141 3 env s) : s.tc.hasCfg = true := by
  obtain ⟨-, hallows, -⟩ := h
  cases hcfg : s.tc.hasCfg with
  | true => rfl
  | false => simp [mgmtAllows, hcfg] at hallows

/-- What a COMMIT that passes its checks makes of the floors and of KEYREVOKE (R391). -/
theorem execCommit_floors {env : Env} {s t : State} (h : exec (.commit env) s = .next t) (hp : MgmtPasses 0x141 3 env s) :
    t.tc.fwfloor = max s.tc.fwfloor (leNat ((s.tc.fwHdr.drop 8).take 1)) ∧
      t.tc.cfgfloor = max s.tc.cfgfloor (secNum s.tc.cfg 16 1) ∧
      t.tc.keyrevoke = s.tc.keyrevoke ||| BitVec.ofNat 32 (leNat ((s.tc.fwHdr.drop 16).take 4)) := by
  have hcfg := hasCfg_of_commit_passes hp
  have ht : commitFloors env.counter (countCommand env.counter s) = t :=
    (mgmtCommand_of_passes (commitFloors env.counter) hp hcfg (by decide)).symm.trans (Host.Outcome.next.inj h)
  subst ht
  exact ⟨rfl, if_pos hcfg, rfl⟩

/-- Settles O58: every command but COMMIT leaves the fuses that a copy is judged by, a COMMIT that passes its checks finds a
configuration section, and both judgements name their floor. -/
theorem floorsRiseAtCommit : Obligations.FloorsRiseAtCommit := by
  intro s t c h
  refine ⟨fun hcommit => ?_, fun env hc hp => ?_, fun b sigs => fwValid_of_svn_lt sigs,
    fun section_ sig => cfgAccepted_of_svn_lt sig⟩
  · have hfloors := exec_floors h hcommit
    obtain ⟨-, hrevoke, hfw, hcfg⟩ := floors_eq_iff.1 hfloors
    refine ⟨hfw, hcfg, hrevoke, fun b sigs hhdr => ?_⟩
    rw [fwValid, fwValid, hhdr, hdrValid_congr hfloors]
  · subst hc
    exact execCommit_floors h hp

end Sys2Proof.Machine
